-- ==== Sys2Proof/Word.lean ====
section
/-! DEFINITION. The word types of the machine and their plainest arithmetic. -/

namespace Sys2Proof

/-- A 64-bit scalar value (R54). -/
abbrev Word := BitVec 64

/-- One byte of storage. -/
abbrev Byte := BitVec 8

/-- The 16-bit tag of a 64-byte granule (R34). -/
abbrev Tag := BitVec 16

/-- Bytes in a granule (R5, R34). -/
abbrev granule : Nat := 64

end Sys2Proof
end

