-- ==== Sys2Proof/Config.lean ====
section
/-! DEFINITION. What the spec leaves open: the free values. None has a body, so no proof can see one. -/

namespace Sys2Proof.Config

/-- A free byte: what storage delivers where the spec states no content (R75, R106, R399); assumption log 2. -/
opaque freeByte : Nat → Byte

/-- A free tag, where the spec states no content (R75); assumption log 2. -/
opaque freeTag : Nat → Tag

/-- A free byte of a page-table word that nothing has written under owner key index 0 (R66, R75), by its address and the
number of free values drawn so far; assumption log 3. -/
opaque freePte : Nat → Nat → Byte

/-- A free choice among finitely many; assumption log 2. -/
opaque freePick : Nat → Nat

/-- The reducer and the order of arrivals of a sum in ARRIVAL order (R119), by group, number, element and step: the same on
every member; assumption log 2. -/
opaque arrival : Nat → Nat → Nat → Nat → Nat

/-- A free measured quantity, such as a checkpoint number or a digest the spec gives no value of; assumption log 2. -/
opaque freeWord : Nat → Word

/-- The bytes of a saved image in a checkpoint area and in a stream (R365), whose layout the spec does not give; assumption log 80. -/
opaque imageBytes : Nat → List Byte

end Sys2Proof.Config
end

