-- ==== Sys2Proof/Packets.lean ====
section
/-! DEFINITION. What the fabric carries between devices (R335): packets with the header fields of their type, and the
messages of the flux engines. The events of the opcode table name them. -/

namespace Sys2Proof

/-- What a flux engine step or a span message says (R113, R259, R319, R327, R328). -/
inductive FluxMsg where
  | none
  /-- the first packet of a conversion: place, mask, target, current state and order -/
  | convFirst (place mask tgt cur ord : Nat)
  /-- a member's part of a conversion: its shard as rows of granules -/
  | convPart (place mask : Nat)
  /-- a conversion abandoned by a member: LAST as R107 codes it, and the cause of the trap that its loads take (R112) -/
  | convDrop (place mask last cause : Nat)
  /-- the first packet of a collective: channel, kind, block and chunk lengths -/
  | collFirst (chan k n chunk : Nat)
  /-- a member's source run of a collective -/
  | collPart (chan : Nat)
  /-- a launch message (R319): 0 to check and report, 1 to reserve a context; entry number,
  the queue, its PRIO, whether it has placed no task since its EN was last set, and the entry's words -/
  | launch (go ent queue prio : Nat) (first : Bool) (ws : List Word)
  /-- a member's report of its checks (0), of the end of its task (1), with status and final ccy, or of its reservation (2)
  (R319) -/
  | report (ent kind status : Nat) (ccy : Word)
  /-- a timed event made known to a member: kind, timestamp, span-wide number (R262, R328) -/
  | arm (kind : Nat) (t : Word) (num : Nat)
  /-- a start or stop token of a timed event (R328) -/
  | token (kind : Nat) (t : Word)
  /-- an acknowledgement of a timed event (R328), or of a step of a checkpoint (R365) -/
  | ack (kind : Nat) (t : Word)
  /-- the stream of a checkpoint to the buddy, by its number (R365) -/
  | stream (num : Nat) (t : Word)
  /-- the last complete image of a lost member for the standby in its place, by its number (R368) -/
  | image (num : Nat) (t : Word)
  /-- a rollback to a checkpoint, the timestamp of resumption, and the peer lost, plus 1 (R365, R368) -/
  | back (num : Nat) (t : Word) (lost : Nat)
  /-- a ward asks for the checkpoint contents of what the journal names (R367) -/
  | restore
  /-- a heartbeat, with the peer that the sender's BUDDY names (R363, R368) -/
  | beat (buddy : Nat)
  /-- a member reports an error beyond correction (R78, R363) -/
  | struck
  /-- the span has ended: KIND and LOST of the recovery record (R366, R368, R369) -/
  | ended (kind lost : Nat)
  /-- a checkpoint asked of the coordinator (R367) -/
  | askCkpt
  /-- stage T2 or T3 of the quench of an entry (R319) -/
  | quench (stage ent : Nat)
  /-- a timing message: offset of the servo in ns, and the uncertainty it gives (R327) -/
  | time (off : Int) (unc : Nat)
  deriving DecidableEq, Repr

/-- A packet (R335). `ty` is PTYPE; `seq` counts without bound, and the header carries its low bits; `id` pairs an
answer with its request, and `len` counts the bytes a request asks for. -/
structure Pkt where
  ty   : Nat
  src  : Nat
  ssub : Nat
  dst  : Nat
  dsub : Nat
  ctx  : Nat
  seq  : Nat
  id   : Nat
  key  : Nat
  va   : Nat
  len  : Nat
  opa  : Word
  opb  : Word
  op   : Nat
  data : List Byte
  tags : List (Option Tag)
  flux : FluxMsg
  deriving DecidableEq, Repr

/-- A packet with every field zero. -/
def Pkt.zero : Pkt :=
  { ty := 0, src := 0, ssub := 0, dst := 0, dsub := 0, ctx := 0, seq := 0, id := 0, key := 0, va := 0, len := 0,
    opa := 0, opb := 0, op := 0, data := [], tags := [], flux := .none }

/-- An inbound request of a PCI Express function (R348, R355, R360): port, function, BAR, offset, length, for a write its
bytes and attributes, and whether it is an AtomicOp. -/
structure Req where
  port : Nat
  fn   : Nat
  bar  : Nat
  off  : Nat
  len  : Nat
  data : List Byte
  ro   : Bool
  bad  : Bool
  aop  : Bool := false
  deriving DecidableEq, Repr

/-- A register write on its way to its register (R350, R359): port and function (port 2 for the management bus), offset,
size, value, and the posted write it belongs to. -/
structure RegWr where
  port : Nat
  fn   : Nat
  off  : Nat
  n    : Nat
  val  : Word
  id   : Nat
  deriving DecidableEq, Repr

end Sys2Proof
end

