-- ==== Sys2Proof/Syntax.lean ====
section
/-! DEFINITION. The instructions: the operands and words of the seven slots, the bundle forms, and the events of
the hardware's agents, one constructor for each row of the opcode table. -/

namespace Sys2Proof

/-- The seven slots of a bundle (R144), in slot order. -/
inductive Slot where
  | b | s | m | v | x | h | t
  deriving DecidableEq, Repr

/-- The bit of the slot in PRES, and its number in tcs.SLOT (R144, R164, R226). -/
def Slot.num : Slot → Nat
  | .b => 0 | .s => 1 | .m => 2 | .v => 3 | .x => 4 | .h => 5 | .t => 6

/-- Every operand a legal operand code names (R173). -/
inductive Opnd where
  | g (n : BitVec 5)      -- scalar register
  | w (n : BitVec 5)      -- view register
  | rp (n : BitVec 2)     -- read port pa, pb, pc, pd
  | wp (n : BitVec 1)     -- write port pw, px
  | sb (n : BitVec 1)     -- the last and the previous S result
  | vb (n : BitVec 1)     -- the last and the previous V result row
  | xb                    -- the last X result row
  | hl                    -- the hammer operand latch
  | ch (n : BitVec 3)     -- channel
  | eq                    -- the event queue
  | cq                    -- the condition queue
  | imm (n : BitVec 5)    -- the integer n - 16
  deriving DecidableEq, Repr

/-- The guard of an operation: PRED and PN (R170, R171). -/
structure Guard where
  p : BitVec 4
  n : BitVec 1
  deriving DecidableEq, Repr

/-- A path: box slot, four coordinates and the mesh selector (R21, R22). -/
structure Path where
  bx   : BitVec 4
  c0   : Opnd
  c1   : Opnd
  c2   : Opnd
  c3   : Opnd
  msel : BitVec 4
  deriving DecidableEq, Repr

/-- The mask and step fields of a V-slot word: MNEG, MV, MEN, STEPA to STEPD in bits 0 to 3 of `st` (R266). -/
structure VMask where
  mneg : BitVec 1
  mv   : BitVec 5
  men  : BitVec 1
  st   : BitVec 4
  deriving DecidableEq, Repr

/-- The acquire and release flags of an engine command (R250, R290). -/
structure EFlags where
  rsc : BitVec 3
  rel : BitVec 1
  asc : BitVec 3
  acq : BitVec 1
  deriving DecidableEq, Repr

/-- The destination of `cmp`: an operand, or a predicate when TOP is set (R197). -/
inductive CmpDst where
  | val (o : Opnd)
  | pred (n : BitVec 4)
  deriving DecidableEq, Repr

/-- The tested source of `setp`: an operand, or a tile status register when TS is set (R198). -/
inductive SetpSrc where
  | val (o : Opnd)
  | ts (k : BitVec 3)
  deriving DecidableEq, Repr


/-- One operation of the opcode table: a slot operation of a bundle (files 08 to 11), a form of the bundle
itself, or one indivisible event of a hardware agent or of an outside party (file 95). -/
inductive Instr where
  /-- NOP_B (R195). -/
  | nopB (g : Guard)
  /-- BR_T (R195). -/
  | brT (g : Guard) (off : BitVec 24)
  /-- BR_F (R195). -/
  | brF (g : Guard) (off : BitVec 24)
  /-- JMP (R195). -/
  | jmp (g : Guard) (off : BitVec 24)
  /-- JMPI (R195). -/
  | jmpi (g : Guard) (b : Opnd)
  /-- BSR (R196). -/
  | bsr (g : Guard) (off : BitVec 24)
  /-- RET (R196). -/
  | ret (g : Guard)
  /-- LOOP (R202). -/
  | loop (g : Guard) (lvl : BitVec 2) (n : Opnd) (imm : BitVec 24)
  /-- LOOP_ROT (R202). -/
  | loopRot (g : Guard) (lvl : BitVec 2) (n : Opnd) (s : Opnd) (imm : BitVec 24)
  /-- WAIT (R208). -/
  | wait (g : Guard) (imm : BitVec 24)
  /-- EVWAIT (R209). -/
  | evwait (g : Guard) (d : Opnd)
  /-- BAR (R210). -/
  | bar (g : Guard) (id : BitVec 4)
  /-- YIELD (R211). -/
  | yieldB (g : Guard)
  /-- DONE (R212). -/
  | done (g : Guard)
  /-- TRAP (R229). -/
  | trap (g : Guard) (code : BitVec 24)
  /-- ERET (R228). -/
  | eret (g : Guard)
  /-- BRK (R229). -/
  | brk (g : Guard) (code : BitVec 24)
  /-- CQCLR (R195). -/
  | cqclr (g : Guard)
  /-- ADD (R213). -/
  | add (g : Guard) (d : Opnd) (b : Opnd) (c : Opnd)
  /-- SUB (R213). -/
  | sub (g : Guard) (d : Opnd) (b : Opnd) (c : Opnd)
  /-- MUL (R213). -/
  | mul (g : Guard) (d : Opnd) (b : Opnd) (c : Opnd)
  /-- MULH (R214). -/
  | mulh (g : Guard) (nat : BitVec 1) (d : Opnd) (b : Opnd) (c : Opnd)
  /-- DIVS (R214). -/
  | divs (g : Guard) (d : Opnd) (b : Opnd) (c : Opnd)
  /-- REMS (R214). -/
  | rems (g : Guard) (d : Opnd) (b : Opnd) (c : Opnd)
  /-- DIVN (R214). -/
  | divn (g : Guard) (d : Opnd) (b : Opnd) (c : Opnd)
  /-- REMN (R214). -/
  | remn (g : Guard) (d : Opnd) (b : Opnd) (c : Opnd)
  /-- AND (R213). -/
  | andS (g : Guard) (d : Opnd) (b : Opnd) (c : Opnd)
  /-- OR (R213). -/
  | orS (g : Guard) (d : Opnd) (b : Opnd) (c : Opnd)
  /-- XOR (R213). -/
  | xorS (g : Guard) (d : Opnd) (b : Opnd) (c : Opnd)
  /-- SHL (R213). -/
  | shl (g : Guard) (d : Opnd) (b : Opnd) (c : Opnd)
  /-- SHR (R213). -/
  | shr (g : Guard) (d : Opnd) (b : Opnd) (c : Opnd)
  /-- SRA (R213). -/
  | sra (g : Guard) (d : Opnd) (b : Opnd) (c : Opnd)
  /-- MIN (R213). -/
  | min (g : Guard) (d : Opnd) (b : Opnd) (c : Opnd)
  /-- MAX (R213). -/
  | max (g : Guard) (d : Opnd) (b : Opnd) (c : Opnd)
  /-- MINN (R213). -/
  | minn (g : Guard) (d : Opnd) (b : Opnd) (c : Opnd)
  /-- MAXN (R213). -/
  | maxn (g : Guard) (d : Opnd) (b : Opnd) (c : Opnd)
  /-- CLZ (R215). -/
  | clz (g : Guard) (d : Opnd) (b : Opnd)
  /-- POPC (R215). -/
  | popc (g : Guard) (d : Opnd) (b : Opnd)
  /-- LI (R216). -/
  | li (g : Guard) (d : Opnd) (imm : BitVec 24)
  /-- LIH_M (R216). -/
  | lihM (g : Guard) (d : BitVec 5) (imm : BitVec 24)
  /-- LIH_H (R216). -/
  | lihH (g : Guard) (d : BitVec 5) (imm : BitVec 16)
  /-- MOV (R217). -/
  | mov (g : Guard) (d : Opnd) (b : Opnd)
  /-- SEL (R217). -/
  | sel (g : Guard) (d : Opnd) (b : Opnd) (c : Opnd) (neg : BitVec 1) (p : BitVec 4)
  /-- CMP (R197). -/
  | cmp (g : Guard) (cc : BitVec 3) (d : CmpDst) (b : Opnd) (c : Opnd)
  /-- SETP (R198). -/
  | setp (g : Guard) (neg : BitVec 1) (p : BitVec 4) (b : SetpSrc) (c : Opnd)
  /-- PAND (R199). -/
  | pand (g : Guard) (pb : BitVec 4) (pa : BitVec 4) (pd : BitVec 4)
  /-- POR (R199). -/
  | por (g : Guard) (pb : BitVec 4) (pa : BitVec 4) (pd : BitVec 4)
  /-- PXOR (R199). -/
  | pxor (g : Guard) (pb : BitVec 4) (pa : BitVec 4) (pd : BitVec 4)
  /-- PNOT (R199). -/
  | pnot (g : Guard) (pa : BitVec 4) (pd : BitVec 4)
  /-- AGSET (R218). -/
  | agset (g : Guard) (port : Opnd) (v : BitVec 5)
  /-- AGPOS (R218). -/
  | agpos (g : Guard) (d : Opnd) (port : Opnd)
  /-- VIEW (R219). -/
  | view (g : Guard) (v : BitVec 5) (b : Opnd)
  /-- SHAPE (R220). -/
  | shape (g : Guard) (mz : BitVec 1) (tz : BitVec 1) (d : Opnd) (rows : Opnd) (cols : Opnd) (fmt : BitVec 5)
  /-- BXINFO (R221). -/
  | bxinfo (g : Guard) (d : Opnd) (c : BitVec 5) (bx : BitVec 4) (what : BitVec 6)
  /-- SGET (R224). -/
  | sget (g : Guard) (d : Opnd) (num : BitVec 12)
  /-- SSET (R224). -/
  | sset (g : Guard) (b : Opnd) (num : BitVec 12)
  /-- TSGET (R222). -/
  | tsget (g : Guard) (d : Opnd) (k : BitVec 3)
  /-- XPAT (R281). -/
  | xpat (g : Guard) (v : BitVec 5) (lsz : BitVec 2) (k : BitVec 3)
  /-- LD (R237). -/
  | ld (g : Guard) (d : BitVec 5) (path : Path)
  /-- LD_ACQ (R237). -/
  | ldAcq (g : Guard) (sc : BitVec 3) (d : BitVec 5) (path : Path)
  /-- ST (R237). -/
  | st (g : Guard) (a : Opnd) (path : Path)
  /-- ST_REL (R237). -/
  | stRel (g : Guard) (sc : BitVec 3) (a : Opnd) (path : Path)
  /-- LDV (R237). -/
  | ldv (g : Guard) (v : BitVec 5) (path : Path)
  /-- LDV_ACQ (R237). -/
  | ldvAcq (g : Guard) (sc : BitVec 3) (v : BitVec 5) (path : Path)
  /-- STV (R237). -/
  | stv (g : Guard) (v : BitVec 5) (path : Path)
  /-- STV_REL (R237). -/
  | stvRel (g : Guard) (sc : BitVec 3) (v : BitVec 5) (path : Path)
  /-- LDFF (R238). -/
  | ldff (g : Guard) (v : BitVec 5) (path : Path)
  /-- LDBLK (R239). -/
  | ldblk (g : Guard) (v : BitVec 5) (path : Path)
  /-- STBLK (R239). -/
  | stblk (g : Guard) (v : BitVec 5) (path : Path)
  /-- LDTAG (R240). -/
  | ldtag (g : Guard) (d : BitVec 5) (path : Path)
  /-- STTAG (R240). -/
  | sttag (g : Guard) (a : Opnd) (path : Path)
  /-- LDR (R242). -/
  | ldr (g : Guard) (acq : BitVec 1) (d : Opnd) (path : Path)
  /-- STR (R242). -/
  | str (g : Guard) (rel : BitVec 1) (a : Opnd) (path : Path)
  /-- ALIGN (R127). -/
  | align (g : Guard)
  /-- FENCE (R132). -/
  | fence (g : Guard) (sc : BitVec 3)
  /-- PF (R245). -/
  | pf (g : Guard) (path : Path)
  /-- RFENCE (R246). -/
  | rfence (g : Guard) (a : Opnd) (path : Path)
  /-- LDP (R247). -/
  | ldp (g : Guard) (d : BitVec 5) (path : Path)
  /-- STP (R248). -/
  | stp (g : Guard) (a : Opnd) (path : Path)
  /-- WAITV (R249). -/
  | waitv (g : Guard) (cc : BitVec 3) (a : Opnd) (path : Path)
  /-- WAITV_ACQ (R249). -/
  | waitvAcq (g : Guard) (sc : BitVec 3) (cc : BitVec 3) (a : Opnd) (path : Path)
  /-- ATOM_ADD (R241). -/
  | atomAdd (g : Guard) (ord : BitVec 2) (sc : BitVec 3) (a : BitVec 5) (path : Path)
  /-- ATOM_AND (R241). -/
  | atomAnd (g : Guard) (ord : BitVec 2) (sc : BitVec 3) (a : BitVec 5) (path : Path)
  /-- ATOM_OR (R241). -/
  | atomOr (g : Guard) (ord : BitVec 2) (sc : BitVec 3) (a : BitVec 5) (path : Path)
  /-- ATOM_XOR (R241). -/
  | atomXor (g : Guard) (ord : BitVec 2) (sc : BitVec 3) (a : BitVec 5) (path : Path)
  /-- ATOM_MIN (R241). -/
  | atomMin (g : Guard) (ord : BitVec 2) (sc : BitVec 3) (a : BitVec 5) (path : Path)
  /-- ATOM_MAX (R241). -/
  | atomMax (g : Guard) (ord : BitVec 2) (sc : BitVec 3) (a : BitVec 5) (path : Path)
  /-- ATOM_MINN (R241). -/
  | atomMinn (g : Guard) (ord : BitVec 2) (sc : BitVec 3) (a : BitVec 5) (path : Path)
  /-- ATOM_MAXN (R241). -/
  | atomMaxn (g : Guard) (ord : BitVec 2) (sc : BitVec 3) (a : BitVec 5) (path : Path)
  /-- ATOM_SWAP (R241). -/
  | atomSwap (g : Guard) (ord : BitVec 2) (sc : BitVec 3) (a : BitVec 5) (path : Path)
  /-- ATOM_CAS (R241). -/
  | atomCas (g : Guard) (ord : BitVec 2) (sc : BitVec 3) (a : BitVec 5) (path : Path)
  /-- ATOMR_ADD (R242). -/
  | atomrAdd (g : Guard) (ord : BitVec 2) (a : BitVec 5) (path : Path)
  /-- ATOMR_AND (R242). -/
  | atomrAnd (g : Guard) (ord : BitVec 2) (a : BitVec 5) (path : Path)
  /-- ATOMR_OR (R242). -/
  | atomrOr (g : Guard) (ord : BitVec 2) (a : BitVec 5) (path : Path)
  /-- ATOMR_XOR (R242). -/
  | atomrXor (g : Guard) (ord : BitVec 2) (a : BitVec 5) (path : Path)
  /-- ATOMR_MIN (R242). -/
  | atomrMin (g : Guard) (ord : BitVec 2) (a : BitVec 5) (path : Path)
  /-- ATOMR_MAX (R242). -/
  | atomrMax (g : Guard) (ord : BitVec 2) (a : BitVec 5) (path : Path)
  /-- ATOMR_MINN (R242). -/
  | atomrMinn (g : Guard) (ord : BitVec 2) (a : BitVec 5) (path : Path)
  /-- ATOMR_MAXN (R242). -/
  | atomrMaxn (g : Guard) (ord : BitVec 2) (a : BitVec 5) (path : Path)
  /-- ATOMR_SWAP (R242). -/
  | atomrSwap (g : Guard) (ord : BitVec 2) (a : BitVec 5) (path : Path)
  /-- ATOMR_CAS (R242). -/
  | atomrCas (g : Guard) (ord : BitVec 2) (a : BitVec 5) (path : Path)
  /-- CALL (R83). -/
  | call (g : Guard) (d : BitVec 5) (v : BitVec 5)
  /-- CALL_GANG (R96). -/
  | callGang (g : Guard) (d : BitVec 5) (v : BitVec 5) (n : Opnd)
  /-- JOIN (R252). -/
  | join (g : Guard) (d : Opnd) (h : Opnd)
  /-- SPAWN (R253). -/
  | spawn (g : Guard) (d : BitVec 5) (v : BitVec 5)
  /-- CPY (R255). -/
  | cpy (g : Guard) (v : BitVec 5) (fl : EFlags)
  /-- CPYG (R256). -/
  | cpyg (g : Guard) (v : BitVec 5) (x : BitVec 5) (fl : EFlags)
  /-- CPYR (R257). -/
  | cpyr (g : Guard) (v : BitVec 5) (fl : EFlags)
  /-- FILL (R256). -/
  | fill (g : Guard) (v : BitVec 5) (b : Opnd) (fl : EFlags)
  /-- COLL_ALLREDUCE (R258). -/
  | collAllreduce (g : Guard) (v : BitVec 5) (fl : EFlags)
  /-- COLL_ALLGATHER (R258). -/
  | collAllgather (g : Guard) (v : BitVec 5) (fl : EFlags)
  /-- COLL_REDUCESCATTER (R258). -/
  | collReducescatter (g : Guard) (v : BitVec 5) (fl : EFlags)
  /-- COLL_ALLTOALL (R258). -/
  | collAlltoall (g : Guard) (v : BitVec 5) (fl : EFlags)
  /-- PLACE_Q (R261). -/
  | placeQ (g : Guard) (d : BitVec 5) (bx : BitVec 4)
  /-- PLACE_D (R109). -/
  | placeD (g : Guard) (a : Opnd) (bx : BitVec 4)
  /-- CKPT (R262). -/
  | ckpt (g : Guard) (d : BitVec 5) (t : Opnd)
  /-- TLAUNCH (R263). -/
  | tlaunch (g : Guard) (d : BitVec 5) (v : BitVec 5) (t : Opnd)
  /-- TPRE (R264). -/
  | tpre (g : Guard) (t : Opnd)
  /-- VADD (R270). -/
  | vadd (g : Guard) (rm : BitVec 2) (d : Opnd) (b : Opnd) (c : Opnd) (m : VMask)
  /-- VSUB (R270). -/
  | vsub (g : Guard) (rm : BitVec 2) (d : Opnd) (b : Opnd) (c : Opnd) (m : VMask)
  /-- VMUL (R270). -/
  | vmul (g : Guard) (rm : BitVec 2) (d : Opnd) (b : Opnd) (c : Opnd) (m : VMask)
  /-- VFMA (R270). -/
  | vfma (g : Guard) (rm : BitVec 2) (d : Opnd) (b : Opnd) (c : Opnd) (e : Opnd) (m : VMask)
  /-- VFMS (R270). -/
  | vfms (g : Guard) (rm : BitVec 2) (d : Opnd) (b : Opnd) (c : Opnd) (e : Opnd) (m : VMask)
  /-- VMIN (R270). -/
  | vmin (g : Guard) (d : Opnd) (b : Opnd) (c : Opnd) (m : VMask)
  /-- VMAX (R270). -/
  | vmax (g : Guard) (d : Opnd) (b : Opnd) (c : Opnd) (m : VMask)
  /-- VDIV (R270). -/
  | vdiv (g : Guard) (rm : BitVec 2) (d : Opnd) (b : Opnd) (c : Opnd) (m : VMask)
  /-- VABS (R270). -/
  | vabs (g : Guard) (d : Opnd) (b : Opnd) (m : VMask)
  /-- VNEG (R270). -/
  | vneg (g : Guard) (d : Opnd) (b : Opnd) (m : VMask)
  /-- VRCP (R270). -/
  | vrcp (g : Guard) (rm : BitVec 2) (d : Opnd) (b : Opnd) (m : VMask)
  /-- VSQRT (R270). -/
  | vsqrt (g : Guard) (rm : BitVec 2) (d : Opnd) (b : Opnd) (m : VMask)
  /-- VRSQRT (R270). -/
  | vrsqrt (g : Guard) (rm : BitVec 2) (d : Opnd) (b : Opnd) (m : VMask)
  /-- VEXP2 (R270). -/
  | vexp2 (g : Guard) (rm : BitVec 2) (d : Opnd) (b : Opnd) (m : VMask)
  /-- VLOG2 (R270). -/
  | vlog2 (g : Guard) (rm : BitVec 2) (d : Opnd) (b : Opnd) (m : VMask)
  /-- VCVT (R272). -/
  | vcvt (g : Guard) (rm : BitVec 2) (d : Opnd) (b : Opnd) (csel : BitVec 3) (m : VMask)
  /-- VPACK (R274). -/
  | vpack (g : Guard) (rm : BitVec 2) (d : Opnd) (b : Opnd) (csel : BitVec 3) (m : VMask)
  /-- VSUM (R275). -/
  | vsum (g : Guard) (rm : BitVec 2) (d : Opnd) (b : Opnd) (m : VMask)
  /-- VMAXR (R275). -/
  | vmaxr (g : Guard) (d : Opnd) (b : Opnd) (m : VMask)
  /-- VCMP (R276). -/
  | vcmp (g : Guard) (cc : BitVec 3) (d : Opnd) (b : Opnd) (c : Opnd) (m : VMask)
  /-- VSEL (R277). -/
  | vsel (g : Guard) (d : Opnd) (q : BitVec 5) (c : Opnd) (e : Opnd) (m : VMask)
  /-- VANY_ANY (R278). -/
  | vanyAny (g : Guard) (b : Opnd) (m : VMask)
  /-- VANY_ALL (R278). -/
  | vanyAll (g : Guard) (b : Opnd) (m : VMask)
  /-- VANY_UNI (R278), and the KIND 3, which names no test; bit 3 of `m.st`, no step flag here, is the low bit of KIND. -/
  | vanyUni (g : Guard) (b : Opnd) (m : VMask)
  /-- VAND (R271). -/
  | vand (g : Guard) (d : Opnd) (b : Opnd) (c : Opnd) (m : VMask)
  /-- VOR (R271). -/
  | vor (g : Guard) (d : Opnd) (b : Opnd) (c : Opnd) (m : VMask)
  /-- VXOR (R271). -/
  | vxor (g : Guard) (d : Opnd) (b : Opnd) (c : Opnd) (m : VMask)
  /-- VNOT (R271). -/
  | vnot (g : Guard) (d : Opnd) (b : Opnd) (m : VMask)
  /-- VSHL (R271). -/
  | vshl (g : Guard) (d : Opnd) (b : Opnd) (c : Opnd) (m : VMask)
  /-- VSHR (R271). -/
  | vshr (g : Guard) (d : Opnd) (b : Opnd) (c : Opnd) (m : VMask)
  /-- VSRA (R271). -/
  | vsra (g : Guard) (d : Opnd) (b : Opnd) (c : Opnd) (m : VMask)
  /-- VMOV (R279). -/
  | vmov (g : Guard) (d : Opnd) (b : Opnd) (m : VMask)
  /-- VBCAST (R279). -/
  | vbcast (g : Guard) (d : Opnd) (b : Opnd) (k : Opnd) (m : VMask)
  /-- VIOTA (R279). -/
  | viota (g : Guard) (d : Opnd) (b : Opnd) (c : Opnd) (m : VMask)
  /-- VCLASS (R279). -/
  | vclass (g : Guard) (d : Opnd) (b : Opnd) (m : VMask)
  /-- XPERM (R282). -/
  | xperm (g : Guard) (k : BitVec 3) (d : Opnd) (b : Opnd) (sf : BitVec 4)
  /-- XROT (R283). -/
  | xrot (g : Guard) (d : Opnd) (k : Opnd) (b : Opnd) (sf : BitVec 4)
  /-- XROT_C (R283). -/
  | xrotC (g : Guard) (d : Opnd) (k : Opnd) (b : Opnd) (sf : BitVec 4)
  /-- XTRN (R284). -/
  | xtrn (g : Guard) (d : Opnd) (b : Opnd) (sf : BitVec 4)
  /-- XBCAST (R284). -/
  | xbcast (g : Guard) (d : Opnd) (b : Opnd) (k : Opnd) (sf : BitVec 4)
  /-- XZIP (R284). -/
  | xzip (g : Guard) (d : Opnd) (b : Opnd) (c : Opnd) (sf : BitVec 4)
  /-- XUNZIP (R284). -/
  | xunzip (g : Guard) (d : Opnd) (b : Opnd) (k : Opnd) (sf : BitVec 4)
  /-- XCMPR (R284). -/
  | xcmpr (g : Guard) (d : Opnd) (b : Opnd) (q : BitVec 5) (sf : BitVec 4)
  /-- HNOP (R289). -/
  | hnop (g : Guard)
  /-- HMMA (R287). -/
  | hmma (g : Guard) (cls : BitVec 2) (a : Opnd) (b : BitVec 5) (c : BitVec 5) (acc : BitVec 1) (ts : BitVec 3) (sf : BitVec 4)
  /-- HMMN (R287). -/
  | hmmn (g : Guard) (cls : BitVec 2) (a : Opnd) (b : BitVec 5) (c : BitVec 5) (acc : BitVec 1) (ts : BitVec 3) (sf : BitVec 4)
  /-- HGAT (R290). -/
  | hgat (g : Guard) (v : BitVec 5) (rsc : BitVec 3) (rel : BitVec 1) (asc : BitVec 3) (acq : BitVec 1) (bx : BitVec 4) (sf : BitVec 4)
  /-- IDLE (R168). -/
  | idle (k : BitVec 4) (r : BitVec 8)
  /-- IDLE_HOLD (R168). -/
  | idleHold (k : BitVec 4) (r : BitVec 8)
  /-- MARK (R169). -/
  | mark (exp : BitVec 32)
  /-- LATCH_COMMIT (R148). -/
  | latchCommit (h : Nat)
  /-- LOAD_ARRIVE (R207). -/
  | loadArrive (h : Nat) (tok : Nat)
  /-- STALL_CYCLE (R150). -/
  | stallCycle (h : Nat)
  /-- CONTEXT_WAKE (R151). -/
  | contextWake (h : Nat)
  /-- ISSUE_STAGE_GRANT (R153). -/
  | issueStageGrant (k : Nat)
  /-- SAMPLE_RECORD (R377). -/
  | sampleRecord (h : Nat)
  /-- PORT_FETCH (R182). -/
  | portFetch (h : Nat) (n : Nat)
  /-- MEMORY_ACCESS_PERFORM (R128). -/
  | memoryAccessPerform (h : Nat) (tok : Nat) (k : Nat)
  /-- CRUCIBLE_SERVE (R72). -/
  | crucibleServe (cl : Nat)
  /-- TRANSLATION_WALK_DONE (R68). -/
  | translationWalkDone (cl : Nat) (d : Nat) (c : Nat) (va : Nat)
  /-- RETENTION_ENTER (R77). -/
  | retentionEnter (k : Nat)
  /-- SCRUB (R78). -/
  | scrub (a : Nat)
  /-- MACHINE_CHECK (R78). -/
  | machineCheck (a : Nat)
  /-- CALL_LEAVE_WAIT (R84). -/
  | callLeaveWait (tab : Nat) (ent : Nat)
  /-- INWARD_COPY_LANDED (R86). -/
  | inwardCopyLanded (tab : Nat) (ent : Nat)
  /-- CHILD_START (R320). -/
  | childStart (tab : Nat) (ent : Nat)
  /-- GANG_READY_TIMEOUT (R320). -/
  | gangReadyTimeout (tab : Nat) (ent : Nat)
  /-- OUTWARD_COPY_START (R93). -/
  | outwardCopyStart (tab : Nat) (ent : Nat)
  /-- OUTWARD_COPY_LANDED (R87). -/
  | outwardCopyLanded (tab : Nat) (ent : Nat)
  /-- RECORD_WRITE (R89). -/
  | recordWrite (tab : Nat) (ent : Nat)
  /-- TASK_END (R212). -/
  | taskEnd (h : Nat)
  /-- COPY_FAULT (R97). -/
  | copyFault (id : Nat)
  /-- COPY_COMPLETE (R134). -/
  | copyComplete (id : Nat)
  /-- BACKOFF_RESEND (R244). -/
  | backoffResend (id : Nat)
  /-- EGRESS_RELEASE (R139). -/
  | egressRelease (h : Nat) (tok : Nat)
  /-- WRITE_PACKET (R139). -/
  | writePacket (p : Pkt)
  /-- READ_REQUEST (R242). -/
  | readRequest (p : Pkt)
  /-- READ_DATA (R243). -/
  | readData (p : Pkt)
  /-- ATOMIC_PACKET (R242). -/
  | atomicPacket (p : Pkt)
  /-- ATOMIC_RESULT (R243). -/
  | atomicResult (p : Pkt)
  /-- FENCE_PACKET (R139). -/
  | fencePacket (p : Pkt)
  /-- FENCE_FLAG_WRITE (R139). -/
  | fenceFlagWrite (d : Nat) (c : Nat)
  /-- CANCEL (R140). -/
  | cancel (p : Pkt)
  /-- RECEIVER_NOT_READY (R339). -/
  | receiverNotReady (p : Pkt)
  /-- WRITE_ACKNOWLEDGEMENT (R257). -/
  | writeAcknowledgement (p : Pkt)
  /-- CHANNEL_ELEMENT (R341). -/
  | channelElement (p : Pkt)
  /-- CHANNEL_CREDIT (R341). -/
  | channelCredit (p : Pkt)
  /-- FLUX_ENGINE_STEP (R113). -/
  | fluxEngineStep (p : Pkt)
  /-- CONVERSION_START (R113). -/
  | conversionStart (d : Nat) (c : Nat) (pl : Nat)
  /-- CONVERSION_COMPLETE (R116). -/
  | conversionComplete (d : Nat) (c : Nat) (pl : Nat)
  /-- COLL_START (R259). -/
  | collStart (id : Nat)
  /-- CHUNK_FINAL (R260). -/
  | chunkFinal (id : Nat) (j : Nat)
  /-- IEEE_1588_MESSAGE (R327). -/
  | ieee1588Message (p : Pkt)
  /-- START_OR_STOP_TOKEN (R328). -/
  | startOrStopToken (p : Pkt)
  /-- TIMED_START (R328). -/
  | timedStart (d : Nat) (c : Nat) (num : Nat)
  /-- TIMED_HALT (R328). -/
  | timedHalt (d : Nat) (c : Nat) (num : Nat)
  /-- CONTEXT_SWAP (R161). -/
  | contextSwap (d : Nat)
  /-- ENTRY_TAKE (R310). -/
  | entryTake (q : Nat)
  /-- LAUNCH_MESSAGE (R319). -/
  | launchMessage (p : Pkt)
  /-- MEMBER_REPORT (R319). -/
  | memberReport (p : Pkt)
  /-- QUENCH_T1 (R325). -/
  | quenchT1 (q : Nat)
  /-- QUENCH_T2 (R325). -/
  | quenchT2 (q : Nat)
  /-- QUENCH_T3 (R326). -/
  | quenchT3 (q : Nat)
  /-- QCFG_WRITE (R309). -/
  | qcfgWrite (w : RegWr)
  /-- QTAIL_WRITE (R310). -/
  | qtailWrite (w : RegWr)
  /-- APWCFG_WRITE (R354). -/
  | apwcfgWrite (w : RegWr)
  /-- APERR_WRITE (R355). -/
  | aperrWrite (w : RegWr)
  /-- CHANNEL_ENTRY_WRITE (R340). -/
  | channelEntryWrite (w : RegWr)
  /-- MSIX_VECTOR_CONTROL_WRITE (R353). -/
  | msixVectorControlWrite (w : RegWr)
  /-- ERROR_LOG_WRITE (R370). -/
  | errorLogWrite (w : RegWr)
  /-- REGISTER_WRITE (R350). -/
  | registerWrite (w : RegWr)
  /-- POSTED_WRITE (R360). -/
  | postedWrite (r : Req)
  /-- PIECE_ACK (R359). -/
  | pieceAck (f : Nat) (id : Nat) (k : Nat)
  /-- MEMORY_READ (R361). -/
  | memoryRead (r : Req)
  /-- PCIE_LINK_TRAINING (R347). -/
  | pcieLinkTraining (k : Nat)
  /-- LINK_TRAINING (R336). -/
  | linkTraining (k : Nat)
  /-- LINK_RETRAIN_REQUEST (R337). -/
  | linkRetrainRequest (k : Nat)
  /-- LANE_LOSS (R337). -/
  | laneLoss (k : Nat)
  /-- FLIT_RECEIVE (R337). -/
  | flitReceive (k : Nat)
  /-- LINK_KEY_ROLLOVER (R338). -/
  | linkKeyRollover (k : Nat)
  /-- PACKAGE_LINK_FAIL (R345). -/
  | packageLinkFail (a : Nat) (b : Nat)
  /-- HEARTBEAT_SEND (R363). -/
  | heartbeatSend (d : Nat) (c : Nat)
  /-- DEVICE_LOST (R368). -/
  | deviceLost (peer : Nat)
  /-- CHECKPOINT_COMPLETE (R365). -/
  | checkpointComplete (d : Nat) (c : Nat) (num : Nat)
  /-- COOLANT_FLOW_CHANGE (R378). -/
  | coolantFlowChange (v : Nat)
  /-- MEMBER_ACKNOWLEDGEMENT (R328). -/
  | memberAcknowledgement (p : Pkt)
  /-- TOKEN_MODE_ENTER (R327). -/
  | tokenModeEnter
  /-- LOCK_REGAIN (R327). -/
  | lockRegain
  /-- STRAGGLER_TIMEOUT (R328). -/
  | stragglerTimeout
  /-- STRAGGLER_WAIT_EXPIRY (R328). -/
  | stragglerWaitExpiry
  /-- PREEMPT_REQUEST (R160). -/
  | preemptRequest
  /-- PRIORITY_PREEMPT (R317). -/
  | priorityPreempt
  /-- ENTRY_START (R313). -/
  | entryStart
  /-- ENTRY_COMPLETE (R311). -/
  | entryComplete
  /-- NOP (R313). -/
  | nop
  /-- CREATE (R322). -/
  | create
  /-- DESTROY (R400). -/
  | destroy
  /-- LAUNCH (R314). -/
  | launch
  /-- TLAUNCH_ENTRY (R313). -/
  | tlaunchEntry
  /-- COLL (R313). -/
  | coll
  /-- CONV (R313). -/
  | conv
  /-- SIGNAL (R313). -/
  | signal
  /-- WAITVAL (R313). -/
  | waitval
  /-- TINVAL (R69). -/
  | tinval
  /-- FAULTREPLY (R323). -/
  | faultreply
  /-- TPRE_ENTRY (R313). -/
  | tpreEntry
  /-- TRESUME (R313). -/
  | tresume
  /-- TASK_START (R315). -/
  | taskStart
  /-- TAKEOVER_ADMISSION (R368). -/
  | takeoverAdmission
  /-- TAKEOVER_RESTORE (R368). -/
  | takeoverRestore
  /-- ROLLBACK (R365). -/
  | rollback
  /-- CHECKPOINT_HALT (R365). -/
  | checkpointHalt
  /-- CHECKPOINT_PERIOD (R370). -/
  | checkpointPeriod
  /-- DBG_STOP (R376). -/
  | dbgStop
  /-- DBG_STEP (R376). -/
  | dbgStep
  /-- DBG_RUN (R376). -/
  | dbgRun
  /-- DBG_READ (R375). -/
  | dbgRead
  /-- DBG_BPSET (R376). -/
  | dbgBpset
  /-- DBG_CHK (R375). -/
  | dbgChk
  /-- GET_VERSION (R372). -/
  | getVersion
  /-- GET_CAPABILITIES (R372). -/
  | getCapabilities
  /-- NEGOTIATE_ALGORITHMS (R372). -/
  | negotiateAlgorithms
  /-- GET_DIGESTS (R372). -/
  | getDigests
  /-- GET_CERTIFICATE (R372). -/
  | getCertificate
  /-- CHALLENGE (R372). -/
  | challenge
  /-- GET_MEASUREMENTS (R372). -/
  | getMeasurements
  /-- KEY_EXCHANGE (R372). -/
  | keyExchange
  /-- FINISH (R372). -/
  | finish
  /-- SPDM_HEARTBEAT (R372). -/
  | spdmHeartbeat
  /-- KEY_UPDATE (R374). -/
  | keyUpdate
  /-- END_SESSION (R372). -/
  | endSession
  /-- KEYGEN (R373). -/
  | keygen
  /-- KEYGRANT (R373). -/
  | keygrant
  /-- KEYZERO (R373). -/
  | keyzero
  /-- KEYSEND (R373). -/
  | keysend
  /-- FWLOAD (R380). -/
  | fwload
  /-- POWER_ON_RESET (R379). -/
  | powerOnReset
  /-- THROTTLE_TICK (R382). -/
  | throttleTick
  /-- THERMAL_TRIP (R383). -/
  | thermalTrip
  /-- HOLDOVER_ENTER (R327). -/
  | holdoverEnter
  deriving DecidableEq, Repr

end Sys2Proof
end

