-- ==== Sys2Proof/WellFormed.lean ====
section
/-! DEFINITION. Well-formed instructions: every operand has a role its field accepts (R173, R192, R236, R265, R280)
and every field a value its instruction is assigned (R184 to R191). -/

namespace Sys2Proof

/-- The role an operand field gives its operand. -/
inductive Role where
  | ss    -- scalar source of the S slot (R192)
  | sd    -- scalar destination of the S slot (R192)
  | k     -- scalar source of the B, M, V and T slots (R236, R250, R265)
  | n     -- count of the X slot: a scalar register or a small integer (R283, R284)
  | i     -- small integer, or g0 which reads 0 (R284)
  | e     -- scalar register or view (R209)
  | m     -- scalar source or view (R242)
  | h     -- view or hl (R285)
  | r     -- row source (R265)
  | ra    -- row or scalar source (R265)
  | vd    -- destination of the V slot (R265)
  | xd    -- destination of the X slot (R280)
  | pt    -- name of a generator (R218)
  | coord -- path coordinate (R22)
  deriving DecidableEq, Repr

/-- Whether an operand may stand in a role. -/
def Opnd.has (o : Opnd) (ro : Role) : Bool :=
  match ro, o with
  | .ss, .g _ => true | .ss, .sb _ => true | .ss, .ch _ => true | .ss, .eq => true | .ss, .cq => true
  | .ss, .imm _ => true
  | .sd, .g _ => true | .sd, .ch _ => true | .sd, .cq => true
  | .k, .g _ => true | .k, .sb _ => true | .k, .imm _ => true
  | .n, .g _ => true | .n, .imm _ => true
  | .i, .imm _ => true | .i, .g n => n == 0
  | .e, .g _ => true | .e, .w _ => true
  | .m, .g _ => true | .m, .sb _ => true | .m, .imm _ => true | .m, .w _ => true
  | .h, .w _ => true | .h, .hl => true
  | .r, .w _ => true | .r, .rp _ => true | .r, .vb _ => true | .r, .xb => true | .r, .ch _ => true
  | .ra, .w _ => true | .ra, .rp _ => true | .ra, .vb _ => true | .ra, .xb => true | .ra, .ch _ => true
  | .ra, .g _ => true | .ra, .sb _ => true | .ra, .imm _ => true
  | .vd, .w _ => true | .vd, .wp _ => true | .vd, .g _ => true | .vd, .ch _ => true
  | .xd, .w _ => true | .xd, .wp _ => true | .xd, .ch _ => true
  | .pt, .rp _ => true | .pt, .wp _ => true
  | .coord, .g _ => true | .coord, .imm _ => true
  | _, _ => false

/-- An operand that is a view, the only kind a step flag may stand beside (R172). -/
def Opnd.isView : Opnd → Bool
  | .w _ => true
  | _ => false

/-- The coordinates of a path are scalar registers or small integers (R21). -/
def Path.wf (p : Path) : Bool :=
  p.c0.has .coord && p.c1.has .coord && p.c2.has .coord && p.c3.has .coord

/-- A scope code is one of `.core` to `.sys` (R184). -/
def scopeOk (sc : BitVec 3) : Bool := sc.toNat ≤ 4

/-- The flags of an engine command name an assigned scope wherever they are set (R250, R290). -/
def EFlags.wf (f : EFlags) : Bool :=
  (f.rel == 0 || scopeOk f.rsc) && (f.acq == 0 || scopeOk f.asc)

/-- The register of an `atom.cas`: even, g2 to g30 (R241). -/
def casReg (a : BitVec 5) : Bool := a.toNat % 2 == 0 && a != 0

/-- A step flag stands only beside a view. -/
def stepWf (st : BitVec 4) (a b c d : Bool) : Bool :=
  (!st.getLsbD 0 || a) && (!st.getLsbD 1 || b) && (!st.getLsbD 2 || c) && (!st.getLsbD 3 || d)


/-- Well-formedness, constructor by constructor. Events carry no operand to check. -/
def Instr.wf : Instr → Bool
  | .nopB _ => true
  | .brT _ _ => true
  | .brF _ _ => true
  | .jmp _ _ => true
  | .jmpi _ b => b.has .k
  | .bsr _ _ => true
  | .ret _ => true
  | .loop _ _ n _ => n.has .k
  | .loopRot _ _ n s _ => n.has .k && s.has .k
  | .wait _ _ => true
  | .evwait _ d => d.has .e
  | .bar _ _ => true
  | .yieldB _ => true
  | .done _ => true
  | .trap _ _ => true
  | .eret _ => true
  | .brk _ _ => true
  | .cqclr _ => true
  | .add _ d b c => d.has .sd && b.has .ss && c.has .ss
  | .sub _ d b c => d.has .sd && b.has .ss && c.has .ss
  | .mul _ d b c => d.has .sd && b.has .ss && c.has .ss
  | .mulh _ _ d b c => d.has .sd && b.has .ss && c.has .ss
  | .divs _ d b c => d.has .sd && b.has .ss && c.has .ss
  | .rems _ d b c => d.has .sd && b.has .ss && c.has .ss
  | .divn _ d b c => d.has .sd && b.has .ss && c.has .ss
  | .remn _ d b c => d.has .sd && b.has .ss && c.has .ss
  | .andS _ d b c => d.has .sd && b.has .ss && c.has .ss
  | .orS _ d b c => d.has .sd && b.has .ss && c.has .ss
  | .xorS _ d b c => d.has .sd && b.has .ss && c.has .ss
  | .shl _ d b c => d.has .sd && b.has .ss && c.has .ss
  | .shr _ d b c => d.has .sd && b.has .ss && c.has .ss
  | .sra _ d b c => d.has .sd && b.has .ss && c.has .ss
  | .min _ d b c => d.has .sd && b.has .ss && c.has .ss
  | .max _ d b c => d.has .sd && b.has .ss && c.has .ss
  | .minn _ d b c => d.has .sd && b.has .ss && c.has .ss
  | .maxn _ d b c => d.has .sd && b.has .ss && c.has .ss
  | .clz _ d b => d.has .sd && b.has .ss
  | .popc _ d b => d.has .sd && b.has .ss
  | .li _ d _ => d.has .sd
  | .lihM _ _ _ => true
  | .lihH _ _ _ => true
  | .mov _ d b => d.has .sd && b.has .ss
  | .sel _ d b c _ _ => d.has .sd && b.has .ss && c.has .ss
  | .cmp _ _ (.val d) b c => d.has .sd && b.has .ss && c.has .ss
  | .cmp _ _ (.pred _) b c => b.has .ss && c.has .ss
  | .setp _ _ _ (.val o) c => o.has .ss && c.has .ss
  | .setp _ _ _ (.ts _) c => c.has .ss
  | .pand _ _ _ _ => true
  | .por _ _ _ _ => true
  | .pxor _ _ _ _ => true
  | .pnot _ _ _ => true
  | .agset _ port _ => port.has .pt
  | .agpos _ d port => d.has .sd && port.has .pt
  | .view _ _ b => b.has .ss
  | .shape _ _ _ d rows cols _ => d.has .sd && rows.has .ss && cols.has .ss
  | .bxinfo _ d _ _ _ => d.has .sd
  | .sget _ d _ => d.has .sd
  | .sset _ b _ => b.has .ss
  | .tsget _ d _ => d.has .sd
  | .xpat _ _ _ _ => true
  | .ld _ _ path => path.wf
  | .ldAcq _ sc _ path => scopeOk sc && path.wf
  | .st _ a path => a.has .k && path.wf
  | .stRel _ sc a path => scopeOk sc && a.has .k && path.wf
  | .ldv _ _ path => path.wf
  | .ldvAcq _ sc _ path => scopeOk sc && path.wf
  | .stv _ _ path => path.wf
  | .stvRel _ sc _ path => scopeOk sc && path.wf
  | .ldff _ _ path => path.wf
  | .ldblk _ _ path => path.wf
  | .stblk _ _ path => path.wf
  | .ldtag _ _ path => path.wf
  | .sttag _ a path => a.has .k && path.wf
  | .ldr _ _ d path => d.has .e && path.wf
  | .str _ _ a path => a.has .m && path.wf
  | .align _ => true
  | .fence _ sc => scopeOk sc
  | .pf _ path => path.wf
  | .rfence _ a path => a.has .k && path.wf
  | .ldp _ d path => d != 0 && path.wf
  | .stp _ a path => a.has .m && path.wf
  | .waitv _ cc a path => cc.toNat ≤ 5 && a.has .k && path.wf
  | .waitvAcq _ sc cc a path => scopeOk sc && cc.toNat ≤ 5 && a.has .k && path.wf
  | .atomAdd _ ord sc _ path => (if ord == 0 then sc == 0 else scopeOk sc) && path.wf
  | .atomAnd _ ord sc _ path => (if ord == 0 then sc == 0 else scopeOk sc) && path.wf
  | .atomOr _ ord sc _ path => (if ord == 0 then sc == 0 else scopeOk sc) && path.wf
  | .atomXor _ ord sc _ path => (if ord == 0 then sc == 0 else scopeOk sc) && path.wf
  | .atomMin _ ord sc _ path => (if ord == 0 then sc == 0 else scopeOk sc) && path.wf
  | .atomMax _ ord sc _ path => (if ord == 0 then sc == 0 else scopeOk sc) && path.wf
  | .atomMinn _ ord sc _ path => (if ord == 0 then sc == 0 else scopeOk sc) && path.wf
  | .atomMaxn _ ord sc _ path => (if ord == 0 then sc == 0 else scopeOk sc) && path.wf
  | .atomSwap _ ord sc _ path => (if ord == 0 then sc == 0 else scopeOk sc) && path.wf
  | .atomCas _ ord sc a path => (if ord == 0 then sc == 0 else scopeOk sc) && casReg a && path.wf
  | .atomrAdd _ _ _ path => path.wf
  | .atomrAnd _ _ _ path => path.wf
  | .atomrOr _ _ _ path => path.wf
  | .atomrXor _ _ _ path => path.wf
  | .atomrMin _ _ _ path => path.wf
  | .atomrMax _ _ _ path => path.wf
  | .atomrMinn _ _ _ path => path.wf
  | .atomrMaxn _ _ _ path => path.wf
  | .atomrSwap _ _ _ path => path.wf
  | .atomrCas _ _ a path => casReg a && path.wf
  | .call _ _ _ => true
  | .callGang _ _ _ n => n.has .k
  | .join _ d h => d.has .e && h.has .k
  | .spawn _ _ _ => true
  | .cpy _ _ fl => fl.wf
  | .cpyg _ _ _ fl => fl.wf
  | .cpyr _ _ fl => fl.wf
  | .fill _ _ b fl => b.has .k && fl.wf
  | .collAllreduce _ _ fl => fl.wf
  | .collAllgather _ _ fl => fl.wf
  | .collReducescatter _ _ fl => fl.wf
  | .collAlltoall _ _ fl => fl.wf
  | .placeQ _ _ _ => true
  | .placeD _ a _ => a.has .k
  | .ckpt _ _ t => t.has .k
  | .tlaunch _ _ _ t => t.has .k
  | .tpre _ t => t.has .k
  | .vadd _ _ d b c m => d.has .vd && b.has .ra && c.has .ra && stepWf m.st d.isView b.isView c.isView false
  | .vsub _ _ d b c m => d.has .vd && b.has .ra && c.has .ra && stepWf m.st d.isView b.isView c.isView false
  | .vmul _ _ d b c m => d.has .vd && b.has .ra && c.has .ra && stepWf m.st d.isView b.isView c.isView false
  | .vdiv _ _ d b c m => d.has .vd && b.has .ra && c.has .ra && stepWf m.st d.isView b.isView c.isView false
  | .vfma _ _ d b c e m => d.has .vd && b.has .ra && c.has .ra && e.has .ra && stepWf m.st d.isView b.isView c.isView e.isView
  | .vfms _ _ d b c e m => d.has .vd && b.has .ra && c.has .ra && e.has .ra && stepWf m.st d.isView b.isView c.isView e.isView
  | .vmin _ d b c m => d.has .vd && b.has .ra && c.has .ra && stepWf m.st d.isView b.isView c.isView false
  | .vmax _ d b c m => d.has .vd && b.has .ra && c.has .ra && stepWf m.st d.isView b.isView c.isView false
  | .vand _ d b c m => d.has .vd && b.has .ra && c.has .ra && stepWf m.st d.isView b.isView c.isView false
  | .vor _ d b c m => d.has .vd && b.has .ra && c.has .ra && stepWf m.st d.isView b.isView c.isView false
  | .vxor _ d b c m => d.has .vd && b.has .ra && c.has .ra && stepWf m.st d.isView b.isView c.isView false
  | .vshl _ d b c m => d.has .vd && b.has .ra && c.has .ra && stepWf m.st d.isView b.isView c.isView false
  | .vshr _ d b c m => d.has .vd && b.has .ra && c.has .ra && stepWf m.st d.isView b.isView c.isView false
  | .vsra _ d b c m => d.has .vd && b.has .ra && c.has .ra && stepWf m.st d.isView b.isView c.isView false
  | .vabs _ d b m => d.has .vd && b.has .ra && stepWf m.st d.isView b.isView false false
  | .vneg _ d b m => d.has .vd && b.has .ra && stepWf m.st d.isView b.isView false false
  | .vnot _ d b m => d.has .vd && b.has .ra && stepWf m.st d.isView b.isView false false
  | .vmov _ d b m => d.has .vd && b.has .ra && stepWf m.st d.isView b.isView false false
  | .vrcp _ _ d b m => d.has .vd && b.has .ra && stepWf m.st d.isView b.isView false false
  | .vsqrt _ _ d b m => d.has .vd && b.has .ra && stepWf m.st d.isView b.isView false false
  | .vrsqrt _ _ d b m => d.has .vd && b.has .ra && stepWf m.st d.isView b.isView false false
  | .vexp2 _ _ d b m => d.has .vd && b.has .ra && stepWf m.st d.isView b.isView false false
  | .vlog2 _ _ d b m => d.has .vd && b.has .ra && stepWf m.st d.isView b.isView false false
  | .vcvt _ _ d b _ m => d.has .vd && b.has .r && stepWf m.st d.isView b.isView false false
  | .vpack _ _ d b _ m => d.has .vd && b.has .r && stepWf m.st d.isView b.isView false false
  | .vsum _ _ d b m => d.has .vd && b.has .r && stepWf m.st d.isView b.isView false false
  | .vmaxr _ d b m => d.has .vd && b.has .r && stepWf m.st d.isView b.isView false false
  | .vcmp _ cc d b c m => cc.toNat ≤ 5 && d.has .vd && b.has .r && c.has .ra && stepWf m.st d.isView b.isView c.isView false
  | .vsel _ d _ c e m => d.has .vd && c.has .ra && e.has .ra && stepWf m.st d.isView true c.isView e.isView
  | .vanyAny _ b m => b.has .r && stepWf m.st false b.isView false false
  | .vanyAll _ b m => b.has .r && stepWf m.st false b.isView false false
  | .vanyUni _ b m => b.has .r && stepWf m.st false b.isView false true
  | .vbcast _ d b k m => d.has .vd && b.has .r && k.has .k && stepWf m.st d.isView b.isView k.isView false
  | .viota _ d b c m => d.has .vd && b.has .k && c.has .k && stepWf m.st d.isView b.isView c.isView false
  | .vclass _ d b m => d.has .vd && b.has .r && stepWf m.st d.isView b.isView false false
  | .xperm _ _ d b sf => d.has .xd && b.has .r && stepWf sf d.isView b.isView false false
  | .xrot _ d k b sf => d.has .xd && k.has .n && b.has .r && stepWf sf d.isView k.isView b.isView false
  | .xrotC _ d k b sf => d.has .xd && k.has .n && b.has .r && stepWf sf d.isView k.isView b.isView false
  | .xtrn _ d b sf => d.has .xd && b.has .r && stepWf sf d.isView b.isView false false
  | .xbcast _ d b k sf => d.has .xd && b.has .r && k.has .n && stepWf sf d.isView b.isView k.isView false
  | .xzip _ d b c sf => d.has .xd && b.has .r && c.has .r && stepWf sf d.isView b.isView c.isView false
  | .xunzip _ d b k sf => d.has .xd && b.has .r && k.has .i && stepWf sf d.isView b.isView k.isView false
  | .xcmpr _ d b _ sf => d.has .xd && b.has .r && stepWf sf d.isView b.isView true false
  | .hnop _ => true
  | .hmma _ _ a _ _ _ _ sf => a.has .h && stepWf sf a.isView true true false
  | .hmmn _ cls a _ _ _ _ sf => cls.toNat < 3 && a.has .h && stepWf sf a.isView true true false
  | .hgat _ _ rsc rel asc acq _ sf => stepWf sf true false false false && (rel == 0 || scopeOk rsc) && (acq == 0 || scopeOk asc)
  | .idle k _ => k.toNat ≤ 1
  | .idleHold k _ => k.toNat ≤ 1
  | .mark _ => true
  | .latchCommit _ => true
  | .loadArrive _ _ => true
  | .stallCycle _ => true
  | .contextWake _ => true
  | .issueStageGrant _ => true
  | .sampleRecord _ => true
  | .portFetch _ _ => true
  | .memoryAccessPerform _ _ _ => true
  | .crucibleServe _ => true
  | .translationWalkDone _ _ _ _ => true
  | .retentionEnter _ => true
  | .scrub _ => true
  | .machineCheck _ => true
  | .callLeaveWait _ _ => true
  | .inwardCopyLanded _ _ => true
  | .childStart _ _ => true
  | .gangReadyTimeout _ _ => true
  | .outwardCopyStart _ _ => true
  | .outwardCopyLanded _ _ => true
  | .recordWrite _ _ => true
  | .taskEnd _ => true
  | .copyFault _ => true
  | .copyComplete _ => true
  | .backoffResend _ => true
  | .egressRelease _ _ => true
  | .writePacket _ => true
  | .readRequest _ => true
  | .readData _ => true
  | .atomicPacket _ => true
  | .atomicResult _ => true
  | .fencePacket _ => true
  | .fenceFlagWrite _ _ => true
  | .cancel _ => true
  | .receiverNotReady _ => true
  | .writeAcknowledgement _ => true
  | .channelElement _ => true
  | .channelCredit _ => true
  | .fluxEngineStep _ => true
  | .conversionStart _ _ _ => true
  | .conversionComplete _ _ _ => true
  | .collStart _ => true
  | .chunkFinal _ _ => true
  | .ieee1588Message _ => true
  | .tokenModeEnter => true
  | .lockRegain => true
  | .startOrStopToken _ => true
  | .timedStart _ _ _ => true
  | .timedHalt _ _ _ => true
  | .stragglerTimeout => true
  | .stragglerWaitExpiry => true
  | .preemptRequest => true
  | .contextSwap _ => true
  | .priorityPreempt => true
  | .entryTake _ => true
  | .entryStart => true
  | .entryComplete => true
  | .nop => true
  | .create => true
  | .destroy => true
  | .launch => true
  | .tlaunchEntry => true
  | .coll => true
  | .conv => true
  | .signal => true
  | .waitval => true
  | .tinval => true
  | .faultreply => true
  | .tpreEntry => true
  | .tresume => true
  | .launchMessage _ => true
  | .memberReport _ => true
  | .taskStart => true
  | .quenchT1 _ => true
  | .quenchT2 _ => true
  | .quenchT3 _ => true
  | .qcfgWrite _ => true
  | .qtailWrite _ => true
  | .apwcfgWrite _ => true
  | .aperrWrite _ => true
  | .channelEntryWrite _ => true
  | .msixVectorControlWrite _ => true
  | .errorLogWrite _ => true
  | .registerWrite _ => true
  | .postedWrite _ => true
  | .pieceAck _ _ _ => true
  | .memoryRead _ => true
  | .pcieLinkTraining _ => true
  | .linkTraining _ => true
  | .linkRetrainRequest _ => true
  | .laneLoss _ => true
  | .flitReceive _ => true
  | .linkKeyRollover _ => true
  | .packageLinkFail _ _ => true
  | .heartbeatSend _ _ => true
  | .deviceLost _ => true
  | .takeoverAdmission => true
  | .takeoverRestore => true
  | .rollback => true
  | .checkpointHalt => true
  | .checkpointPeriod => true
  | .checkpointComplete _ _ _ => true
  | .dbgStop => true
  | .dbgStep => true
  | .dbgRun => true
  | .dbgRead => true
  | .dbgBpset => true
  | .dbgChk => true
  | .getVersion => true
  | .getCapabilities => true
  | .negotiateAlgorithms => true
  | .getDigests => true
  | .getCertificate => true
  | .challenge => true
  | .getMeasurements => true
  | .keyExchange => true
  | .finish => true
  | .spdmHeartbeat => true
  | .keyUpdate => true
  | .endSession => true
  | .keygen => true
  | .keygrant => true
  | .keyzero => true
  | .keysend => true
  | .fwload => true
  | .powerOnReset => true
  | .throttleTick => true
  | .thermalTrip => true
  | .coolantFlowChange _ => true
  | .holdoverEnter => true
  | .memberAcknowledgement _ => true

end Sys2Proof
end

