-- ==== Sys2Proof/Decode.lean ====
section
/-! DEFINITION. Decoding bundles and slot words, total on any bytes, and the encoder written from the same tables
(files 08 to 11). A word that is no instruction is rejected with the trap cause and the INFO field it raises. -/

namespace Sys2Proof

/-- Why a word or header is no instruction: the trap cause of R172 and tcs.INFO of R226. -/
structure DErr where
  cause : BitVec 8
  info  : Nat
  deriving DecidableEq, Repr

/-- The fields common to every slot word format (R170); `lo` holds bits 23 to 0. -/
structure Raw where
  op  : BitVec 8
  p   : BitVec 4
  n   : BitVec 1
  var : BitVec 3
  a   : BitVec 8
  b   : BitVec 8
  c   : BitVec 8
  lo  : BitVec 24
  deriving DecidableEq, Repr

/-- Cutting a slot word into its fields (R170). -/
def Raw.ofWord (w : Word) : Raw :=
  { op := w.extractLsb' 56 8, p := w.extractLsb' 52 4, n := w.extractLsb' 51 1, var := w.extractLsb' 48 3,
    a := w.extractLsb' 40 8, b := w.extractLsb' 32 8, c := w.extractLsb' 24 8, lo := w.extractLsb' 0 24 }

/-- Joining the fields of a slot word (R170). -/
def Raw.word (r : Raw) : Word :=
  r.op ++ r.p ++ r.n ++ r.var ++ r.a ++ r.b ++ r.c ++ r.lo

/-- The operand an operand code names, or none where R173 names nothing. -/
def Opnd.ofCode (c : BitVec 8) : Option Opnd :=
  let lo := c.extractLsb' 0 5
  if c.extractLsb' 5 3 = 0#3 then some (.g lo)
  else if c.extractLsb' 5 3 = 1#3 then some (.w lo)
  else if c.extractLsb' 5 3 = 3#3 then some (.imm lo)
  else if c.extractLsb' 2 6 = 0x10#6 then some (.rp (c.extractLsb' 0 2))
  else if c.extractLsb' 1 7 = 0x22#7 then some (.wp (c.extractLsb' 0 1))
  else if c.extractLsb' 1 7 = 0x24#7 then some (.sb (c.extractLsb' 0 1))
  else if c.extractLsb' 1 7 = 0x25#7 then some (.vb (c.extractLsb' 0 1))
  else if c = 0x4C#8 then some .xb
  else if c = 0x4D#8 then some .hl
  else if c.extractLsb' 3 5 = 0xA#5 then some (.ch (c.extractLsb' 0 3))
  else if c = 0x58#8 then some .eq
  else if c = 0x59#8 then some .cq
  else none

/-- The code of an operand (R173). -/
def Opnd.code : Opnd → BitVec 8
  | .g n => 0#3 ++ n
  | .w n => 1#3 ++ n
  | .rp n => 0x10#6 ++ n
  | .wp n => 0x22#7 ++ n
  | .sb n => 0x24#7 ++ n
  | .vb n => 0x25#7 ++ n
  | .xb => 0x4C#8
  | .hl => 0x4D#8
  | .ch n => 0xA#5 ++ n
  | .eq => 0x58#8
  | .cq => 0x59#8
  | .imm n => 3#3 ++ n

/-- One check of R172 step 2, with the cause and INFO of its failure. -/
def need (b : Bool) (cause : BitVec 8) (info : Nat := 0) : Except DErr Unit :=
  if b then .ok () else .error { cause := cause, info := info }

/-- An operand field read under its role, charged to field `info` (R172 step 2c, R226). -/
def roleOf (ro : Role) (code : BitVec 8) (info : Nat) : Except DErr Opnd :=
  match Opnd.ofCode code with
  | some o => if o.has ro then .ok o else .error { cause := 3, info := info }
  | none => .error { cause := 3, info := info }

/-- A field that names a view register alone. -/
def viewOf (code : BitVec 8) (info : Nat) : Except DErr (BitVec 5) :=
  match Opnd.ofCode code with
  | some (.w n) => .ok n
  | _ => .error { cause := 3, info := info }

/-- A field that names a scalar register alone. -/
def gregOf (code : BitVec 8) (info : Nat) : Except DErr (BitVec 5) :=
  match Opnd.ofCode code with
  | some (.g n) => .ok n
  | _ => .error { cause := 3, info := info }

/-- The path fields of a format P word: operands B and C, BX, CD2, CD3 and MSEL (R22). -/
def Raw.path (r : Raw) : Except DErr Path := do
  let c0 ← roleOf .coord r.b 4
  let c1 ← roleOf .coord r.c 5
  let c2 ← roleOf .coord (r.lo.extractLsb' 12 8) 6
  let c3 ← roleOf .coord (r.lo.extractLsb' 4 8) 7
  pure { bx := r.lo.extractLsb' 20 4, c0 := c0, c1 := c1, c2 := c2, c3 := c3, msel := r.lo.extractLsb' 0 4 }

/-- Bits 23 to 0 of a format P word (R22). -/
def Path.lo (p : Path) : BitVec 24 := p.bx ++ p.c2.code ++ p.c3.code ++ p.msel

/-- The guard fields of a word (R170). -/
def Raw.guard (r : Raw) : Guard := { p := r.p, n := r.n }

/-- A step flag stands only beside a view operand (R172 step 2c, R179). -/
def stepOk (st : BitVec 4) (k : Nat) (isView : Bool) : Except DErr Unit :=
  need (!st.getLsbD k || isView) 3 k


/-- The operand a misplaced step flag is charged to: the first flagged one (R226). -/
def stepField (st : BitVec 3) : Nat := if st.getLsbD 0 then 0 else if st.getLsbD 1 then 1 else 2

/-- NOP_B (R195): the fields of its word. -/
def decNopB (r : Raw) : Except DErr Instr := do
  need (r.var == 0) 2
  need (r.a == 0) 1
  need (r.b == 0) 1
  need (r.c == 0) 1
  need (r.lo.extractLsb' 0 24 == 0) 1
  pure (.nopB r.guard)

/-- BR_T (R195): the fields of its word. -/
def decBrT (r : Raw) : Except DErr Instr := do
  need (r.var == 0) 2
  need (r.a == 0) 1
  need (r.b == 0) 1
  need (r.c == 0) 1
  pure (.brT r.guard (r.lo.extractLsb' 0 24))

/-- BR_F (R195): the fields of its word. -/
def decBrF (r : Raw) : Except DErr Instr := do
  need (r.var == 0) 2
  need (r.a == 0) 1
  need (r.b == 0) 1
  need (r.c == 0) 1
  pure (.brF r.guard (r.lo.extractLsb' 0 24))

/-- JMP (R195): the fields of its word. -/
def decJmp (r : Raw) : Except DErr Instr := do
  need (r.var == 0) 2
  need (r.a == 0) 1
  need (r.b == 0) 1
  need (r.c == 0) 1
  pure (.jmp r.guard (r.lo.extractLsb' 0 24))

/-- JMPI (R195): the fields of its word. -/
def decJmpi (r : Raw) : Except DErr Instr := do
  need (r.var == 0) 2
  need (r.a == 0) 1
  need (r.c == 0) 1
  need (r.lo.extractLsb' 0 24 == 0) 1
  let b ← roleOf .k r.b 1
  pure (.jmpi r.guard b)

/-- BSR (R196): the fields of its word. -/
def decBsr (r : Raw) : Except DErr Instr := do
  need (r.var == 0) 2
  need (r.a == 0) 1
  need (r.b == 0) 1
  need (r.c == 0) 1
  pure (.bsr r.guard (r.lo.extractLsb' 0 24))

/-- RET (R196): the fields of its word. -/
def decRet (r : Raw) : Except DErr Instr := do
  need (r.var == 0) 2
  need (r.a == 0) 1
  need (r.b == 0) 1
  need (r.c == 0) 1
  need (r.lo.extractLsb' 0 24 == 0) 1
  pure (.ret r.guard)

/-- LOOP (R202): the fields of its word. -/
def decLoop (r : Raw) : Except DErr Instr := do
  need (r.var.toNat < 4) 2
  need (r.b == 0) 1
  need (r.c == 0) 1
  let n ← roleOf .k r.a 0
  pure (.loop r.guard (r.var.extractLsb' 0 2) n (r.lo.extractLsb' 0 24))

/-- LOOP_ROT (R202): the fields of its word. -/
def decLoopRot (r : Raw) : Except DErr Instr := do
  need (r.var.toNat < 4) 2
  need (r.c == 0) 1
  let n ← roleOf .k r.a 0
  let s ← roleOf .k r.b 1
  pure (.loopRot r.guard (r.var.extractLsb' 0 2) n s (r.lo.extractLsb' 0 24))

/-- WAIT (R208): the fields of its word. -/
def decWait (r : Raw) : Except DErr Instr := do
  need (r.var == 0) 2
  need (r.a == 0) 1
  need (r.b == 0) 1
  need (r.c == 0) 1
  pure (.wait r.guard (r.lo.extractLsb' 0 24))

/-- EVWAIT (R209): the fields of its word. -/
def decEvwait (r : Raw) : Except DErr Instr := do
  need (r.var == 0) 2
  need (r.b == 0) 1
  need (r.c == 0) 1
  need (r.lo.extractLsb' 0 24 == 0) 1
  let d ← roleOf .e r.a 0
  pure (.evwait r.guard d)

/-- BAR (R210): the fields of its word. -/
def decBar (r : Raw) : Except DErr Instr := do
  need (r.var == 0) 2
  need (r.a == 0) 1
  need (r.b == 0) 1
  need (r.c == 0) 1
  need (r.lo.extractLsb' 4 20 == 0) 1
  pure (.bar r.guard (r.lo.extractLsb' 0 4))

/-- YIELD (R211): the fields of its word. -/
def decYieldB (r : Raw) : Except DErr Instr := do
  need (r.var == 0) 2
  need (r.a == 0) 1
  need (r.b == 0) 1
  need (r.c == 0) 1
  need (r.lo.extractLsb' 0 24 == 0) 1
  pure (.yieldB r.guard)

/-- DONE (R212): the fields of its word. -/
def decDone (r : Raw) : Except DErr Instr := do
  need (r.var == 0) 2
  need (r.a == 0) 1
  need (r.b == 0) 1
  need (r.c == 0) 1
  need (r.lo.extractLsb' 0 24 == 0) 1
  pure (.done r.guard)

/-- TRAP (R229): the fields of its word. -/
def decTrap (r : Raw) : Except DErr Instr := do
  need (r.var == 0) 2
  need (r.a == 0) 1
  need (r.b == 0) 1
  need (r.c == 0) 1
  pure (.trap r.guard (r.lo.extractLsb' 0 24))

/-- ERET (R228): the fields of its word. -/
def decEret (r : Raw) : Except DErr Instr := do
  need (r.var == 0) 2
  need (r.a == 0) 1
  need (r.b == 0) 1
  need (r.c == 0) 1
  need (r.lo.extractLsb' 0 24 == 0) 1
  pure (.eret r.guard)

/-- BRK (R229): the fields of its word. -/
def decBrk (r : Raw) : Except DErr Instr := do
  need (r.var == 0) 2
  need (r.a == 0) 1
  need (r.b == 0) 1
  need (r.c == 0) 1
  pure (.brk r.guard (r.lo.extractLsb' 0 24))

/-- CQCLR (R195): the fields of its word. -/
def decCqclr (r : Raw) : Except DErr Instr := do
  need (r.var == 0) 2
  need (r.a == 0) 1
  need (r.b == 0) 1
  need (r.c == 0) 1
  need (r.lo.extractLsb' 0 24 == 0) 1
  pure (.cqclr r.guard)

/-- The B-slot map (R185). -/
def decBSlot (r : Raw) : Except DErr Instr :=
  match r.op.toNat with
  | 0x00 => decNopB r
  | 0x01 => decBrT r
  | 0x02 => decBrF r
  | 0x03 => decJmp r
  | 0x04 => decJmpi r
  | 0x05 => decBsr r
  | 0x06 => decRet r
  | 0x08 => decLoop r
  | 0x09 => decLoopRot r
  | 0x10 => decWait r
  | 0x11 => decEvwait r
  | 0x12 => decBar r
  | 0x13 => decYieldB r
  | 0x14 => decDone r
  | 0x18 => decTrap r
  | 0x19 => decEret r
  | 0x1a => decBrk r
  | 0x1c => decCqclr r
  | _ => .error { cause := 2, info := 0 }

/-- ADD (R213): the fields of its word. -/
def decAdd (r : Raw) : Except DErr Instr := do
  need (r.var == 0) 2
  need (r.lo.extractLsb' 4 20 == 0) 1
  need (!r.lo.getLsbD 3) 1 
  let d ← roleOf .sd r.a 0
  let b ← roleOf .ss r.b 1
  let c ← roleOf .ss r.c 2
  stepOk (r.lo.extractLsb' 0 4) 0 d.isView
  stepOk (r.lo.extractLsb' 0 4) 1 b.isView
  stepOk (r.lo.extractLsb' 0 4) 2 c.isView
  pure (.add r.guard d b c)

/-- SUB (R213): the fields of its word. -/
def decSub (r : Raw) : Except DErr Instr := do
  need (r.var == 0) 2
  need (r.lo.extractLsb' 4 20 == 0) 1
  need (!r.lo.getLsbD 3) 1 
  let d ← roleOf .sd r.a 0
  let b ← roleOf .ss r.b 1
  let c ← roleOf .ss r.c 2
  stepOk (r.lo.extractLsb' 0 4) 0 d.isView
  stepOk (r.lo.extractLsb' 0 4) 1 b.isView
  stepOk (r.lo.extractLsb' 0 4) 2 c.isView
  pure (.sub r.guard d b c)

/-- MUL (R213): the fields of its word. -/
def decMul (r : Raw) : Except DErr Instr := do
  need (r.var == 0) 2
  need (r.lo.extractLsb' 4 20 == 0) 1
  need (!r.lo.getLsbD 3) 1 
  let d ← roleOf .sd r.a 0
  let b ← roleOf .ss r.b 1
  let c ← roleOf .ss r.c 2
  stepOk (r.lo.extractLsb' 0 4) 0 d.isView
  stepOk (r.lo.extractLsb' 0 4) 1 b.isView
  stepOk (r.lo.extractLsb' 0 4) 2 c.isView
  pure (.mul r.guard d b c)

/-- MULH (R214): the fields of its word. -/
def decMulh (r : Raw) : Except DErr Instr := do
  need (r.var.toNat < 2) 2
  need (r.lo.extractLsb' 4 20 == 0) 1
  need (!r.lo.getLsbD 3) 1 
  let d ← roleOf .sd r.a 0
  let b ← roleOf .ss r.b 1
  let c ← roleOf .ss r.c 2
  stepOk (r.lo.extractLsb' 0 4) 0 d.isView
  stepOk (r.lo.extractLsb' 0 4) 1 b.isView
  stepOk (r.lo.extractLsb' 0 4) 2 c.isView
  pure (.mulh r.guard (r.var.extractLsb' 0 1) d b c)

/-- DIVS (R214): the fields of its word. -/
def decDivs (r : Raw) : Except DErr Instr := do
  need (r.var == 0) 2
  need (r.lo.extractLsb' 5 19 == 0) 1
  need (!r.lo.getLsbD 3) 1 
  let d ← roleOf .sd r.a 0
  let b ← roleOf .ss r.b 1
  let c ← roleOf .ss r.c 2
  stepOk (r.lo.extractLsb' 0 4) 0 d.isView
  stepOk (r.lo.extractLsb' 0 4) 1 b.isView
  stepOk (r.lo.extractLsb' 0 4) 2 c.isView
  pure (.divs r.guard d b c)

/-- REMS (R214): the fields of its word. -/
def decRems (r : Raw) : Except DErr Instr := do
  need (r.var == 0) 2
  need (r.lo.extractLsb' 5 19 == 0) 1
  need (!r.lo.getLsbD 3) 1 
  let d ← roleOf .sd r.a 0
  let b ← roleOf .ss r.b 1
  let c ← roleOf .ss r.c 2
  stepOk (r.lo.extractLsb' 0 4) 0 d.isView
  stepOk (r.lo.extractLsb' 0 4) 1 b.isView
  stepOk (r.lo.extractLsb' 0 4) 2 c.isView
  pure (.rems r.guard d b c)

/-- DIVN (R214): the fields of its word. -/
def decDivn (r : Raw) : Except DErr Instr := do
  need (r.var == 0) 2
  need (r.lo.extractLsb' 5 19 == 0) 1
  need (!r.lo.getLsbD 3) 1 
  let d ← roleOf .sd r.a 0
  let b ← roleOf .ss r.b 1
  let c ← roleOf .ss r.c 2
  stepOk (r.lo.extractLsb' 0 4) 0 d.isView
  stepOk (r.lo.extractLsb' 0 4) 1 b.isView
  stepOk (r.lo.extractLsb' 0 4) 2 c.isView
  pure (.divn r.guard d b c)

/-- REMN (R214): the fields of its word. -/
def decRemn (r : Raw) : Except DErr Instr := do
  need (r.var == 0) 2
  need (r.lo.extractLsb' 5 19 == 0) 1
  need (!r.lo.getLsbD 3) 1 
  let d ← roleOf .sd r.a 0
  let b ← roleOf .ss r.b 1
  let c ← roleOf .ss r.c 2
  stepOk (r.lo.extractLsb' 0 4) 0 d.isView
  stepOk (r.lo.extractLsb' 0 4) 1 b.isView
  stepOk (r.lo.extractLsb' 0 4) 2 c.isView
  pure (.remn r.guard d b c)

/-- AND (R213): the fields of its word. -/
def decAndS (r : Raw) : Except DErr Instr := do
  need (r.var == 0) 2
  need (r.lo.extractLsb' 4 20 == 0) 1
  need (!r.lo.getLsbD 3) 1 
  let d ← roleOf .sd r.a 0
  let b ← roleOf .ss r.b 1
  let c ← roleOf .ss r.c 2
  stepOk (r.lo.extractLsb' 0 4) 0 d.isView
  stepOk (r.lo.extractLsb' 0 4) 1 b.isView
  stepOk (r.lo.extractLsb' 0 4) 2 c.isView
  pure (.andS r.guard d b c)

/-- OR (R213): the fields of its word. -/
def decOrS (r : Raw) : Except DErr Instr := do
  need (r.var == 0) 2
  need (r.lo.extractLsb' 4 20 == 0) 1
  need (!r.lo.getLsbD 3) 1 
  let d ← roleOf .sd r.a 0
  let b ← roleOf .ss r.b 1
  let c ← roleOf .ss r.c 2
  stepOk (r.lo.extractLsb' 0 4) 0 d.isView
  stepOk (r.lo.extractLsb' 0 4) 1 b.isView
  stepOk (r.lo.extractLsb' 0 4) 2 c.isView
  pure (.orS r.guard d b c)

/-- XOR (R213): the fields of its word. -/
def decXorS (r : Raw) : Except DErr Instr := do
  need (r.var == 0) 2
  need (r.lo.extractLsb' 4 20 == 0) 1
  need (!r.lo.getLsbD 3) 1 
  let d ← roleOf .sd r.a 0
  let b ← roleOf .ss r.b 1
  let c ← roleOf .ss r.c 2
  stepOk (r.lo.extractLsb' 0 4) 0 d.isView
  stepOk (r.lo.extractLsb' 0 4) 1 b.isView
  stepOk (r.lo.extractLsb' 0 4) 2 c.isView
  pure (.xorS r.guard d b c)

/-- SHL (R213): the fields of its word. -/
def decShl (r : Raw) : Except DErr Instr := do
  need (r.var == 0) 2
  need (r.lo.extractLsb' 4 20 == 0) 1
  need (!r.lo.getLsbD 3) 1 
  let d ← roleOf .sd r.a 0
  let b ← roleOf .ss r.b 1
  let c ← roleOf .ss r.c 2
  stepOk (r.lo.extractLsb' 0 4) 0 d.isView
  stepOk (r.lo.extractLsb' 0 4) 1 b.isView
  stepOk (r.lo.extractLsb' 0 4) 2 c.isView
  pure (.shl r.guard d b c)

/-- SHR (R213): the fields of its word. -/
def decShr (r : Raw) : Except DErr Instr := do
  need (r.var == 0) 2
  need (r.lo.extractLsb' 4 20 == 0) 1
  need (!r.lo.getLsbD 3) 1 
  let d ← roleOf .sd r.a 0
  let b ← roleOf .ss r.b 1
  let c ← roleOf .ss r.c 2
  stepOk (r.lo.extractLsb' 0 4) 0 d.isView
  stepOk (r.lo.extractLsb' 0 4) 1 b.isView
  stepOk (r.lo.extractLsb' 0 4) 2 c.isView
  pure (.shr r.guard d b c)

/-- SRA (R213): the fields of its word. -/
def decSra (r : Raw) : Except DErr Instr := do
  need (r.var == 0) 2
  need (r.lo.extractLsb' 4 20 == 0) 1
  need (!r.lo.getLsbD 3) 1 
  let d ← roleOf .sd r.a 0
  let b ← roleOf .ss r.b 1
  let c ← roleOf .ss r.c 2
  stepOk (r.lo.extractLsb' 0 4) 0 d.isView
  stepOk (r.lo.extractLsb' 0 4) 1 b.isView
  stepOk (r.lo.extractLsb' 0 4) 2 c.isView
  pure (.sra r.guard d b c)

/-- MIN (R213): the fields of its word. -/
def decMin (r : Raw) : Except DErr Instr := do
  need (r.var == 0) 2
  need (r.lo.extractLsb' 4 20 == 0) 1
  need (!r.lo.getLsbD 3) 1 
  let d ← roleOf .sd r.a 0
  let b ← roleOf .ss r.b 1
  let c ← roleOf .ss r.c 2
  stepOk (r.lo.extractLsb' 0 4) 0 d.isView
  stepOk (r.lo.extractLsb' 0 4) 1 b.isView
  stepOk (r.lo.extractLsb' 0 4) 2 c.isView
  pure (.min r.guard d b c)

/-- MAX (R213): the fields of its word. -/
def decMax (r : Raw) : Except DErr Instr := do
  need (r.var == 0) 2
  need (r.lo.extractLsb' 4 20 == 0) 1
  need (!r.lo.getLsbD 3) 1 
  let d ← roleOf .sd r.a 0
  let b ← roleOf .ss r.b 1
  let c ← roleOf .ss r.c 2
  stepOk (r.lo.extractLsb' 0 4) 0 d.isView
  stepOk (r.lo.extractLsb' 0 4) 1 b.isView
  stepOk (r.lo.extractLsb' 0 4) 2 c.isView
  pure (.max r.guard d b c)

/-- MINN (R213): the fields of its word. -/
def decMinn (r : Raw) : Except DErr Instr := do
  need (r.var == 0) 2
  need (r.lo.extractLsb' 4 20 == 0) 1
  need (!r.lo.getLsbD 3) 1 
  let d ← roleOf .sd r.a 0
  let b ← roleOf .ss r.b 1
  let c ← roleOf .ss r.c 2
  stepOk (r.lo.extractLsb' 0 4) 0 d.isView
  stepOk (r.lo.extractLsb' 0 4) 1 b.isView
  stepOk (r.lo.extractLsb' 0 4) 2 c.isView
  pure (.minn r.guard d b c)

/-- MAXN (R213): the fields of its word. -/
def decMaxn (r : Raw) : Except DErr Instr := do
  need (r.var == 0) 2
  need (r.lo.extractLsb' 4 20 == 0) 1
  need (!r.lo.getLsbD 3) 1 
  let d ← roleOf .sd r.a 0
  let b ← roleOf .ss r.b 1
  let c ← roleOf .ss r.c 2
  stepOk (r.lo.extractLsb' 0 4) 0 d.isView
  stepOk (r.lo.extractLsb' 0 4) 1 b.isView
  stepOk (r.lo.extractLsb' 0 4) 2 c.isView
  pure (.maxn r.guard d b c)

/-- CLZ (R215): the fields of its word. -/
def decClz (r : Raw) : Except DErr Instr := do
  need (r.var == 0) 2
  need (r.c == 0) 1
  need (r.lo.extractLsb' 4 20 == 0) 1
  need (!r.lo.getLsbD 2) 1 
  need (!r.lo.getLsbD 3) 1 
  let d ← roleOf .sd r.a 0
  let b ← roleOf .ss r.b 1
  stepOk (r.lo.extractLsb' 0 4) 0 d.isView
  stepOk (r.lo.extractLsb' 0 4) 1 b.isView
  pure (.clz r.guard d b)

/-- POPC (R215): the fields of its word. -/
def decPopc (r : Raw) : Except DErr Instr := do
  need (r.var == 0) 2
  need (r.c == 0) 1
  need (r.lo.extractLsb' 4 20 == 0) 1
  need (!r.lo.getLsbD 2) 1 
  need (!r.lo.getLsbD 3) 1 
  let d ← roleOf .sd r.a 0
  let b ← roleOf .ss r.b 1
  stepOk (r.lo.extractLsb' 0 4) 0 d.isView
  stepOk (r.lo.extractLsb' 0 4) 1 b.isView
  pure (.popc r.guard d b)

/-- LI (R216): the fields of its word. -/
def decLi (r : Raw) : Except DErr Instr := do
  need (r.var == 0) 2
  need (r.b == 0) 1
  need (r.c == 0) 1
  let d ← roleOf .sd r.a 0
  pure (.li r.guard d (r.lo.extractLsb' 0 24))

/-- LIH_M (R216): the fields of its word. -/
def decLihM (r : Raw) : Except DErr Instr := do
  need (r.b == 0) 1
  need (r.c == 0) 1
  let d ← gregOf r.a 0
  pure (.lihM r.guard d (r.lo.extractLsb' 0 24))

/-- LIH_H (R216): the fields of its word. -/
def decLihH (r : Raw) : Except DErr Instr := do
  need (r.b == 0) 1
  need (r.c == 0) 1
  need (r.lo.extractLsb' 16 8 == 0) 1
  let d ← gregOf r.a 0
  pure (.lihH r.guard d (r.lo.extractLsb' 0 16))

/-- MOV (R217): the fields of its word. -/
def decMov (r : Raw) : Except DErr Instr := do
  need (r.var == 0) 2
  need (r.c == 0) 1
  need (r.lo.extractLsb' 4 20 == 0) 1
  need (!r.lo.getLsbD 2) 1 
  need (!r.lo.getLsbD 3) 1 
  let d ← roleOf .sd r.a 0
  let b ← roleOf .ss r.b 1
  stepOk (r.lo.extractLsb' 0 4) 0 d.isView
  stepOk (r.lo.extractLsb' 0 4) 1 b.isView
  pure (.mov r.guard d b)

/-- SEL (R217): the fields of its word. -/
def decSel (r : Raw) : Except DErr Instr := do
  need (r.var == 0) 2
  need (r.lo.extractLsb' 16 8 == 0) 1
  need (r.lo.extractLsb' 9 7 == 0) 1
  need (!r.lo.getLsbD 3) 1 
  let d ← roleOf .sd r.a 0
  let b ← roleOf .ss r.b 1
  let c ← roleOf .ss r.c 2
  stepOk (r.lo.extractLsb' 0 4) 0 d.isView
  stepOk (r.lo.extractLsb' 0 4) 1 b.isView
  stepOk (r.lo.extractLsb' 0 4) 2 c.isView
  pure (.sel r.guard d b c (r.lo.extractLsb' 8 1) (r.lo.extractLsb' 4 4))

/-- CMP (R197): the fields of its word. -/
def decCmp (r : Raw) : Except DErr Instr := do
  need (r.lo.extractLsb' 16 8 == 0) 1
  need (r.lo.extractLsb' 5 3 == 0 && r.lo.extractLsb' 12 4 == 0) 1
  need (!r.lo.getLsbD 3) 1
  if r.lo.extractLsb' 4 1 = 0#1 then do
    need (r.lo.extractLsb' 8 4 == 0) 1
    let d ← roleOf .sd r.a 0
    let b ← roleOf .ss r.b 1
    let c ← roleOf .ss r.c 2
    need (r.lo.extractLsb' 0 3 == 0) 3 (stepField (r.lo.extractLsb' 0 3))
    pure (.cmp r.guard r.var (.val d) b c)
  else do
    need (r.a == 0) 1
    need (!r.lo.getLsbD 0) 1
    let b ← roleOf .ss r.b 1
    let c ← roleOf .ss r.c 2
    need (r.lo.extractLsb' 0 3 == 0) 3 (stepField (r.lo.extractLsb' 0 3))
    pure (.cmp r.guard r.var (.pred (r.lo.extractLsb' 8 4)) b c)

/-- SETP (R198): the fields of its word. -/
def decSetp (r : Raw) : Except DErr Instr := do
  need (r.var == 0) 2
  need (r.a == 0) 1
  need (r.lo.extractLsb' 16 8 == 0 && r.lo.extractLsb' 9 6 == 0) 1
  need (!r.lo.getLsbD 0 && !r.lo.getLsbD 3) 1
  let b ← (if r.lo.extractLsb' 15 1 = 0#1 then do let o ← roleOf .ss r.b 1; pure (SetpSrc.val o)
    else do need (r.b.toNat < 8) 3 1; pure (SetpSrc.ts (r.b.extractLsb' 0 3)))
  let c ← roleOf .ss r.c 2
  need (r.lo.extractLsb' 0 3 == 0) 3 (stepField (r.lo.extractLsb' 0 3))
  pure (.setp r.guard (r.lo.extractLsb' 8 1) (r.lo.extractLsb' 4 4) b c)

/-- PAND (R199): the fields of its word. -/
def decPand (r : Raw) : Except DErr Instr := do
  need (r.var == 0) 2
  need (r.a == 0) 1
  need (r.b == 0) 1
  need (r.c == 0) 1
  need (r.lo.extractLsb' 16 8 == 0) 1
  need (!r.lo.getLsbD 0) 1 
  need (!r.lo.getLsbD 1) 1 
  need (!r.lo.getLsbD 2) 1 
  need (!r.lo.getLsbD 3) 1 
  pure (.pand r.guard (r.lo.extractLsb' 12 4) (r.lo.extractLsb' 8 4) (r.lo.extractLsb' 4 4))

/-- POR (R199): the fields of its word. -/
def decPor (r : Raw) : Except DErr Instr := do
  need (r.var == 0) 2
  need (r.a == 0) 1
  need (r.b == 0) 1
  need (r.c == 0) 1
  need (r.lo.extractLsb' 16 8 == 0) 1
  need (!r.lo.getLsbD 0) 1 
  need (!r.lo.getLsbD 1) 1 
  need (!r.lo.getLsbD 2) 1 
  need (!r.lo.getLsbD 3) 1 
  pure (.por r.guard (r.lo.extractLsb' 12 4) (r.lo.extractLsb' 8 4) (r.lo.extractLsb' 4 4))

/-- PXOR (R199): the fields of its word. -/
def decPxor (r : Raw) : Except DErr Instr := do
  need (r.var == 0) 2
  need (r.a == 0) 1
  need (r.b == 0) 1
  need (r.c == 0) 1
  need (r.lo.extractLsb' 16 8 == 0) 1
  need (!r.lo.getLsbD 0) 1 
  need (!r.lo.getLsbD 1) 1 
  need (!r.lo.getLsbD 2) 1 
  need (!r.lo.getLsbD 3) 1 
  pure (.pxor r.guard (r.lo.extractLsb' 12 4) (r.lo.extractLsb' 8 4) (r.lo.extractLsb' 4 4))

/-- PNOT (R199): the fields of its word. -/
def decPnot (r : Raw) : Except DErr Instr := do
  need (r.var == 0) 2
  need (r.a == 0) 1
  need (r.b == 0) 1
  need (r.c == 0) 1
  need (r.lo.extractLsb' 16 8 == 0) 1
  need (r.lo.extractLsb' 12 4 == 0) 1
  need (!r.lo.getLsbD 0) 1 
  need (!r.lo.getLsbD 1) 1 
  need (!r.lo.getLsbD 2) 1 
  need (!r.lo.getLsbD 3) 1 
  pure (.pnot r.guard (r.lo.extractLsb' 8 4) (r.lo.extractLsb' 4 4))

/-- AGSET (R218): the fields of its word. -/
def decAgset (r : Raw) : Except DErr Instr := do
  need (r.var == 0) 2
  need (r.c == 0) 1
  need (r.lo.extractLsb' 0 24 == 0) 1
  let port ← roleOf .pt r.a 0
  let v ← viewOf r.b 1
  pure (.agset r.guard port v)

/-- AGPOS (R218): the fields of its word. -/
def decAgpos (r : Raw) : Except DErr Instr := do
  need (r.var == 0) 2
  need (r.c == 0) 1
  need (r.lo.extractLsb' 0 24 == 0) 1
  let d ← roleOf .sd r.a 0
  let port ← roleOf .pt r.b 1
  pure (.agpos r.guard d port)

/-- VIEW (R219): the fields of its word. -/
def decView (r : Raw) : Except DErr Instr := do
  need (r.var == 0) 2
  need (r.c == 0) 1
  need (r.lo.extractLsb' 0 24 == 0) 1
  let v ← viewOf r.a 0
  let b ← roleOf .ss r.b 1
  pure (.view r.guard v b)

/-- SHAPE (R220): the fields of its word. -/
def decShape (r : Raw) : Except DErr Instr := do
  need (r.var.toNat < 4) 2
  need (r.lo.extractLsb' 9 15 == 0) 1
  need (r.lo.extractLsb' 0 4 == 0) 1
  let d ← roleOf .sd r.a 0
  let rows ← roleOf .ss r.b 1
  let cols ← roleOf .ss r.c 2
  pure (.shape r.guard (r.var.extractLsb' 1 1) (r.var.extractLsb' 0 1) d rows cols (r.lo.extractLsb' 4 5))

/-- BXINFO (R221): the fields of its word. -/
def decBxinfo (r : Raw) : Except DErr Instr := do
  need (r.var == 0) 2
  need (r.b == 0) 1
  need (r.lo.extractLsb' 16 8 == 0) 1
  need (r.lo.extractLsb' 10 2 == 0) 1
  need (r.lo.extractLsb' 0 4 == 0) 1
  let d ← roleOf .sd r.a 0
  let c ← gregOf r.c 2
  pure (.bxinfo r.guard d c (r.lo.extractLsb' 12 4) (r.lo.extractLsb' 4 6))

/-- SGET (R224): the fields of its word. -/
def decSget (r : Raw) : Except DErr Instr := do
  need (r.var == 0) 2
  need (r.b == 0) 1
  need (r.c == 0) 1
  need (r.lo.extractLsb' 16 8 == 0) 1
  need (r.lo.extractLsb' 0 4 == 0) 1
  let d ← roleOf .sd r.a 0
  pure (.sget r.guard d (r.lo.extractLsb' 4 12))

/-- SSET (R224): the fields of its word. -/
def decSset (r : Raw) : Except DErr Instr := do
  need (r.var == 0) 2
  need (r.a == 0) 1
  need (r.c == 0) 1
  need (r.lo.extractLsb' 16 8 == 0) 1
  need (r.lo.extractLsb' 0 4 == 0) 1
  let b ← roleOf .ss r.b 1
  pure (.sset r.guard b (r.lo.extractLsb' 4 12))

/-- TSGET (R222): the fields of its word. -/
def decTsget (r : Raw) : Except DErr Instr := do
  need (r.var == 0) 2
  need (r.b == 0) 1
  need (r.c == 0) 1
  need (r.lo.extractLsb' 7 17 == 0) 1
  need (r.lo.extractLsb' 0 4 == 0) 1
  let d ← roleOf .sd r.a 0
  pure (.tsget r.guard d (r.lo.extractLsb' 4 3))

/-- XPAT (R281): the fields of its word. -/
def decXpat (r : Raw) : Except DErr Instr := do
  need (r.var == 0) 2
  need (r.a == 0) 1
  need (r.c == 0) 1
  need (r.lo.extractLsb' 10 14 == 0) 1
  need (r.lo.extractLsb' 7 1 == 0) 1
  need (r.lo.extractLsb' 0 4 == 0) 1
  let v ← viewOf r.b 1
  pure (.xpat r.guard v (r.lo.extractLsb' 8 2) (r.lo.extractLsb' 4 3))

/-- The S-slot map (R186). -/
def decSSlot (r : Raw) : Except DErr Instr :=
  match r.op.toNat with
  | 0x00 => decAdd r
  | 0x01 => decSub r
  | 0x02 => decMul r
  | 0x03 => decMulh r
  | 0x04 =>
    if r.lo.extractLsb' 4 1 = 0 then decDivs r else decRems r
  | 0x05 =>
    if r.lo.extractLsb' 4 1 = 0 then decDivn r else decRemn r
  | 0x08 => decAndS r
  | 0x09 => decOrS r
  | 0x0a => decXorS r
  | 0x0c => decShl r
  | 0x0d => decShr r
  | 0x0e => decSra r
  | 0x10 => decMin r
  | 0x11 => decMax r
  | 0x12 => decMinn r
  | 0x13 => decMaxn r
  | 0x14 => decClz r
  | 0x15 => decPopc r
  | 0x18 => decLi r
  | 0x19 =>
    if r.var = 0 then decLihM r else
    if r.var = 1 then decLihH r else
    .error { cause := 2, info := 0 }
  | 0x1a => decMov r
  | 0x1b => decSel r
  | 0x20 => decCmp r
  | 0x21 => decSetp r
  | 0x22 => decPand r
  | 0x23 => decPor r
  | 0x24 => decPxor r
  | 0x25 => decPnot r
  | 0x30 => decAgset r
  | 0x31 => decAgpos r
  | 0x32 => decView r
  | 0x33 => decShape r
  | 0x34 => decBxinfo r
  | 0x35 => decSget r
  | 0x36 => decSset r
  | 0x37 => decTsget r
  | 0x38 => decXpat r
  | _ => .error { cause := 2, info := 0 }

/-- LD (R237): the fields of its word. -/
def decLd (r : Raw) : Except DErr Instr := do
  need (r.var == 0) 2
  let d ← gregOf r.a 0
  let path ← r.path
  pure (.ld r.guard d path)

/-- LD_ACQ (R237): the fields of its word. -/
def decLdAcq (r : Raw) : Except DErr Instr := do
  need (r.var.toNat ≤ 4) 2
  let d ← gregOf r.a 0
  let path ← r.path
  pure (.ldAcq r.guard r.var d path)

/-- ST (R237): the fields of its word. -/
def decSt (r : Raw) : Except DErr Instr := do
  need (r.var == 0) 2
  let a ← roleOf .k r.a 0
  let path ← r.path
  pure (.st r.guard a path)

/-- ST_REL (R237): the fields of its word. -/
def decStRel (r : Raw) : Except DErr Instr := do
  need (r.var.toNat ≤ 4) 2
  let a ← roleOf .k r.a 0
  let path ← r.path
  pure (.stRel r.guard r.var a path)

/-- LDV (R237): the fields of its word. -/
def decLdv (r : Raw) : Except DErr Instr := do
  need (r.var == 0) 2
  let v ← viewOf r.a 0
  let path ← r.path
  pure (.ldv r.guard v path)

/-- LDV_ACQ (R237): the fields of its word. -/
def decLdvAcq (r : Raw) : Except DErr Instr := do
  need (r.var.toNat ≤ 4) 2
  let v ← viewOf r.a 0
  let path ← r.path
  pure (.ldvAcq r.guard r.var v path)

/-- STV (R237): the fields of its word. -/
def decStv (r : Raw) : Except DErr Instr := do
  need (r.var == 0) 2
  let v ← viewOf r.a 0
  let path ← r.path
  pure (.stv r.guard v path)

/-- STV_REL (R237): the fields of its word. -/
def decStvRel (r : Raw) : Except DErr Instr := do
  need (r.var.toNat ≤ 4) 2
  let v ← viewOf r.a 0
  let path ← r.path
  pure (.stvRel r.guard r.var v path)

/-- LDFF (R238): the fields of its word. -/
def decLdff (r : Raw) : Except DErr Instr := do
  need (r.var == 0) 2
  let v ← viewOf r.a 0
  let path ← r.path
  pure (.ldff r.guard v path)

/-- LDBLK (R239): the fields of its word. -/
def decLdblk (r : Raw) : Except DErr Instr := do
  need (r.var == 0) 2
  let v ← viewOf r.a 0
  let path ← r.path
  pure (.ldblk r.guard v path)

/-- STBLK (R239): the fields of its word. -/
def decStblk (r : Raw) : Except DErr Instr := do
  need (r.var == 0) 2
  let v ← viewOf r.a 0
  let path ← r.path
  pure (.stblk r.guard v path)

/-- LDTAG (R240): the fields of its word. -/
def decLdtag (r : Raw) : Except DErr Instr := do
  need (r.var == 0) 2
  let d ← gregOf r.a 0
  let path ← r.path
  pure (.ldtag r.guard d path)

/-- STTAG (R240): the fields of its word. -/
def decSttag (r : Raw) : Except DErr Instr := do
  need (r.var == 0) 2
  let a ← roleOf .k r.a 0
  let path ← r.path
  pure (.sttag r.guard a path)

/-- LDR (R242): the fields of its word. -/
def decLdr (r : Raw) : Except DErr Instr := do
  need (r.var.toNat < 2) 2
  let d ← roleOf .e r.a 0
  let path ← r.path
  pure (.ldr r.guard (r.var.extractLsb' 0 1) d path)

/-- STR (R242): the fields of its word. -/
def decStr (r : Raw) : Except DErr Instr := do
  need (r.var.toNat < 2) 2
  let a ← roleOf .m r.a 0
  let path ← r.path
  pure (.str r.guard (r.var.extractLsb' 0 1) a path)

/-- ALIGN (R127): the fields of its word. -/
def decAlign (r : Raw) : Except DErr Instr := do
  need (r.var == 0) 2
  need (r.a == 0) 1
  need (r.b == 0) 1
  need (r.c == 0) 1
  need (r.lo.extractLsb' 0 24 == 0) 1
  pure (.align r.guard)

/-- FENCE (R132): the fields of its word. -/
def decFence (r : Raw) : Except DErr Instr := do
  need (r.var.toNat ≤ 4) 2
  need (r.a == 0) 1
  need (r.b == 0) 1
  need (r.c == 0) 1
  need (r.lo.extractLsb' 0 24 == 0) 1
  pure (.fence r.guard r.var)

/-- PF (R245): the fields of its word. -/
def decPf (r : Raw) : Except DErr Instr := do
  need (r.var == 0) 2
  need (r.a == 0) 1
  let path ← r.path
  pure (.pf r.guard path)

/-- RFENCE (R246): the fields of its word. -/
def decRfence (r : Raw) : Except DErr Instr := do
  need (r.var == 0) 2
  let a ← roleOf .k r.a 0
  let path ← r.path
  pure (.rfence r.guard a path)

/-- LDP (R247): the fields of its word. -/
def decLdp (r : Raw) : Except DErr Instr := do
  need (r.var == 0) 2
  let d ← gregOf r.a 0
  need (d != 0) 3 0
  let path ← r.path
  pure (.ldp r.guard d path)

/-- STP (R248): the fields of its word. -/
def decStp (r : Raw) : Except DErr Instr := do
  need (r.var == 0) 2
  let a ← roleOf .m r.a 0
  let path ← r.path
  pure (.stp r.guard a path)

/-- WAITV (R249): the fields of its word. -/
def decWaitv (r : Raw) : Except DErr Instr := do
  need (r.var.toNat ≤ 5) 2
  let a ← roleOf .k r.a 0
  let path ← r.path
  pure (.waitv r.guard r.var a path)

/-- WAITV_ACQ (R249): the fields of its word. -/
def decWaitvAcq (sc : BitVec 3) (r : Raw) : Except DErr Instr := do
  need (r.var.toNat ≤ 5) 2
  let a ← roleOf .k r.a 0
  let path ← r.path
  pure (.waitvAcq r.guard sc r.var a path)

/-- ATOM_ADD (R241): the fields of its word. -/
def decAtomAdd (ord : BitVec 2) (r : Raw) : Except DErr Instr := do
  need (if ord == 0 then r.var == 0 else r.var.toNat ≤ 4) 2
  let a ← gregOf r.a 0
  let path ← r.path
  pure (.atomAdd r.guard ord r.var a path)

/-- ATOM_AND (R241): the fields of its word. -/
def decAtomAnd (ord : BitVec 2) (r : Raw) : Except DErr Instr := do
  need (if ord == 0 then r.var == 0 else r.var.toNat ≤ 4) 2
  let a ← gregOf r.a 0
  let path ← r.path
  pure (.atomAnd r.guard ord r.var a path)

/-- ATOM_OR (R241): the fields of its word. -/
def decAtomOr (ord : BitVec 2) (r : Raw) : Except DErr Instr := do
  need (if ord == 0 then r.var == 0 else r.var.toNat ≤ 4) 2
  let a ← gregOf r.a 0
  let path ← r.path
  pure (.atomOr r.guard ord r.var a path)

/-- ATOM_XOR (R241): the fields of its word. -/
def decAtomXor (ord : BitVec 2) (r : Raw) : Except DErr Instr := do
  need (if ord == 0 then r.var == 0 else r.var.toNat ≤ 4) 2
  let a ← gregOf r.a 0
  let path ← r.path
  pure (.atomXor r.guard ord r.var a path)

/-- ATOM_MIN (R241): the fields of its word. -/
def decAtomMin (ord : BitVec 2) (r : Raw) : Except DErr Instr := do
  need (if ord == 0 then r.var == 0 else r.var.toNat ≤ 4) 2
  let a ← gregOf r.a 0
  let path ← r.path
  pure (.atomMin r.guard ord r.var a path)

/-- ATOM_MAX (R241): the fields of its word. -/
def decAtomMax (ord : BitVec 2) (r : Raw) : Except DErr Instr := do
  need (if ord == 0 then r.var == 0 else r.var.toNat ≤ 4) 2
  let a ← gregOf r.a 0
  let path ← r.path
  pure (.atomMax r.guard ord r.var a path)

/-- ATOM_MINN (R241): the fields of its word. -/
def decAtomMinn (ord : BitVec 2) (r : Raw) : Except DErr Instr := do
  need (if ord == 0 then r.var == 0 else r.var.toNat ≤ 4) 2
  let a ← gregOf r.a 0
  let path ← r.path
  pure (.atomMinn r.guard ord r.var a path)

/-- ATOM_MAXN (R241): the fields of its word. -/
def decAtomMaxn (ord : BitVec 2) (r : Raw) : Except DErr Instr := do
  need (if ord == 0 then r.var == 0 else r.var.toNat ≤ 4) 2
  let a ← gregOf r.a 0
  let path ← r.path
  pure (.atomMaxn r.guard ord r.var a path)

/-- ATOM_SWAP (R241): the fields of its word. -/
def decAtomSwap (ord : BitVec 2) (r : Raw) : Except DErr Instr := do
  need (if ord == 0 then r.var == 0 else r.var.toNat ≤ 4) 2
  let a ← gregOf r.a 0
  let path ← r.path
  pure (.atomSwap r.guard ord r.var a path)

/-- ATOM_CAS (R241): the fields of its word. -/
def decAtomCas (ord : BitVec 2) (r : Raw) : Except DErr Instr := do
  need (if ord == 0 then r.var == 0 else r.var.toNat ≤ 4) 2
  let a ← gregOf r.a 0
  need (casReg a) 3 0
  let path ← r.path
  pure (.atomCas r.guard ord r.var a path)

/-- ATOMR_ADD (R242): the fields of its word. -/
def decAtomrAdd (r : Raw) : Except DErr Instr := do
  need (r.var.toNat < 4) 2
  let a ← gregOf r.a 0
  let path ← r.path
  pure (.atomrAdd r.guard (r.var.extractLsb' 0 2) a path)

/-- ATOMR_AND (R242): the fields of its word. -/
def decAtomrAnd (r : Raw) : Except DErr Instr := do
  need (r.var.toNat < 4) 2
  let a ← gregOf r.a 0
  let path ← r.path
  pure (.atomrAnd r.guard (r.var.extractLsb' 0 2) a path)

/-- ATOMR_OR (R242): the fields of its word. -/
def decAtomrOr (r : Raw) : Except DErr Instr := do
  need (r.var.toNat < 4) 2
  let a ← gregOf r.a 0
  let path ← r.path
  pure (.atomrOr r.guard (r.var.extractLsb' 0 2) a path)

/-- ATOMR_XOR (R242): the fields of its word. -/
def decAtomrXor (r : Raw) : Except DErr Instr := do
  need (r.var.toNat < 4) 2
  let a ← gregOf r.a 0
  let path ← r.path
  pure (.atomrXor r.guard (r.var.extractLsb' 0 2) a path)

/-- ATOMR_MIN (R242): the fields of its word. -/
def decAtomrMin (r : Raw) : Except DErr Instr := do
  need (r.var.toNat < 4) 2
  let a ← gregOf r.a 0
  let path ← r.path
  pure (.atomrMin r.guard (r.var.extractLsb' 0 2) a path)

/-- ATOMR_MAX (R242): the fields of its word. -/
def decAtomrMax (r : Raw) : Except DErr Instr := do
  need (r.var.toNat < 4) 2
  let a ← gregOf r.a 0
  let path ← r.path
  pure (.atomrMax r.guard (r.var.extractLsb' 0 2) a path)

/-- ATOMR_MINN (R242): the fields of its word. -/
def decAtomrMinn (r : Raw) : Except DErr Instr := do
  need (r.var.toNat < 4) 2
  let a ← gregOf r.a 0
  let path ← r.path
  pure (.atomrMinn r.guard (r.var.extractLsb' 0 2) a path)

/-- ATOMR_MAXN (R242): the fields of its word. -/
def decAtomrMaxn (r : Raw) : Except DErr Instr := do
  need (r.var.toNat < 4) 2
  let a ← gregOf r.a 0
  let path ← r.path
  pure (.atomrMaxn r.guard (r.var.extractLsb' 0 2) a path)

/-- ATOMR_SWAP (R242): the fields of its word. -/
def decAtomrSwap (r : Raw) : Except DErr Instr := do
  need (r.var.toNat < 4) 2
  let a ← gregOf r.a 0
  let path ← r.path
  pure (.atomrSwap r.guard (r.var.extractLsb' 0 2) a path)

/-- ATOMR_CAS (R242): the fields of its word. -/
def decAtomrCas (r : Raw) : Except DErr Instr := do
  need (r.var.toNat < 4) 2
  let a ← gregOf r.a 0
  need (casReg a) 3 0
  let path ← r.path
  pure (.atomrCas r.guard (r.var.extractLsb' 0 2) a path)

/-- The M-slot map (R187). -/
def decMSlot (r : Raw) : Except DErr Instr :=
  match r.op.toNat with
  | 0x00 => decLd r
  | 0x01 => decLdAcq r
  | 0x02 => decSt r
  | 0x03 => decStRel r
  | 0x04 => decLdv r
  | 0x05 => decLdvAcq r
  | 0x06 => decStv r
  | 0x07 => decStvRel r
  | 0x08 => decLdff r
  | 0x09 => decLdblk r
  | 0x0a => decStblk r
  | 0x0b => decLdtag r
  | 0x0c => decSttag r
  | 0x10 => decLdr r
  | 0x11 => decStr r
  | 0x18 => decAlign r
  | 0x19 => decFence r
  | 0x1a => decPf r
  | 0x1b => decRfence r
  | 0x1c => decLdp r
  | 0x1d => decStp r
  | 0x20 => decWaitv r
  | 0x21 => decWaitvAcq 0 r
  | 0x22 => decWaitvAcq 1 r
  | 0x23 => decWaitvAcq 2 r
  | 0x24 => decWaitvAcq 3 r
  | 0x25 => decWaitvAcq 4 r
  | 0x40 => decAtomAdd 0 r
  | 0x41 => decAtomAdd 1 r
  | 0x42 => decAtomAdd 2 r
  | 0x43 => decAtomAdd 3 r
  | 0x44 => decAtomAnd 0 r
  | 0x45 => decAtomAnd 1 r
  | 0x46 => decAtomAnd 2 r
  | 0x47 => decAtomAnd 3 r
  | 0x48 => decAtomOr 0 r
  | 0x49 => decAtomOr 1 r
  | 0x4a => decAtomOr 2 r
  | 0x4b => decAtomOr 3 r
  | 0x4c => decAtomXor 0 r
  | 0x4d => decAtomXor 1 r
  | 0x4e => decAtomXor 2 r
  | 0x4f => decAtomXor 3 r
  | 0x50 => decAtomMin 0 r
  | 0x51 => decAtomMin 1 r
  | 0x52 => decAtomMin 2 r
  | 0x53 => decAtomMin 3 r
  | 0x54 => decAtomMax 0 r
  | 0x55 => decAtomMax 1 r
  | 0x56 => decAtomMax 2 r
  | 0x57 => decAtomMax 3 r
  | 0x58 => decAtomMinn 0 r
  | 0x59 => decAtomMinn 1 r
  | 0x5a => decAtomMinn 2 r
  | 0x5b => decAtomMinn 3 r
  | 0x5c => decAtomMaxn 0 r
  | 0x5d => decAtomMaxn 1 r
  | 0x5e => decAtomMaxn 2 r
  | 0x5f => decAtomMaxn 3 r
  | 0x60 => decAtomSwap 0 r
  | 0x61 => decAtomSwap 1 r
  | 0x62 => decAtomSwap 2 r
  | 0x63 => decAtomSwap 3 r
  | 0x64 => decAtomCas 0 r
  | 0x65 => decAtomCas 1 r
  | 0x66 => decAtomCas 2 r
  | 0x67 => decAtomCas 3 r
  | 0x70 => decAtomrAdd r
  | 0x71 => decAtomrAnd r
  | 0x72 => decAtomrOr r
  | 0x73 => decAtomrXor r
  | 0x74 => decAtomrMin r
  | 0x75 => decAtomrMax r
  | 0x76 => decAtomrMinn r
  | 0x77 => decAtomrMaxn r
  | 0x78 => decAtomrSwap r
  | 0x79 => decAtomrCas r
  | _ => .error { cause := 2, info := 0 }

/-- VADD (R270): the fields of its word. -/
def decVadd (r : Raw) : Except DErr Instr := do
  need (r.var.toNat < 4) 2
  need (r.lo.extractLsb' 16 8 == 0) 1
  need (r.lo.extractLsb' 11 5 == 0) 1
  need (!r.lo.getLsbD 3) 1 
  let d ← roleOf .vd r.a 0
  let b ← roleOf .ra r.b 1
  let c ← roleOf .ra r.c 2
  stepOk (r.lo.extractLsb' 0 4) 0 d.isView
  stepOk (r.lo.extractLsb' 0 4) 1 b.isView
  stepOk (r.lo.extractLsb' 0 4) 2 c.isView
  pure (.vadd r.guard (r.var.extractLsb' 0 2) d b c { mneg := r.lo.extractLsb' 10 1, mv := r.lo.extractLsb' 5 5, men := r.lo.extractLsb' 4 1, st := r.lo.extractLsb' 0 4 })

/-- VSUB (R270): the fields of its word. -/
def decVsub (r : Raw) : Except DErr Instr := do
  need (r.var.toNat < 4) 2
  need (r.lo.extractLsb' 16 8 == 0) 1
  need (r.lo.extractLsb' 11 5 == 0) 1
  need (!r.lo.getLsbD 3) 1 
  let d ← roleOf .vd r.a 0
  let b ← roleOf .ra r.b 1
  let c ← roleOf .ra r.c 2
  stepOk (r.lo.extractLsb' 0 4) 0 d.isView
  stepOk (r.lo.extractLsb' 0 4) 1 b.isView
  stepOk (r.lo.extractLsb' 0 4) 2 c.isView
  pure (.vsub r.guard (r.var.extractLsb' 0 2) d b c { mneg := r.lo.extractLsb' 10 1, mv := r.lo.extractLsb' 5 5, men := r.lo.extractLsb' 4 1, st := r.lo.extractLsb' 0 4 })

/-- VMUL (R270): the fields of its word. -/
def decVmul (r : Raw) : Except DErr Instr := do
  need (r.var.toNat < 4) 2
  need (r.lo.extractLsb' 16 8 == 0) 1
  need (r.lo.extractLsb' 11 5 == 0) 1
  need (!r.lo.getLsbD 3) 1 
  let d ← roleOf .vd r.a 0
  let b ← roleOf .ra r.b 1
  let c ← roleOf .ra r.c 2
  stepOk (r.lo.extractLsb' 0 4) 0 d.isView
  stepOk (r.lo.extractLsb' 0 4) 1 b.isView
  stepOk (r.lo.extractLsb' 0 4) 2 c.isView
  pure (.vmul r.guard (r.var.extractLsb' 0 2) d b c { mneg := r.lo.extractLsb' 10 1, mv := r.lo.extractLsb' 5 5, men := r.lo.extractLsb' 4 1, st := r.lo.extractLsb' 0 4 })

/-- VDIV (R270): the fields of its word. -/
def decVdiv (r : Raw) : Except DErr Instr := do
  need (r.var.toNat < 4) 2
  need (r.lo.extractLsb' 16 8 == 0) 1
  need (r.lo.extractLsb' 11 5 == 0) 1
  need (!r.lo.getLsbD 3) 1 
  let d ← roleOf .vd r.a 0
  let b ← roleOf .ra r.b 1
  let c ← roleOf .ra r.c 2
  stepOk (r.lo.extractLsb' 0 4) 0 d.isView
  stepOk (r.lo.extractLsb' 0 4) 1 b.isView
  stepOk (r.lo.extractLsb' 0 4) 2 c.isView
  pure (.vdiv r.guard (r.var.extractLsb' 0 2) d b c { mneg := r.lo.extractLsb' 10 1, mv := r.lo.extractLsb' 5 5, men := r.lo.extractLsb' 4 1, st := r.lo.extractLsb' 0 4 })

/-- VFMA (R270): the fields of its word. -/
def decVfma (r : Raw) : Except DErr Instr := do
  need (r.var.toNat < 4) 2
  need (r.lo.extractLsb' 11 5 == 0) 1
  let d ← roleOf .vd r.a 0
  let b ← roleOf .ra r.b 1
  let c ← roleOf .ra r.c 2
  let e ← roleOf .ra (r.lo.extractLsb' 16 8) 3
  stepOk (r.lo.extractLsb' 0 4) 0 d.isView
  stepOk (r.lo.extractLsb' 0 4) 1 b.isView
  stepOk (r.lo.extractLsb' 0 4) 2 c.isView
  stepOk (r.lo.extractLsb' 0 4) 3 e.isView
  pure (.vfma r.guard (r.var.extractLsb' 0 2) d b c e { mneg := r.lo.extractLsb' 10 1, mv := r.lo.extractLsb' 5 5, men := r.lo.extractLsb' 4 1, st := r.lo.extractLsb' 0 4 })

/-- VFMS (R270): the fields of its word. -/
def decVfms (r : Raw) : Except DErr Instr := do
  need (r.var.toNat < 4) 2
  need (r.lo.extractLsb' 11 5 == 0) 1
  let d ← roleOf .vd r.a 0
  let b ← roleOf .ra r.b 1
  let c ← roleOf .ra r.c 2
  let e ← roleOf .ra (r.lo.extractLsb' 16 8) 3
  stepOk (r.lo.extractLsb' 0 4) 0 d.isView
  stepOk (r.lo.extractLsb' 0 4) 1 b.isView
  stepOk (r.lo.extractLsb' 0 4) 2 c.isView
  stepOk (r.lo.extractLsb' 0 4) 3 e.isView
  pure (.vfms r.guard (r.var.extractLsb' 0 2) d b c e { mneg := r.lo.extractLsb' 10 1, mv := r.lo.extractLsb' 5 5, men := r.lo.extractLsb' 4 1, st := r.lo.extractLsb' 0 4 })

/-- VMIN (R270): the fields of its word. -/
def decVmin (r : Raw) : Except DErr Instr := do
  need (r.var == 0) 2
  need (r.lo.extractLsb' 16 8 == 0) 1
  need (r.lo.extractLsb' 11 5 == 0) 1
  need (!r.lo.getLsbD 3) 1 
  let d ← roleOf .vd r.a 0
  let b ← roleOf .ra r.b 1
  let c ← roleOf .ra r.c 2
  stepOk (r.lo.extractLsb' 0 4) 0 d.isView
  stepOk (r.lo.extractLsb' 0 4) 1 b.isView
  stepOk (r.lo.extractLsb' 0 4) 2 c.isView
  pure (.vmin r.guard d b c { mneg := r.lo.extractLsb' 10 1, mv := r.lo.extractLsb' 5 5, men := r.lo.extractLsb' 4 1, st := r.lo.extractLsb' 0 4 })

/-- VMAX (R270): the fields of its word. -/
def decVmax (r : Raw) : Except DErr Instr := do
  need (r.var == 0) 2
  need (r.lo.extractLsb' 16 8 == 0) 1
  need (r.lo.extractLsb' 11 5 == 0) 1
  need (!r.lo.getLsbD 3) 1 
  let d ← roleOf .vd r.a 0
  let b ← roleOf .ra r.b 1
  let c ← roleOf .ra r.c 2
  stepOk (r.lo.extractLsb' 0 4) 0 d.isView
  stepOk (r.lo.extractLsb' 0 4) 1 b.isView
  stepOk (r.lo.extractLsb' 0 4) 2 c.isView
  pure (.vmax r.guard d b c { mneg := r.lo.extractLsb' 10 1, mv := r.lo.extractLsb' 5 5, men := r.lo.extractLsb' 4 1, st := r.lo.extractLsb' 0 4 })

/-- VAND (R271): the fields of its word. -/
def decVand (r : Raw) : Except DErr Instr := do
  need (r.var == 0) 2
  need (r.lo.extractLsb' 16 8 == 0) 1
  need (r.lo.extractLsb' 11 5 == 0) 1
  need (!r.lo.getLsbD 3) 1 
  let d ← roleOf .vd r.a 0
  let b ← roleOf .ra r.b 1
  let c ← roleOf .ra r.c 2
  stepOk (r.lo.extractLsb' 0 4) 0 d.isView
  stepOk (r.lo.extractLsb' 0 4) 1 b.isView
  stepOk (r.lo.extractLsb' 0 4) 2 c.isView
  pure (.vand r.guard d b c { mneg := r.lo.extractLsb' 10 1, mv := r.lo.extractLsb' 5 5, men := r.lo.extractLsb' 4 1, st := r.lo.extractLsb' 0 4 })

/-- VOR (R271): the fields of its word. -/
def decVor (r : Raw) : Except DErr Instr := do
  need (r.var == 0) 2
  need (r.lo.extractLsb' 16 8 == 0) 1
  need (r.lo.extractLsb' 11 5 == 0) 1
  need (!r.lo.getLsbD 3) 1 
  let d ← roleOf .vd r.a 0
  let b ← roleOf .ra r.b 1
  let c ← roleOf .ra r.c 2
  stepOk (r.lo.extractLsb' 0 4) 0 d.isView
  stepOk (r.lo.extractLsb' 0 4) 1 b.isView
  stepOk (r.lo.extractLsb' 0 4) 2 c.isView
  pure (.vor r.guard d b c { mneg := r.lo.extractLsb' 10 1, mv := r.lo.extractLsb' 5 5, men := r.lo.extractLsb' 4 1, st := r.lo.extractLsb' 0 4 })

/-- VXOR (R271): the fields of its word. -/
def decVxor (r : Raw) : Except DErr Instr := do
  need (r.var == 0) 2
  need (r.lo.extractLsb' 16 8 == 0) 1
  need (r.lo.extractLsb' 11 5 == 0) 1
  need (!r.lo.getLsbD 3) 1 
  let d ← roleOf .vd r.a 0
  let b ← roleOf .ra r.b 1
  let c ← roleOf .ra r.c 2
  stepOk (r.lo.extractLsb' 0 4) 0 d.isView
  stepOk (r.lo.extractLsb' 0 4) 1 b.isView
  stepOk (r.lo.extractLsb' 0 4) 2 c.isView
  pure (.vxor r.guard d b c { mneg := r.lo.extractLsb' 10 1, mv := r.lo.extractLsb' 5 5, men := r.lo.extractLsb' 4 1, st := r.lo.extractLsb' 0 4 })

/-- VSHL (R271): the fields of its word. -/
def decVshl (r : Raw) : Except DErr Instr := do
  need (r.var == 0) 2
  need (r.lo.extractLsb' 16 8 == 0) 1
  need (r.lo.extractLsb' 11 5 == 0) 1
  need (!r.lo.getLsbD 3) 1 
  let d ← roleOf .vd r.a 0
  let b ← roleOf .ra r.b 1
  let c ← roleOf .ra r.c 2
  stepOk (r.lo.extractLsb' 0 4) 0 d.isView
  stepOk (r.lo.extractLsb' 0 4) 1 b.isView
  stepOk (r.lo.extractLsb' 0 4) 2 c.isView
  pure (.vshl r.guard d b c { mneg := r.lo.extractLsb' 10 1, mv := r.lo.extractLsb' 5 5, men := r.lo.extractLsb' 4 1, st := r.lo.extractLsb' 0 4 })

/-- VSHR (R271): the fields of its word. -/
def decVshr (r : Raw) : Except DErr Instr := do
  need (r.var == 0) 2
  need (r.lo.extractLsb' 16 8 == 0) 1
  need (r.lo.extractLsb' 11 5 == 0) 1
  need (!r.lo.getLsbD 3) 1 
  let d ← roleOf .vd r.a 0
  let b ← roleOf .ra r.b 1
  let c ← roleOf .ra r.c 2
  stepOk (r.lo.extractLsb' 0 4) 0 d.isView
  stepOk (r.lo.extractLsb' 0 4) 1 b.isView
  stepOk (r.lo.extractLsb' 0 4) 2 c.isView
  pure (.vshr r.guard d b c { mneg := r.lo.extractLsb' 10 1, mv := r.lo.extractLsb' 5 5, men := r.lo.extractLsb' 4 1, st := r.lo.extractLsb' 0 4 })

/-- VSRA (R271): the fields of its word. -/
def decVsra (r : Raw) : Except DErr Instr := do
  need (r.var == 0) 2
  need (r.lo.extractLsb' 16 8 == 0) 1
  need (r.lo.extractLsb' 11 5 == 0) 1
  need (!r.lo.getLsbD 3) 1 
  let d ← roleOf .vd r.a 0
  let b ← roleOf .ra r.b 1
  let c ← roleOf .ra r.c 2
  stepOk (r.lo.extractLsb' 0 4) 0 d.isView
  stepOk (r.lo.extractLsb' 0 4) 1 b.isView
  stepOk (r.lo.extractLsb' 0 4) 2 c.isView
  pure (.vsra r.guard d b c { mneg := r.lo.extractLsb' 10 1, mv := r.lo.extractLsb' 5 5, men := r.lo.extractLsb' 4 1, st := r.lo.extractLsb' 0 4 })

/-- VABS (R270): the fields of its word. -/
def decVabs (r : Raw) : Except DErr Instr := do
  need (r.var == 0) 2
  need (r.c == 0) 1
  need (r.lo.extractLsb' 16 8 == 0) 1
  need (r.lo.extractLsb' 11 5 == 0) 1
  need (!r.lo.getLsbD 2) 1 
  need (!r.lo.getLsbD 3) 1 
  let d ← roleOf .vd r.a 0
  let b ← roleOf .ra r.b 1
  stepOk (r.lo.extractLsb' 0 4) 0 d.isView
  stepOk (r.lo.extractLsb' 0 4) 1 b.isView
  pure (.vabs r.guard d b { mneg := r.lo.extractLsb' 10 1, mv := r.lo.extractLsb' 5 5, men := r.lo.extractLsb' 4 1, st := r.lo.extractLsb' 0 4 })

/-- VNEG (R270): the fields of its word. -/
def decVneg (r : Raw) : Except DErr Instr := do
  need (r.var == 0) 2
  need (r.c == 0) 1
  need (r.lo.extractLsb' 16 8 == 0) 1
  need (r.lo.extractLsb' 11 5 == 0) 1
  need (!r.lo.getLsbD 2) 1 
  need (!r.lo.getLsbD 3) 1 
  let d ← roleOf .vd r.a 0
  let b ← roleOf .ra r.b 1
  stepOk (r.lo.extractLsb' 0 4) 0 d.isView
  stepOk (r.lo.extractLsb' 0 4) 1 b.isView
  pure (.vneg r.guard d b { mneg := r.lo.extractLsb' 10 1, mv := r.lo.extractLsb' 5 5, men := r.lo.extractLsb' 4 1, st := r.lo.extractLsb' 0 4 })

/-- VNOT (R271): the fields of its word. -/
def decVnot (r : Raw) : Except DErr Instr := do
  need (r.var == 0) 2
  need (r.c == 0) 1
  need (r.lo.extractLsb' 16 8 == 0) 1
  need (r.lo.extractLsb' 11 5 == 0) 1
  need (!r.lo.getLsbD 2) 1 
  need (!r.lo.getLsbD 3) 1 
  let d ← roleOf .vd r.a 0
  let b ← roleOf .ra r.b 1
  stepOk (r.lo.extractLsb' 0 4) 0 d.isView
  stepOk (r.lo.extractLsb' 0 4) 1 b.isView
  pure (.vnot r.guard d b { mneg := r.lo.extractLsb' 10 1, mv := r.lo.extractLsb' 5 5, men := r.lo.extractLsb' 4 1, st := r.lo.extractLsb' 0 4 })

/-- VMOV (R279): the fields of its word. -/
def decVmov (r : Raw) : Except DErr Instr := do
  need (r.var == 0) 2
  need (r.c == 0) 1
  need (r.lo.extractLsb' 16 8 == 0) 1
  need (r.lo.extractLsb' 11 5 == 0) 1
  need (!r.lo.getLsbD 2) 1 
  need (!r.lo.getLsbD 3) 1 
  let d ← roleOf .vd r.a 0
  let b ← roleOf .ra r.b 1
  stepOk (r.lo.extractLsb' 0 4) 0 d.isView
  stepOk (r.lo.extractLsb' 0 4) 1 b.isView
  pure (.vmov r.guard d b { mneg := r.lo.extractLsb' 10 1, mv := r.lo.extractLsb' 5 5, men := r.lo.extractLsb' 4 1, st := r.lo.extractLsb' 0 4 })

/-- VRCP (R270): the fields of its word. -/
def decVrcp (r : Raw) : Except DErr Instr := do
  need (r.var.toNat < 4) 2
  need (r.c == 0) 1
  need (r.lo.extractLsb' 16 8 == 0) 1
  need (r.lo.extractLsb' 11 5 == 0) 1
  need (!r.lo.getLsbD 2) 1 
  need (!r.lo.getLsbD 3) 1 
  let d ← roleOf .vd r.a 0
  let b ← roleOf .ra r.b 1
  stepOk (r.lo.extractLsb' 0 4) 0 d.isView
  stepOk (r.lo.extractLsb' 0 4) 1 b.isView
  pure (.vrcp r.guard (r.var.extractLsb' 0 2) d b { mneg := r.lo.extractLsb' 10 1, mv := r.lo.extractLsb' 5 5, men := r.lo.extractLsb' 4 1, st := r.lo.extractLsb' 0 4 })

/-- VSQRT (R270): the fields of its word. -/
def decVsqrt (r : Raw) : Except DErr Instr := do
  need (r.var.toNat < 4) 2
  need (r.c == 0) 1
  need (r.lo.extractLsb' 16 8 == 0) 1
  need (r.lo.extractLsb' 11 5 == 0) 1
  need (!r.lo.getLsbD 2) 1 
  need (!r.lo.getLsbD 3) 1 
  let d ← roleOf .vd r.a 0
  let b ← roleOf .ra r.b 1
  stepOk (r.lo.extractLsb' 0 4) 0 d.isView
  stepOk (r.lo.extractLsb' 0 4) 1 b.isView
  pure (.vsqrt r.guard (r.var.extractLsb' 0 2) d b { mneg := r.lo.extractLsb' 10 1, mv := r.lo.extractLsb' 5 5, men := r.lo.extractLsb' 4 1, st := r.lo.extractLsb' 0 4 })

/-- VRSQRT (R270): the fields of its word. -/
def decVrsqrt (r : Raw) : Except DErr Instr := do
  need (r.var.toNat < 4) 2
  need (r.c == 0) 1
  need (r.lo.extractLsb' 16 8 == 0) 1
  need (r.lo.extractLsb' 11 5 == 0) 1
  need (!r.lo.getLsbD 2) 1 
  need (!r.lo.getLsbD 3) 1 
  let d ← roleOf .vd r.a 0
  let b ← roleOf .ra r.b 1
  stepOk (r.lo.extractLsb' 0 4) 0 d.isView
  stepOk (r.lo.extractLsb' 0 4) 1 b.isView
  pure (.vrsqrt r.guard (r.var.extractLsb' 0 2) d b { mneg := r.lo.extractLsb' 10 1, mv := r.lo.extractLsb' 5 5, men := r.lo.extractLsb' 4 1, st := r.lo.extractLsb' 0 4 })

/-- VEXP2 (R270): the fields of its word. -/
def decVexp2 (r : Raw) : Except DErr Instr := do
  need (r.var.toNat < 4) 2
  need (r.c == 0) 1
  need (r.lo.extractLsb' 16 8 == 0) 1
  need (r.lo.extractLsb' 11 5 == 0) 1
  need (!r.lo.getLsbD 2) 1 
  need (!r.lo.getLsbD 3) 1 
  let d ← roleOf .vd r.a 0
  let b ← roleOf .ra r.b 1
  stepOk (r.lo.extractLsb' 0 4) 0 d.isView
  stepOk (r.lo.extractLsb' 0 4) 1 b.isView
  pure (.vexp2 r.guard (r.var.extractLsb' 0 2) d b { mneg := r.lo.extractLsb' 10 1, mv := r.lo.extractLsb' 5 5, men := r.lo.extractLsb' 4 1, st := r.lo.extractLsb' 0 4 })

/-- VLOG2 (R270): the fields of its word. -/
def decVlog2 (r : Raw) : Except DErr Instr := do
  need (r.var.toNat < 4) 2
  need (r.c == 0) 1
  need (r.lo.extractLsb' 16 8 == 0) 1
  need (r.lo.extractLsb' 11 5 == 0) 1
  need (!r.lo.getLsbD 2) 1 
  need (!r.lo.getLsbD 3) 1 
  let d ← roleOf .vd r.a 0
  let b ← roleOf .ra r.b 1
  stepOk (r.lo.extractLsb' 0 4) 0 d.isView
  stepOk (r.lo.extractLsb' 0 4) 1 b.isView
  pure (.vlog2 r.guard (r.var.extractLsb' 0 2) d b { mneg := r.lo.extractLsb' 10 1, mv := r.lo.extractLsb' 5 5, men := r.lo.extractLsb' 4 1, st := r.lo.extractLsb' 0 4 })

/-- VCVT (R272): the fields of its word. -/
def decVcvt (r : Raw) : Except DErr Instr := do
  need (r.var.toNat < 4) 2
  need (r.c == 0) 1
  need (r.lo.extractLsb' 16 8 == 0) 1
  need (r.lo.extractLsb' 14 2 == 0) 1
  need (!r.lo.getLsbD 2) 1 
  need (!r.lo.getLsbD 3) 1 
  let d ← roleOf .vd r.a 0
  let b ← roleOf .r r.b 1
  stepOk (r.lo.extractLsb' 0 4) 0 d.isView
  stepOk (r.lo.extractLsb' 0 4) 1 b.isView
  pure (.vcvt r.guard (r.var.extractLsb' 0 2) d b (r.lo.extractLsb' 11 3) { mneg := r.lo.extractLsb' 10 1, mv := r.lo.extractLsb' 5 5, men := r.lo.extractLsb' 4 1, st := r.lo.extractLsb' 0 4 })

/-- VPACK (R274): the fields of its word. -/
def decVpack (r : Raw) : Except DErr Instr := do
  need (r.var.toNat < 4) 2
  need (r.c == 0) 1
  need (r.lo.extractLsb' 16 8 == 0) 1
  need (r.lo.extractLsb' 14 2 == 0) 1
  need (!r.lo.getLsbD 2) 1 
  need (!r.lo.getLsbD 3) 1 
  let d ← roleOf .vd r.a 0
  let b ← roleOf .r r.b 1
  stepOk (r.lo.extractLsb' 0 4) 0 d.isView
  stepOk (r.lo.extractLsb' 0 4) 1 b.isView
  pure (.vpack r.guard (r.var.extractLsb' 0 2) d b (r.lo.extractLsb' 11 3) { mneg := r.lo.extractLsb' 10 1, mv := r.lo.extractLsb' 5 5, men := r.lo.extractLsb' 4 1, st := r.lo.extractLsb' 0 4 })

/-- VSUM (R275): the fields of its word. -/
def decVsum (r : Raw) : Except DErr Instr := do
  need (r.var.toNat < 4) 2
  need (r.c == 0) 1
  need (r.lo.extractLsb' 16 8 == 0) 1
  need (r.lo.extractLsb' 11 5 == 0) 1
  need (!r.lo.getLsbD 2) 1 
  need (!r.lo.getLsbD 3) 1 
  let d ← roleOf .vd r.a 0
  let b ← roleOf .r r.b 1
  stepOk (r.lo.extractLsb' 0 4) 0 d.isView
  stepOk (r.lo.extractLsb' 0 4) 1 b.isView
  pure (.vsum r.guard (r.var.extractLsb' 0 2) d b { mneg := r.lo.extractLsb' 10 1, mv := r.lo.extractLsb' 5 5, men := r.lo.extractLsb' 4 1, st := r.lo.extractLsb' 0 4 })

/-- VMAXR (R275): the fields of its word. -/
def decVmaxr (r : Raw) : Except DErr Instr := do
  need (r.var == 0) 2
  need (r.c == 0) 1
  need (r.lo.extractLsb' 16 8 == 0) 1
  need (r.lo.extractLsb' 11 5 == 0) 1
  need (!r.lo.getLsbD 2) 1 
  need (!r.lo.getLsbD 3) 1 
  let d ← roleOf .vd r.a 0
  let b ← roleOf .r r.b 1
  stepOk (r.lo.extractLsb' 0 4) 0 d.isView
  stepOk (r.lo.extractLsb' 0 4) 1 b.isView
  pure (.vmaxr r.guard d b { mneg := r.lo.extractLsb' 10 1, mv := r.lo.extractLsb' 5 5, men := r.lo.extractLsb' 4 1, st := r.lo.extractLsb' 0 4 })

/-- VCMP (R276): the fields of its word. -/
def decVcmp (r : Raw) : Except DErr Instr := do
  need (r.var.toNat ≤ 5) 2
  need (r.lo.extractLsb' 16 8 == 0) 1
  need (r.lo.extractLsb' 11 5 == 0) 1
  need (!r.lo.getLsbD 3) 1 
  let d ← roleOf .vd r.a 0
  let b ← roleOf .r r.b 1
  let c ← roleOf .ra r.c 2
  stepOk (r.lo.extractLsb' 0 4) 0 d.isView
  stepOk (r.lo.extractLsb' 0 4) 1 b.isView
  stepOk (r.lo.extractLsb' 0 4) 2 c.isView
  pure (.vcmp r.guard r.var d b c { mneg := r.lo.extractLsb' 10 1, mv := r.lo.extractLsb' 5 5, men := r.lo.extractLsb' 4 1, st := r.lo.extractLsb' 0 4 })

/-- VSEL (R277): the fields of its word. -/
def decVsel (r : Raw) : Except DErr Instr := do
  need (r.var == 0) 2
  need (r.lo.extractLsb' 11 5 == 0) 1
  let d ← roleOf .vd r.a 0
  let q ← viewOf r.b 1
  let c ← roleOf .ra r.c 2
  let e ← roleOf .ra (r.lo.extractLsb' 16 8) 3
  stepOk (r.lo.extractLsb' 0 4) 0 d.isView
  stepOk (r.lo.extractLsb' 0 4) 1 true
  stepOk (r.lo.extractLsb' 0 4) 2 c.isView
  stepOk (r.lo.extractLsb' 0 4) 3 e.isView
  pure (.vsel r.guard d q c e { mneg := r.lo.extractLsb' 10 1, mv := r.lo.extractLsb' 5 5, men := r.lo.extractLsb' 4 1, st := r.lo.extractLsb' 0 4 })

/-- VANY_ANY (R278): the fields of its word. -/
def decVanyAny (r : Raw) : Except DErr Instr := do
  need (r.var == 0) 2
  need (r.c == 0) 1
  need (r.lo.extractLsb' 16 8 == 0) 1
  need (r.lo.extractLsb' 13 3 == 0) 1
  need (!r.lo.getLsbD 2) 1 
  need (!r.lo.getLsbD 3) 1 
  need (r.a == 0x59) 3 0
  let b ← roleOf .r r.b 1
  stepOk (r.lo.extractLsb' 0 4) 0 false
  stepOk (r.lo.extractLsb' 0 4) 1 b.isView
  pure (.vanyAny r.guard b { mneg := r.lo.extractLsb' 10 1, mv := r.lo.extractLsb' 5 5, men := r.lo.extractLsb' 4 1, st := r.lo.extractLsb' 0 4 })

/-- VANY_ALL (R278): the fields of its word. -/
def decVanyAll (r : Raw) : Except DErr Instr := do
  need (r.var == 0) 2
  need (r.c == 0) 1
  need (r.lo.extractLsb' 16 8 == 0) 1
  need (r.lo.extractLsb' 13 3 == 0) 1
  need (!r.lo.getLsbD 2) 1 
  need (!r.lo.getLsbD 3) 1 
  need (r.a == 0x59) 3 0
  let b ← roleOf .r r.b 1
  stepOk (r.lo.extractLsb' 0 4) 0 false
  stepOk (r.lo.extractLsb' 0 4) 1 b.isView
  pure (.vanyAll r.guard b { mneg := r.lo.extractLsb' 10 1, mv := r.lo.extractLsb' 5 5, men := r.lo.extractLsb' 4 1, st := r.lo.extractLsb' 0 4 })

/-- VANY_UNI (R278): the fields of its word. -/
def decVanyUni (r : Raw) : Except DErr Instr := do
  need (r.var == 0) 2
  need (r.c == 0) 1
  need (r.lo.extractLsb' 16 8 == 0) 1
  need (r.lo.extractLsb' 13 3 == 0) 1
  need (!r.lo.getLsbD 2) 1 
  need (!r.lo.getLsbD 3) 1 
  need (r.a == 0x59) 3 0
  let b ← roleOf .r r.b 1
  stepOk (r.lo.extractLsb' 0 4) 0 false
  stepOk (r.lo.extractLsb' 0 4) 1 b.isView
  pure (.vanyUni r.guard b { mneg := r.lo.extractLsb' 10 1, mv := r.lo.extractLsb' 5 5, men := r.lo.extractLsb' 4 1, st := r.lo.extractLsb' 11 1 ++ r.lo.extractLsb' 0 3 })

/-- VBCAST (R279): the fields of its word. -/
def decVbcast (r : Raw) : Except DErr Instr := do
  need (r.var == 0) 2
  need (r.lo.extractLsb' 16 8 == 0) 1
  need (r.lo.extractLsb' 11 5 == 0) 1
  need (!r.lo.getLsbD 3) 1 
  let d ← roleOf .vd r.a 0
  let b ← roleOf .r r.b 1
  let k ← roleOf .k r.c 2
  stepOk (r.lo.extractLsb' 0 4) 0 d.isView
  stepOk (r.lo.extractLsb' 0 4) 1 b.isView
  stepOk (r.lo.extractLsb' 0 4) 2 k.isView
  pure (.vbcast r.guard d b k { mneg := r.lo.extractLsb' 10 1, mv := r.lo.extractLsb' 5 5, men := r.lo.extractLsb' 4 1, st := r.lo.extractLsb' 0 4 })

/-- VIOTA (R279): the fields of its word. -/
def decViota (r : Raw) : Except DErr Instr := do
  need (r.var == 0) 2
  need (r.lo.extractLsb' 16 8 == 0) 1
  need (r.lo.extractLsb' 11 5 == 0) 1
  need (!r.lo.getLsbD 3) 1 
  let d ← roleOf .vd r.a 0
  let b ← roleOf .k r.b 1
  let c ← roleOf .k r.c 2
  stepOk (r.lo.extractLsb' 0 4) 0 d.isView
  stepOk (r.lo.extractLsb' 0 4) 1 b.isView
  stepOk (r.lo.extractLsb' 0 4) 2 c.isView
  pure (.viota r.guard d b c { mneg := r.lo.extractLsb' 10 1, mv := r.lo.extractLsb' 5 5, men := r.lo.extractLsb' 4 1, st := r.lo.extractLsb' 0 4 })

/-- VCLASS (R279): the fields of its word. -/
def decVclass (r : Raw) : Except DErr Instr := do
  need (r.var == 0) 2
  need (r.c == 0) 1
  need (r.lo.extractLsb' 16 8 == 0) 1
  need (r.lo.extractLsb' 11 5 == 0) 1
  need (!r.lo.getLsbD 2) 1 
  need (!r.lo.getLsbD 3) 1 
  let d ← roleOf .vd r.a 0
  let b ← roleOf .r r.b 1
  stepOk (r.lo.extractLsb' 0 4) 0 d.isView
  stepOk (r.lo.extractLsb' 0 4) 1 b.isView
  pure (.vclass r.guard d b { mneg := r.lo.extractLsb' 10 1, mv := r.lo.extractLsb' 5 5, men := r.lo.extractLsb' 4 1, st := r.lo.extractLsb' 0 4 })

/-- The V-slot map (R189). -/
def decVSlot (r : Raw) : Except DErr Instr :=
  match r.op.toNat with
  | 0x00 => decVadd r
  | 0x01 => decVsub r
  | 0x02 => decVmul r
  | 0x03 => decVfma r
  | 0x04 => decVfms r
  | 0x05 => decVmin r
  | 0x06 => decVmax r
  | 0x07 => decVdiv r
  | 0x08 => decVabs r
  | 0x09 => decVneg r
  | 0x0a => decVrcp r
  | 0x0b => decVsqrt r
  | 0x0c => decVrsqrt r
  | 0x0d => decVexp2 r
  | 0x0e => decVlog2 r
  | 0x10 => decVcvt r
  | 0x11 => decVpack r
  | 0x18 => decVsum r
  | 0x19 => decVmaxr r
  | 0x20 => decVcmp r
  | 0x21 => decVsel r
  | 0x22 =>
    if r.lo.extractLsb' 11 2 = 0 then decVanyAny r else
    if r.lo.extractLsb' 11 2 = 1 then decVanyAll r else
    decVanyUni r
  | 0x28 => decVand r
  | 0x29 => decVor r
  | 0x2a => decVxor r
  | 0x2b => decVnot r
  | 0x2c => decVshl r
  | 0x2d => decVshr r
  | 0x2e => decVsra r
  | 0x30 => decVmov r
  | 0x31 => decVbcast r
  | 0x32 => decViota r
  | 0x33 => decVclass r
  | _ => .error { cause := 2, info := 0 }

/-- XPERM (R282): the fields of its word. -/
def decXperm (r : Raw) : Except DErr Instr := do
  need (r.c == 0) 1
  need (r.lo.extractLsb' 4 20 == 0) 1
  need (!r.lo.getLsbD 2) 1 
  need (!r.lo.getLsbD 3) 1 
  let d ← roleOf .xd r.a 0
  let b ← roleOf .r r.b 1
  stepOk (r.lo.extractLsb' 0 4) 0 d.isView
  stepOk (r.lo.extractLsb' 0 4) 1 b.isView
  pure (.xperm r.guard r.var d b (r.lo.extractLsb' 0 4))

/-- XROT (R283): the fields of its word. -/
def decXrot (r : Raw) : Except DErr Instr := do
  need (r.var == 0) 2
  need (r.lo.extractLsb' 5 19 == 0) 1
  need (!r.lo.getLsbD 3) 1 
  let d ← roleOf .xd r.a 0
  let k ← roleOf .n r.b 1
  let b ← roleOf .r r.c 2
  stepOk (r.lo.extractLsb' 0 4) 0 d.isView
  stepOk (r.lo.extractLsb' 0 4) 1 k.isView
  stepOk (r.lo.extractLsb' 0 4) 2 b.isView
  pure (.xrot r.guard d k b (r.lo.extractLsb' 0 4))

/-- XROT_C (R283): the fields of its word. -/
def decXrotC (r : Raw) : Except DErr Instr := do
  need (r.var == 0) 2
  need (r.lo.extractLsb' 5 19 == 0) 1
  need (!r.lo.getLsbD 3) 1 
  let d ← roleOf .xd r.a 0
  let k ← roleOf .n r.b 1
  let b ← roleOf .r r.c 2
  stepOk (r.lo.extractLsb' 0 4) 0 d.isView
  stepOk (r.lo.extractLsb' 0 4) 1 k.isView
  stepOk (r.lo.extractLsb' 0 4) 2 b.isView
  pure (.xrotC r.guard d k b (r.lo.extractLsb' 0 4))

/-- XTRN (R284): the fields of its word. -/
def decXtrn (r : Raw) : Except DErr Instr := do
  need (r.var == 0) 2
  need (r.c == 0) 1
  need (r.lo.extractLsb' 4 20 == 0) 1
  need (!r.lo.getLsbD 2) 1 
  need (!r.lo.getLsbD 3) 1 
  let d ← roleOf .xd r.a 0
  let b ← roleOf .r r.b 1
  stepOk (r.lo.extractLsb' 0 4) 0 d.isView
  stepOk (r.lo.extractLsb' 0 4) 1 b.isView
  pure (.xtrn r.guard d b (r.lo.extractLsb' 0 4))

/-- XBCAST (R284): the fields of its word. -/
def decXbcast (r : Raw) : Except DErr Instr := do
  need (r.var == 0) 2
  need (r.lo.extractLsb' 4 20 == 0) 1
  need (!r.lo.getLsbD 3) 1 
  let d ← roleOf .xd r.a 0
  let b ← roleOf .r r.b 1
  let k ← roleOf .n r.c 2
  stepOk (r.lo.extractLsb' 0 4) 0 d.isView
  stepOk (r.lo.extractLsb' 0 4) 1 b.isView
  stepOk (r.lo.extractLsb' 0 4) 2 k.isView
  pure (.xbcast r.guard d b k (r.lo.extractLsb' 0 4))

/-- XZIP (R284): the fields of its word. -/
def decXzip (r : Raw) : Except DErr Instr := do
  need (r.var == 0) 2
  need (r.lo.extractLsb' 4 20 == 0) 1
  need (!r.lo.getLsbD 3) 1 
  let d ← roleOf .xd r.a 0
  let b ← roleOf .r r.b 1
  let c ← roleOf .r r.c 2
  stepOk (r.lo.extractLsb' 0 4) 0 d.isView
  stepOk (r.lo.extractLsb' 0 4) 1 b.isView
  stepOk (r.lo.extractLsb' 0 4) 2 c.isView
  pure (.xzip r.guard d b c (r.lo.extractLsb' 0 4))

/-- XUNZIP (R284): the fields of its word. -/
def decXunzip (r : Raw) : Except DErr Instr := do
  need (r.var == 0) 2
  need (r.lo.extractLsb' 4 20 == 0) 1
  need (!r.lo.getLsbD 3) 1 
  let d ← roleOf .xd r.a 0
  let b ← roleOf .r r.b 1
  let k ← roleOf .i r.c 2
  stepOk (r.lo.extractLsb' 0 4) 0 d.isView
  stepOk (r.lo.extractLsb' 0 4) 1 b.isView
  stepOk (r.lo.extractLsb' 0 4) 2 k.isView
  pure (.xunzip r.guard d b k (r.lo.extractLsb' 0 4))

/-- XCMPR (R284): the fields of its word. -/
def decXcmpr (r : Raw) : Except DErr Instr := do
  need (r.var == 0) 2
  need (r.lo.extractLsb' 4 20 == 0) 1
  need (!r.lo.getLsbD 3) 1 
  let d ← roleOf .xd r.a 0
  let b ← roleOf .r r.b 1
  let q ← viewOf r.c 2
  stepOk (r.lo.extractLsb' 0 4) 0 d.isView
  stepOk (r.lo.extractLsb' 0 4) 1 b.isView
  stepOk (r.lo.extractLsb' 0 4) 2 true
  pure (.xcmpr r.guard d b q (r.lo.extractLsb' 0 4))

/-- The X-slot map (R190). -/
def decXSlot (r : Raw) : Except DErr Instr :=
  match r.op.toNat with
  | 0x00 => decXperm r
  | 0x01 =>
    if r.lo.extractLsb' 4 1 = 0 then decXrot r else decXrotC r
  | 0x02 => decXtrn r
  | 0x03 => decXbcast r
  | 0x04 => decXzip r
  | 0x05 => decXunzip r
  | 0x06 => decXcmpr r
  | _ => .error { cause := 2, info := 0 }

/-- HNOP (R289): the fields of its word. -/
def decHnop (r : Raw) : Except DErr Instr := do
  need (r.var == 0) 2
  need (r.a == 0) 1
  need (r.b == 0) 1
  need (r.c == 0) 1
  need (r.lo.extractLsb' 0 24 == 0) 1
  pure (.hnop r.guard)

/-- HMMA (R287): the fields of its word. -/
def decHmma (r : Raw) : Except DErr Instr := do
  need (r.var.toNat < 4) 2
  need (r.lo.extractLsb' 8 16 == 0) 1
  need (!r.lo.getLsbD 3) 1 
  let a ← roleOf .h r.a 0
  let b ← viewOf r.b 1
  let c ← viewOf r.c 2
  stepOk (r.lo.extractLsb' 0 4) 0 a.isView
  stepOk (r.lo.extractLsb' 0 4) 1 true
  stepOk (r.lo.extractLsb' 0 4) 2 true
  pure (.hmma r.guard (r.var.extractLsb' 0 2) a b c (r.lo.extractLsb' 7 1) (r.lo.extractLsb' 4 3) (r.lo.extractLsb' 0 4))

/-- HMMN (R287): the fields of its word. -/
def decHmmn (r : Raw) : Except DErr Instr := do
  need (r.var.toNat < 3) 2
  need (r.lo.extractLsb' 8 16 == 0) 1
  need (!r.lo.getLsbD 3) 1 
  let a ← roleOf .h r.a 0
  let b ← viewOf r.b 1
  let c ← viewOf r.c 2
  stepOk (r.lo.extractLsb' 0 4) 0 a.isView
  stepOk (r.lo.extractLsb' 0 4) 1 true
  stepOk (r.lo.extractLsb' 0 4) 2 true
  pure (.hmmn r.guard (r.var.extractLsb' 0 2) a b c (r.lo.extractLsb' 7 1) (r.lo.extractLsb' 4 3) (r.lo.extractLsb' 0 4))

/-- HGAT (R290): the fields of its word. -/
def decHgat (r : Raw) : Except DErr Instr := do
  need (r.var == 0) 2
  need (r.b == 0) 1
  need (r.c == 0) 1
  need (r.lo.extractLsb' 16 8 == 0) 1
  need (!r.lo.getLsbD 1) 1 
  need (!r.lo.getLsbD 2) 1 
  need (!r.lo.getLsbD 3) 1 
  let v ← viewOf r.a 0
  stepOk (r.lo.extractLsb' 0 4) 0 true
  need (scopeOk (r.lo.extractLsb' 13 3) || r.lo.extractLsb' 12 1 == 0) 3 10
  need (scopeOk (r.lo.extractLsb' 9 3) || r.lo.extractLsb' 8 1 == 0) 3 10
  pure (.hgat r.guard v (r.lo.extractLsb' 13 3) (r.lo.extractLsb' 12 1) (r.lo.extractLsb' 9 3) (r.lo.extractLsb' 8 1) (r.lo.extractLsb' 4 4) (r.lo.extractLsb' 0 4))

/-- The H-slot map (R191). -/
def decHSlot (r : Raw) : Except DErr Instr :=
  match r.op.toNat with
  | 0x00 => decHnop r
  | 0x01 => decHmma r
  | 0x02 => decHmmn r
  | 0x03 => decHgat r
  | _ => .error { cause := 2, info := 0 }

/-- CALL (R83): the fields of its word. -/
def decCall (r : Raw) : Except DErr Instr := do
  need (r.var == 0) 2
  need (r.c == 0) 1
  need (r.lo.extractLsb' 0 24 == 0) 1
  let d ← gregOf r.a 0
  let v ← viewOf r.b 1
  pure (.call r.guard d v)

/-- CALL_GANG (R96): the fields of its word. -/
def decCallGang (r : Raw) : Except DErr Instr := do
  need (r.var == 0) 2
  need (r.lo.extractLsb' 0 24 == 0) 1
  let d ← gregOf r.a 0
  let v ← viewOf r.b 1
  let n ← roleOf .k r.c 2
  pure (.callGang r.guard d v n)

/-- JOIN (R252): the fields of its word. -/
def decJoin (r : Raw) : Except DErr Instr := do
  need (r.var == 0) 2
  need (r.c == 0) 1
  need (r.lo.extractLsb' 0 24 == 0) 1
  let d ← roleOf .e r.a 0
  let h ← roleOf .k r.b 1
  pure (.join r.guard d h)

/-- SPAWN (R253): the fields of its word. -/
def decSpawn (r : Raw) : Except DErr Instr := do
  need (r.var == 0) 2
  need (r.c == 0) 1
  need (r.lo.extractLsb' 0 24 == 0) 1
  let d ← gregOf r.a 0
  let v ← viewOf r.b 1
  pure (.spawn r.guard d v)

/-- CPY (R255): the fields of its word. -/
def decCpy (r : Raw) : Except DErr Instr := do
  need (r.var == 0) 2
  need (r.b == 0) 1
  need (r.c == 0) 1
  need (r.lo.extractLsb' 8 16 == 0) 1
  let v ← viewOf r.a 0
  let fl : EFlags := { rsc := r.lo.extractLsb' 5 3, rel := r.lo.extractLsb' 4 1, asc := r.lo.extractLsb' 1 3, acq := r.lo.extractLsb' 0 1 }
  need fl.wf 3 10
  pure (.cpy r.guard v fl)

/-- CPYG (R256): the fields of its word. -/
def decCpyg (r : Raw) : Except DErr Instr := do
  need (r.var == 0) 2
  need (r.c == 0) 1
  need (r.lo.extractLsb' 8 16 == 0) 1
  let v ← viewOf r.a 0
  let x ← viewOf r.b 1
  let fl : EFlags := { rsc := r.lo.extractLsb' 5 3, rel := r.lo.extractLsb' 4 1, asc := r.lo.extractLsb' 1 3, acq := r.lo.extractLsb' 0 1 }
  need fl.wf 3 10
  pure (.cpyg r.guard v x fl)

/-- CPYR (R257): the fields of its word. -/
def decCpyr (r : Raw) : Except DErr Instr := do
  need (r.var == 0) 2
  need (r.b == 0) 1
  need (r.c == 0) 1
  need (r.lo.extractLsb' 8 16 == 0) 1
  let v ← viewOf r.a 0
  let fl : EFlags := { rsc := r.lo.extractLsb' 5 3, rel := r.lo.extractLsb' 4 1, asc := r.lo.extractLsb' 1 3, acq := r.lo.extractLsb' 0 1 }
  need fl.wf 3 10
  pure (.cpyr r.guard v fl)

/-- FILL (R256): the fields of its word. -/
def decFill (r : Raw) : Except DErr Instr := do
  need (r.var == 0) 2
  need (r.c == 0) 1
  need (r.lo.extractLsb' 8 16 == 0) 1
  let v ← viewOf r.a 0
  let b ← roleOf .k r.b 1
  let fl : EFlags := { rsc := r.lo.extractLsb' 5 3, rel := r.lo.extractLsb' 4 1, asc := r.lo.extractLsb' 1 3, acq := r.lo.extractLsb' 0 1 }
  need fl.wf 3 10
  pure (.fill r.guard v b fl)

/-- COLL_ALLREDUCE (R258): the fields of its word. -/
def decCollAllreduce (r : Raw) : Except DErr Instr := do
  need (r.b == 0) 1
  need (r.c == 0) 1
  need (r.lo.extractLsb' 8 16 == 0) 1
  let v ← viewOf r.a 0
  let fl : EFlags := { rsc := r.lo.extractLsb' 5 3, rel := r.lo.extractLsb' 4 1, asc := r.lo.extractLsb' 1 3, acq := r.lo.extractLsb' 0 1 }
  need fl.wf 3 10
  pure (.collAllreduce r.guard v fl)

/-- COLL_ALLGATHER (R258): the fields of its word. -/
def decCollAllgather (r : Raw) : Except DErr Instr := do
  need (r.b == 0) 1
  need (r.c == 0) 1
  need (r.lo.extractLsb' 8 16 == 0) 1
  let v ← viewOf r.a 0
  let fl : EFlags := { rsc := r.lo.extractLsb' 5 3, rel := r.lo.extractLsb' 4 1, asc := r.lo.extractLsb' 1 3, acq := r.lo.extractLsb' 0 1 }
  need fl.wf 3 10
  pure (.collAllgather r.guard v fl)

/-- COLL_REDUCESCATTER (R258): the fields of its word. -/
def decCollReducescatter (r : Raw) : Except DErr Instr := do
  need (r.b == 0) 1
  need (r.c == 0) 1
  need (r.lo.extractLsb' 8 16 == 0) 1
  let v ← viewOf r.a 0
  let fl : EFlags := { rsc := r.lo.extractLsb' 5 3, rel := r.lo.extractLsb' 4 1, asc := r.lo.extractLsb' 1 3, acq := r.lo.extractLsb' 0 1 }
  need fl.wf 3 10
  pure (.collReducescatter r.guard v fl)

/-- COLL_ALLTOALL (R258): the fields of its word. -/
def decCollAlltoall (r : Raw) : Except DErr Instr := do
  need (r.b == 0) 1
  need (r.c == 0) 1
  need (r.lo.extractLsb' 8 16 == 0) 1
  let v ← viewOf r.a 0
  let fl : EFlags := { rsc := r.lo.extractLsb' 5 3, rel := r.lo.extractLsb' 4 1, asc := r.lo.extractLsb' 1 3, acq := r.lo.extractLsb' 0 1 }
  need fl.wf 3 10
  pure (.collAlltoall r.guard v fl)

/-- PLACE_Q (R261): the fields of its word. -/
def decPlaceQ (r : Raw) : Except DErr Instr := do
  need (r.b == 0) 1
  need (r.c == 0) 1
  need (r.lo.extractLsb' 4 20 == 0) 1
  let d ← gregOf r.a 0
  pure (.placeQ r.guard d (r.lo.extractLsb' 0 4))

/-- PLACE_D (R109): the fields of its word. -/
def decPlaceD (r : Raw) : Except DErr Instr := do
  need (r.b == 0) 1
  need (r.c == 0) 1
  need (r.lo.extractLsb' 4 20 == 0) 1
  let a ← roleOf .k r.a 0
  pure (.placeD r.guard a (r.lo.extractLsb' 0 4))

/-- CKPT (R262): the fields of its word. -/
def decCkpt (r : Raw) : Except DErr Instr := do
  need (r.var == 0) 2
  need (r.c == 0) 1
  need (r.lo.extractLsb' 0 24 == 0) 1
  let d ← gregOf r.a 0
  let t ← roleOf .k r.b 1
  pure (.ckpt r.guard d t)

/-- TLAUNCH (R263): the fields of its word. -/
def decTlaunch (r : Raw) : Except DErr Instr := do
  need (r.var == 0) 2
  need (r.lo.extractLsb' 0 24 == 0) 1
  let d ← gregOf r.a 0
  let v ← viewOf r.b 1
  let t ← roleOf .k r.c 2
  pure (.tlaunch r.guard d v t)

/-- TPRE (R264): the fields of its word. -/
def decTpre (r : Raw) : Except DErr Instr := do
  need (r.var == 0) 2
  need (r.a == 0) 1
  need (r.c == 0) 1
  need (r.lo.extractLsb' 0 24 == 0) 1
  let t ← roleOf .k r.b 1
  pure (.tpre r.guard t)

/-- The T-slot map (R188). -/
def decTSlot (r : Raw) : Except DErr Instr :=
  match r.op.toNat with
  | 0x00 => decCall r
  | 0x01 => decCallGang r
  | 0x02 => decJoin r
  | 0x03 => decSpawn r
  | 0x08 => decCpy r
  | 0x09 => decCpyg r
  | 0x0a => decCpyr r
  | 0x0b => decFill r
  | 0x10 =>
    if r.var = 0 then decCollAllreduce r else
    if r.var = 1 then decCollAllgather r else
    if r.var = 2 then decCollReducescatter r else
    if r.var = 3 then decCollAlltoall r else
    .error { cause := 2, info := 0 }
  | 0x18 =>
    if r.var = 0 then decPlaceQ r else
    if r.var = 1 then decPlaceD r else
    .error { cause := 2, info := 0 }
  | 0x19 => decCkpt r
  | 0x1c => decTlaunch r
  | 0x1d => decTpre r
  | _ => .error { cause := 2, info := 0 }

/-- The fields of a word from its parts (R170). -/
def rawOf (op : BitVec 8) (g : Guard) (var : BitVec 3) (a b c : BitVec 8) (lo : BitVec 24) : Raw :=
  { op := op, p := g.p, n := g.n, var := var, a := a, b := b, c := c, lo := lo }

/-- The bits of the mask and step fields (R266). -/
def VMask.bits (m : VMask) : BitVec 11 := m.mneg ++ m.mv ++ m.men ++ m.st

/-- The bits of the engine flags (R250). -/
def EFlags.bits (f : EFlags) : BitVec 8 := f.rsc ++ f.rel ++ f.asc ++ f.acq

/-- The slot and the word fields of a slot operation, from the encoding tables of R185 to R191. -/
def Instr.raw : Instr → Option (Slot × Raw)
  | .nopB g => some (.b, rawOf 0x00#8 g 0#3 0#8 0#8 0#8 (0#24))
  | .brT g off => some (.b, rawOf 0x01#8 g 0#3 0#8 0#8 0#8 (off))
  | .brF g off => some (.b, rawOf 0x02#8 g 0#3 0#8 0#8 0#8 (off))
  | .jmp g off => some (.b, rawOf 0x03#8 g 0#3 0#8 0#8 0#8 (off))
  | .jmpi g b => some (.b, rawOf 0x04#8 g 0#3 0#8 b.code 0#8 (0#24))
  | .bsr g off => some (.b, rawOf 0x05#8 g 0#3 0#8 0#8 0#8 (off))
  | .ret g => some (.b, rawOf 0x06#8 g 0#3 0#8 0#8 0#8 (0#24))
  | .loop g lvl n imm => some (.b, rawOf 0x08#8 g (0#1 ++ lvl) n.code 0#8 0#8 (imm))
  | .loopRot g lvl n s imm => some (.b, rawOf 0x09#8 g (0#1 ++ lvl) n.code s.code 0#8 (imm))
  | .wait g imm => some (.b, rawOf 0x10#8 g 0#3 0#8 0#8 0#8 (imm))
  | .evwait g d => some (.b, rawOf 0x11#8 g 0#3 d.code 0#8 0#8 (0#24))
  | .bar g id => some (.b, rawOf 0x12#8 g 0#3 0#8 0#8 0#8 (0#20 ++ id))
  | .yieldB g => some (.b, rawOf 0x13#8 g 0#3 0#8 0#8 0#8 (0#24))
  | .done g => some (.b, rawOf 0x14#8 g 0#3 0#8 0#8 0#8 (0#24))
  | .trap g code => some (.b, rawOf 0x18#8 g 0#3 0#8 0#8 0#8 (code))
  | .eret g => some (.b, rawOf 0x19#8 g 0#3 0#8 0#8 0#8 (0#24))
  | .brk g code => some (.b, rawOf 0x1a#8 g 0#3 0#8 0#8 0#8 (code))
  | .cqclr g => some (.b, rawOf 0x1c#8 g 0#3 0#8 0#8 0#8 (0#24))
  | .add g d b c => some (.s, rawOf 0x00#8 g 0#3 d.code b.code c.code (0#20 ++ 0#4))
  | .sub g d b c => some (.s, rawOf 0x01#8 g 0#3 d.code b.code c.code (0#20 ++ 0#4))
  | .mul g d b c => some (.s, rawOf 0x02#8 g 0#3 d.code b.code c.code (0#20 ++ 0#4))
  | .mulh g nat d b c => some (.s, rawOf 0x03#8 g (0#2 ++ nat) d.code b.code c.code (0#20 ++ 0#4))
  | .divs g d b c => some (.s, rawOf 0x04#8 g 0#3 d.code b.code c.code (0#19 ++ 0#1 ++ 0#4))
  | .rems g d b c => some (.s, rawOf 0x04#8 g 0#3 d.code b.code c.code (0#19 ++ 1#1 ++ 0#4))
  | .divn g d b c => some (.s, rawOf 0x05#8 g 0#3 d.code b.code c.code (0#19 ++ 0#1 ++ 0#4))
  | .remn g d b c => some (.s, rawOf 0x05#8 g 0#3 d.code b.code c.code (0#19 ++ 1#1 ++ 0#4))
  | .andS g d b c => some (.s, rawOf 0x08#8 g 0#3 d.code b.code c.code (0#20 ++ 0#4))
  | .orS g d b c => some (.s, rawOf 0x09#8 g 0#3 d.code b.code c.code (0#20 ++ 0#4))
  | .xorS g d b c => some (.s, rawOf 0x0a#8 g 0#3 d.code b.code c.code (0#20 ++ 0#4))
  | .shl g d b c => some (.s, rawOf 0x0c#8 g 0#3 d.code b.code c.code (0#20 ++ 0#4))
  | .shr g d b c => some (.s, rawOf 0x0d#8 g 0#3 d.code b.code c.code (0#20 ++ 0#4))
  | .sra g d b c => some (.s, rawOf 0x0e#8 g 0#3 d.code b.code c.code (0#20 ++ 0#4))
  | .min g d b c => some (.s, rawOf 0x10#8 g 0#3 d.code b.code c.code (0#20 ++ 0#4))
  | .max g d b c => some (.s, rawOf 0x11#8 g 0#3 d.code b.code c.code (0#20 ++ 0#4))
  | .minn g d b c => some (.s, rawOf 0x12#8 g 0#3 d.code b.code c.code (0#20 ++ 0#4))
  | .maxn g d b c => some (.s, rawOf 0x13#8 g 0#3 d.code b.code c.code (0#20 ++ 0#4))
  | .clz g d b => some (.s, rawOf 0x14#8 g 0#3 d.code b.code 0#8 (0#20 ++ 0#4))
  | .popc g d b => some (.s, rawOf 0x15#8 g 0#3 d.code b.code 0#8 (0#20 ++ 0#4))
  | .li g d imm => some (.s, rawOf 0x18#8 g 0#3 d.code 0#8 0#8 (imm))
  | .lihM g d imm => some (.s, rawOf 0x19#8 g 0#3 (0#3 ++ d) 0#8 0#8 (imm))
  | .lihH g d imm => some (.s, rawOf 0x19#8 g 1#3 (0#3 ++ d) 0#8 0#8 (0#8 ++ imm))
  | .mov g d b => some (.s, rawOf 0x1a#8 g 0#3 d.code b.code 0#8 (0#20 ++ 0#4))
  | .sel g d b c neg p => some (.s, rawOf 0x1b#8 g 0#3 d.code b.code c.code (0#8 ++ 0#7 ++ neg ++ p ++ 0#4))
  | .cmp g cc (.val d) b c => some (.s, rawOf 0x20#8 g cc d.code b.code c.code 0#24)
  | .cmp g cc (.pred n) b c => some (.s, rawOf 0x20#8 g cc 0#8 b.code c.code (0#8 ++ 0#4 ++ n ++ 0#3 ++ 1#1 ++ 0#4))
  | .setp g neg p (.val o) c => some (.s, rawOf 0x21#8 g 0#3 0#8 o.code c.code (0#8 ++ 0#1 ++ 0#6 ++ neg ++ p ++ 0#4))
  | .setp g neg p (.ts k) c => some (.s, rawOf 0x21#8 g 0#3 0#8 (0#5 ++ k) c.code (0#8 ++ 1#1 ++ 0#6 ++ neg ++ p ++ 0#4))
  | .pand g pb pa pd => some (.s, rawOf 0x22#8 g 0#3 0#8 0#8 0#8 (0#8 ++ pb ++ pa ++ pd ++ 0#4))
  | .por g pb pa pd => some (.s, rawOf 0x23#8 g 0#3 0#8 0#8 0#8 (0#8 ++ pb ++ pa ++ pd ++ 0#4))
  | .pxor g pb pa pd => some (.s, rawOf 0x24#8 g 0#3 0#8 0#8 0#8 (0#8 ++ pb ++ pa ++ pd ++ 0#4))
  | .pnot g pa pd => some (.s, rawOf 0x25#8 g 0#3 0#8 0#8 0#8 (0#8 ++ 0#4 ++ pa ++ pd ++ 0#4))
  | .agset g port v => some (.s, rawOf 0x30#8 g 0#3 port.code (1#3 ++ v) 0#8 (0#24))
  | .agpos g d port => some (.s, rawOf 0x31#8 g 0#3 d.code port.code 0#8 (0#24))
  | .view g v b => some (.s, rawOf 0x32#8 g 0#3 (1#3 ++ v) b.code 0#8 (0#24))
  | .shape g mz tz d rows cols fmt => some (.s, rawOf 0x33#8 g (0#1 ++ mz ++ tz) d.code rows.code cols.code (0#15 ++ fmt ++ 0#4))
  | .bxinfo g d c bx what => some (.s, rawOf 0x34#8 g 0#3 d.code 0#8 (0#3 ++ c) (0#8 ++ bx ++ 0#2 ++ what ++ 0#4))
  | .sget g d num => some (.s, rawOf 0x35#8 g 0#3 d.code 0#8 0#8 (0#8 ++ num ++ 0#4))
  | .sset g b num => some (.s, rawOf 0x36#8 g 0#3 0#8 b.code 0#8 (0#8 ++ num ++ 0#4))
  | .tsget g d k => some (.s, rawOf 0x37#8 g 0#3 d.code 0#8 0#8 (0#17 ++ k ++ 0#4))
  | .xpat g v lsz k => some (.s, rawOf 0x38#8 g 0#3 0#8 (1#3 ++ v) 0#8 (0#14 ++ lsz ++ 0#1 ++ k ++ 0#4))
  | .ld g d path => some (.m, rawOf 0x00#8 g 0#3 (0#3 ++ d) path.c0.code path.c1.code path.lo)
  | .ldAcq g sc d path => some (.m, rawOf 0x01#8 g sc (0#3 ++ d) path.c0.code path.c1.code path.lo)
  | .st g a path => some (.m, rawOf 0x02#8 g 0#3 a.code path.c0.code path.c1.code path.lo)
  | .stRel g sc a path => some (.m, rawOf 0x03#8 g sc a.code path.c0.code path.c1.code path.lo)
  | .ldv g v path => some (.m, rawOf 0x04#8 g 0#3 (1#3 ++ v) path.c0.code path.c1.code path.lo)
  | .ldvAcq g sc v path => some (.m, rawOf 0x05#8 g sc (1#3 ++ v) path.c0.code path.c1.code path.lo)
  | .stv g v path => some (.m, rawOf 0x06#8 g 0#3 (1#3 ++ v) path.c0.code path.c1.code path.lo)
  | .stvRel g sc v path => some (.m, rawOf 0x07#8 g sc (1#3 ++ v) path.c0.code path.c1.code path.lo)
  | .ldff g v path => some (.m, rawOf 0x08#8 g 0#3 (1#3 ++ v) path.c0.code path.c1.code path.lo)
  | .ldblk g v path => some (.m, rawOf 0x09#8 g 0#3 (1#3 ++ v) path.c0.code path.c1.code path.lo)
  | .stblk g v path => some (.m, rawOf 0x0a#8 g 0#3 (1#3 ++ v) path.c0.code path.c1.code path.lo)
  | .ldtag g d path => some (.m, rawOf 0x0b#8 g 0#3 (0#3 ++ d) path.c0.code path.c1.code path.lo)
  | .sttag g a path => some (.m, rawOf 0x0c#8 g 0#3 a.code path.c0.code path.c1.code path.lo)
  | .ldr g acq d path => some (.m, rawOf 0x10#8 g (0#2 ++ acq) d.code path.c0.code path.c1.code path.lo)
  | .str g rel a path => some (.m, rawOf 0x11#8 g (0#2 ++ rel) a.code path.c0.code path.c1.code path.lo)
  | .align g => some (.m, rawOf 0x18#8 g 0#3 0#8 0#8 0#8 (0#24))
  | .fence g sc => some (.m, rawOf 0x19#8 g sc 0#8 0#8 0#8 (0#24))
  | .pf g path => some (.m, rawOf 0x1a#8 g 0#3 0#8 path.c0.code path.c1.code path.lo)
  | .rfence g a path => some (.m, rawOf 0x1b#8 g 0#3 a.code path.c0.code path.c1.code path.lo)
  | .ldp g d path => some (.m, rawOf 0x1c#8 g 0#3 (0#3 ++ d) path.c0.code path.c1.code path.lo)
  | .stp g a path => some (.m, rawOf 0x1d#8 g 0#3 a.code path.c0.code path.c1.code path.lo)
  | .waitv g cc a path => some (.m, rawOf 0x20#8 g cc a.code path.c0.code path.c1.code path.lo)
  | .waitvAcq g sc cc a path => some (.m, rawOf (0x21#8 + (0#5 ++ sc)) g cc a.code path.c0.code path.c1.code path.lo)
  | .atomAdd g ord sc a path => some (.m, rawOf (0x40#8 + (0#6 ++ ord)) g sc (0#3 ++ a) path.c0.code path.c1.code path.lo)
  | .atomAnd g ord sc a path => some (.m, rawOf (0x44#8 + (0#6 ++ ord)) g sc (0#3 ++ a) path.c0.code path.c1.code path.lo)
  | .atomOr g ord sc a path => some (.m, rawOf (0x48#8 + (0#6 ++ ord)) g sc (0#3 ++ a) path.c0.code path.c1.code path.lo)
  | .atomXor g ord sc a path => some (.m, rawOf (0x4c#8 + (0#6 ++ ord)) g sc (0#3 ++ a) path.c0.code path.c1.code path.lo)
  | .atomMin g ord sc a path => some (.m, rawOf (0x50#8 + (0#6 ++ ord)) g sc (0#3 ++ a) path.c0.code path.c1.code path.lo)
  | .atomMax g ord sc a path => some (.m, rawOf (0x54#8 + (0#6 ++ ord)) g sc (0#3 ++ a) path.c0.code path.c1.code path.lo)
  | .atomMinn g ord sc a path => some (.m, rawOf (0x58#8 + (0#6 ++ ord)) g sc (0#3 ++ a) path.c0.code path.c1.code path.lo)
  | .atomMaxn g ord sc a path => some (.m, rawOf (0x5c#8 + (0#6 ++ ord)) g sc (0#3 ++ a) path.c0.code path.c1.code path.lo)
  | .atomSwap g ord sc a path => some (.m, rawOf (0x60#8 + (0#6 ++ ord)) g sc (0#3 ++ a) path.c0.code path.c1.code path.lo)
  | .atomCas g ord sc a path => some (.m, rawOf (0x64#8 + (0#6 ++ ord)) g sc (0#3 ++ a) path.c0.code path.c1.code path.lo)
  | .atomrAdd g ord a path => some (.m, rawOf 0x70#8 g (0#1 ++ ord) (0#3 ++ a) path.c0.code path.c1.code path.lo)
  | .atomrAnd g ord a path => some (.m, rawOf 0x71#8 g (0#1 ++ ord) (0#3 ++ a) path.c0.code path.c1.code path.lo)
  | .atomrOr g ord a path => some (.m, rawOf 0x72#8 g (0#1 ++ ord) (0#3 ++ a) path.c0.code path.c1.code path.lo)
  | .atomrXor g ord a path => some (.m, rawOf 0x73#8 g (0#1 ++ ord) (0#3 ++ a) path.c0.code path.c1.code path.lo)
  | .atomrMin g ord a path => some (.m, rawOf 0x74#8 g (0#1 ++ ord) (0#3 ++ a) path.c0.code path.c1.code path.lo)
  | .atomrMax g ord a path => some (.m, rawOf 0x75#8 g (0#1 ++ ord) (0#3 ++ a) path.c0.code path.c1.code path.lo)
  | .atomrMinn g ord a path => some (.m, rawOf 0x76#8 g (0#1 ++ ord) (0#3 ++ a) path.c0.code path.c1.code path.lo)
  | .atomrMaxn g ord a path => some (.m, rawOf 0x77#8 g (0#1 ++ ord) (0#3 ++ a) path.c0.code path.c1.code path.lo)
  | .atomrSwap g ord a path => some (.m, rawOf 0x78#8 g (0#1 ++ ord) (0#3 ++ a) path.c0.code path.c1.code path.lo)
  | .atomrCas g ord a path => some (.m, rawOf 0x79#8 g (0#1 ++ ord) (0#3 ++ a) path.c0.code path.c1.code path.lo)
  | .call g d v => some (.t, rawOf 0x00#8 g 0#3 (0#3 ++ d) (1#3 ++ v) 0#8 (0#24))
  | .callGang g d v n => some (.t, rawOf 0x01#8 g 0#3 (0#3 ++ d) (1#3 ++ v) n.code (0#24))
  | .join g d h => some (.t, rawOf 0x02#8 g 0#3 d.code h.code 0#8 (0#24))
  | .spawn g d v => some (.t, rawOf 0x03#8 g 0#3 (0#3 ++ d) (1#3 ++ v) 0#8 (0#24))
  | .cpy g v fl => some (.t, rawOf 0x08#8 g 0#3 (1#3 ++ v) 0#8 0#8 (0#16 ++ fl.bits))
  | .cpyg g v x fl => some (.t, rawOf 0x09#8 g 0#3 (1#3 ++ v) (1#3 ++ x) 0#8 (0#16 ++ fl.bits))
  | .cpyr g v fl => some (.t, rawOf 0x0a#8 g 0#3 (1#3 ++ v) 0#8 0#8 (0#16 ++ fl.bits))
  | .fill g v b fl => some (.t, rawOf 0x0b#8 g 0#3 (1#3 ++ v) b.code 0#8 (0#16 ++ fl.bits))
  | .collAllreduce g v fl => some (.t, rawOf 0x10#8 g 0#3 (1#3 ++ v) 0#8 0#8 (0#16 ++ fl.bits))
  | .collAllgather g v fl => some (.t, rawOf 0x10#8 g 1#3 (1#3 ++ v) 0#8 0#8 (0#16 ++ fl.bits))
  | .collReducescatter g v fl => some (.t, rawOf 0x10#8 g 2#3 (1#3 ++ v) 0#8 0#8 (0#16 ++ fl.bits))
  | .collAlltoall g v fl => some (.t, rawOf 0x10#8 g 3#3 (1#3 ++ v) 0#8 0#8 (0#16 ++ fl.bits))
  | .placeQ g d bx => some (.t, rawOf 0x18#8 g 0#3 (0#3 ++ d) 0#8 0#8 (0#20 ++ bx))
  | .placeD g a bx => some (.t, rawOf 0x18#8 g 1#3 a.code 0#8 0#8 (0#20 ++ bx))
  | .ckpt g d t => some (.t, rawOf 0x19#8 g 0#3 (0#3 ++ d) t.code 0#8 (0#24))
  | .tlaunch g d v t => some (.t, rawOf 0x1c#8 g 0#3 (0#3 ++ d) (1#3 ++ v) t.code (0#24))
  | .tpre g t => some (.t, rawOf 0x1d#8 g 0#3 0#8 t.code 0#8 (0#24))
  | .vadd g rm d b c m => some (.v, rawOf 0x00#8 g (0#1 ++ rm) d.code b.code c.code (0#8 ++ 0#5 ++ m.bits))
  | .vsub g rm d b c m => some (.v, rawOf 0x01#8 g (0#1 ++ rm) d.code b.code c.code (0#8 ++ 0#5 ++ m.bits))
  | .vmul g rm d b c m => some (.v, rawOf 0x02#8 g (0#1 ++ rm) d.code b.code c.code (0#8 ++ 0#5 ++ m.bits))
  | .vdiv g rm d b c m => some (.v, rawOf 0x07#8 g (0#1 ++ rm) d.code b.code c.code (0#8 ++ 0#5 ++ m.bits))
  | .vfma g rm d b c e m => some (.v, rawOf 0x03#8 g (0#1 ++ rm) d.code b.code c.code (e.code ++ 0#5 ++ m.bits))
  | .vfms g rm d b c e m => some (.v, rawOf 0x04#8 g (0#1 ++ rm) d.code b.code c.code (e.code ++ 0#5 ++ m.bits))
  | .vmin g d b c m => some (.v, rawOf 0x05#8 g 0#3 d.code b.code c.code (0#8 ++ 0#5 ++ m.bits))
  | .vmax g d b c m => some (.v, rawOf 0x06#8 g 0#3 d.code b.code c.code (0#8 ++ 0#5 ++ m.bits))
  | .vand g d b c m => some (.v, rawOf 0x28#8 g 0#3 d.code b.code c.code (0#8 ++ 0#5 ++ m.bits))
  | .vor g d b c m => some (.v, rawOf 0x29#8 g 0#3 d.code b.code c.code (0#8 ++ 0#5 ++ m.bits))
  | .vxor g d b c m => some (.v, rawOf 0x2a#8 g 0#3 d.code b.code c.code (0#8 ++ 0#5 ++ m.bits))
  | .vshl g d b c m => some (.v, rawOf 0x2c#8 g 0#3 d.code b.code c.code (0#8 ++ 0#5 ++ m.bits))
  | .vshr g d b c m => some (.v, rawOf 0x2d#8 g 0#3 d.code b.code c.code (0#8 ++ 0#5 ++ m.bits))
  | .vsra g d b c m => some (.v, rawOf 0x2e#8 g 0#3 d.code b.code c.code (0#8 ++ 0#5 ++ m.bits))
  | .vabs g d b m => some (.v, rawOf 0x08#8 g 0#3 d.code b.code 0#8 (0#8 ++ 0#5 ++ m.bits))
  | .vneg g d b m => some (.v, rawOf 0x09#8 g 0#3 d.code b.code 0#8 (0#8 ++ 0#5 ++ m.bits))
  | .vnot g d b m => some (.v, rawOf 0x2b#8 g 0#3 d.code b.code 0#8 (0#8 ++ 0#5 ++ m.bits))
  | .vmov g d b m => some (.v, rawOf 0x30#8 g 0#3 d.code b.code 0#8 (0#8 ++ 0#5 ++ m.bits))
  | .vrcp g rm d b m => some (.v, rawOf 0x0a#8 g (0#1 ++ rm) d.code b.code 0#8 (0#8 ++ 0#5 ++ m.bits))
  | .vsqrt g rm d b m => some (.v, rawOf 0x0b#8 g (0#1 ++ rm) d.code b.code 0#8 (0#8 ++ 0#5 ++ m.bits))
  | .vrsqrt g rm d b m => some (.v, rawOf 0x0c#8 g (0#1 ++ rm) d.code b.code 0#8 (0#8 ++ 0#5 ++ m.bits))
  | .vexp2 g rm d b m => some (.v, rawOf 0x0d#8 g (0#1 ++ rm) d.code b.code 0#8 (0#8 ++ 0#5 ++ m.bits))
  | .vlog2 g rm d b m => some (.v, rawOf 0x0e#8 g (0#1 ++ rm) d.code b.code 0#8 (0#8 ++ 0#5 ++ m.bits))
  | .vcvt g rm d b csel m => some (.v, rawOf 0x10#8 g (0#1 ++ rm) d.code b.code 0#8 (0#8 ++ 0#2 ++ csel ++ m.bits))
  | .vpack g rm d b csel m => some (.v, rawOf 0x11#8 g (0#1 ++ rm) d.code b.code 0#8 (0#8 ++ 0#2 ++ csel ++ m.bits))
  | .vsum g rm d b m => some (.v, rawOf 0x18#8 g (0#1 ++ rm) d.code b.code 0#8 (0#8 ++ 0#5 ++ m.bits))
  | .vmaxr g d b m => some (.v, rawOf 0x19#8 g 0#3 d.code b.code 0#8 (0#8 ++ 0#5 ++ m.bits))
  | .vcmp g cc d b c m => some (.v, rawOf 0x20#8 g cc d.code b.code c.code (0#8 ++ 0#5 ++ m.bits))
  | .vsel g d q c e m => some (.v, rawOf 0x21#8 g 0#3 d.code (1#3 ++ q) c.code (e.code ++ 0#5 ++ m.bits))
  | .vanyAny g b m => some (.v, rawOf 0x22#8 g 0#3 0x59#8 b.code 0#8 (0#8 ++ 0#3 ++ 0#2 ++ m.bits))
  | .vanyAll g b m => some (.v, rawOf 0x22#8 g 0#3 0x59#8 b.code 0#8 (0#8 ++ 0#3 ++ 1#2 ++ m.bits))
  | .vanyUni g b m => some (.v, rawOf 0x22#8 g 0#3 0x59#8 b.code 0#8
      (0#8 ++ 0#3 ++ 1#1 ++ m.st.extractLsb' 3 1 ++ (m.mneg ++ m.mv ++ m.men ++ (0#1 ++ m.st.extractLsb' 0 3))))
  | .vbcast g d b k m => some (.v, rawOf 0x31#8 g 0#3 d.code b.code k.code (0#8 ++ 0#5 ++ m.bits))
  | .viota g d b c m => some (.v, rawOf 0x32#8 g 0#3 d.code b.code c.code (0#8 ++ 0#5 ++ m.bits))
  | .vclass g d b m => some (.v, rawOf 0x33#8 g 0#3 d.code b.code 0#8 (0#8 ++ 0#5 ++ m.bits))
  | .xperm g k d b sf => some (.x, rawOf 0x00#8 g k d.code b.code 0#8 (0#20 ++ sf))
  | .xrot g d k b sf => some (.x, rawOf 0x01#8 g 0#3 d.code k.code b.code (0#19 ++ 0#1 ++ sf))
  | .xrotC g d k b sf => some (.x, rawOf 0x01#8 g 0#3 d.code k.code b.code (0#19 ++ 1#1 ++ sf))
  | .xtrn g d b sf => some (.x, rawOf 0x02#8 g 0#3 d.code b.code 0#8 (0#20 ++ sf))
  | .xbcast g d b k sf => some (.x, rawOf 0x03#8 g 0#3 d.code b.code k.code (0#20 ++ sf))
  | .xzip g d b c sf => some (.x, rawOf 0x04#8 g 0#3 d.code b.code c.code (0#20 ++ sf))
  | .xunzip g d b k sf => some (.x, rawOf 0x05#8 g 0#3 d.code b.code k.code (0#20 ++ sf))
  | .xcmpr g d b q sf => some (.x, rawOf 0x06#8 g 0#3 d.code b.code (1#3 ++ q) (0#20 ++ sf))
  | .hnop g => some (.h, rawOf 0x00#8 g 0#3 0#8 0#8 0#8 (0#24))
  | .hmma g cls a b c acc ts sf => some (.h, rawOf 0x01#8 g (0#1 ++ cls) a.code (1#3 ++ b) (1#3 ++ c) (0#16 ++ acc ++ ts ++ sf))
  | .hmmn g cls a b c acc ts sf => some (.h, rawOf 0x02#8 g (0#1 ++ cls) a.code (1#3 ++ b) (1#3 ++ c) (0#16 ++ acc ++ ts ++ sf))
  | .hgat g v rsc rel asc acq bx sf => some (.h, rawOf 0x03#8 g 0#3 (1#3 ++ v) 0#8 0#8 (0#8 ++ rsc ++ rel ++ asc ++ acq ++ bx ++ sf))
  | _ => none

/-- One slot word, decoded in the map of its slot (R184 to R191). -/
def decodeSlot (sl : Slot) (w : Word) : Except DErr Instr :=
  let r := Raw.ofWord w
  match sl with
  | .b => decBSlot r
  | .s => decSSlot r
  | .m => decMSlot r
  | .v => decVSlot r
  | .x => decXSlot r
  | .h => decHSlot r
  | .t => decTSlot r

/-- Little-endian bytes as a number (R5). -/
def leNat : List Byte → Nat
  | [] => 0
  | b :: bs => b.toNat + 256 * leNat bs

/-- A number as n little-endian bytes (R5). -/
def leBytes : Nat → Nat → List Byte
  | 0, _ => []
  | n + 1, v => BitVec.ofNat 8 v :: leBytes n (v / 256)

/-- The header of a bundle (R164), cut into fields. -/
structure Header where
  kind : BitVec 4
  hold : BitVec 1
  rep  : BitVec 8
  pres : BitVec 7
  deriving DecidableEq, Repr

/-- Cutting a header word; none where R172 step 1 refuses it. -/
def Header.ofWord (w : BitVec 32) : Option Header :=
  if (w.extractLsb' 28 4).toNat ≤ 1 && w.extractLsb' 24 3 == 0 && w.extractLsb' 7 9 == 0 then
    some { kind := w.extractLsb' 28 4, hold := w.extractLsb' 27 1, rep := w.extractLsb' 16 8,
           pres := w.extractLsb' 0 7 }
  else none

/-- The header word of its fields (R164). -/
def Header.word (h : Header) : BitVec 32 := h.kind ++ h.hold ++ 0#3 ++ h.rep ++ 0#9 ++ h.pres

/-- The slots present, in ascending bit order (R163). -/
def Header.slots (h : Header) : List Slot :=
  [Slot.b, .s, .m, .v, .x, .h, .t].filter fun sl => h.pres.getLsbD sl.num

/-- The size of a bundle in bytes (R163). -/
def Header.size (h : Header) : Nat := 4 + 4 * h.kind.toNat + 8 * h.slots.length

/-- A bundle with every present slot decoded or rejected (R163, R172). -/
structure Bundle where
  hd   : Header
  mark : Option (BitVec 32)
  ops  : List (Slot × Except DErr Instr)

/-- The slot words that follow header and marker, one for each present slot (R163). -/
def decodeSlots : List Slot → List Byte → List (Slot × Except DErr Instr)
  | [], _ => []
  | sl :: sls, bs =>
    (sl, decodeSlot sl (BitVec.ofNat 64 (leNat (bs.take 8)))) :: decodeSlots sls (bs.drop 8)

/-- A bundle read from the bytes of a code section, from its first byte on; none where the header is refused or
the bytes end within the bundle (R163, R165, R172). -/
def decodeBundle (bs : List Byte) : Option Bundle :=
  if bs.length < 4 then none else
  match Header.ofWord (BitVec.ofNat 32 (leNat (bs.take 4))) with
  | none => none
  | some h =>
    if bs.length < h.size then none else
    let rest := bs.drop 4
    if h.kind = 1 then
      some { hd := h, mark := some (BitVec.ofNat 32 (leNat (rest.take 4))), ops := decodeSlots h.slots (rest.drop 4) }
    else some { hd := h, mark := none, ops := decodeSlots h.slots rest }

/-- The operation of a bundle that holds exactly one: its slot operation, or the fold itself (R163, R168). -/
def Bundle.single (b : Bundle) : Option Instr :=
  match b.ops with
  | [] => some (if b.hd.hold = 1 then .idleHold b.hd.kind b.hd.rep else .idle b.hd.kind b.hd.rep)
  | [(_, .ok i)] => some i
  | _ => none

/-- The bytes of the smallest bundle that holds one operation (R163, R164); an event has no encoding. -/
def encode (i : Instr) : List Byte :=
  match i with
  | .idle k r => leBytes 4 (Header.word { kind := k, hold := 0, rep := r, pres := 0 }).toNat ++ leBytes (4 * k.toNat) 0
  | .idleHold k r =>
    leBytes 4 (Header.word { kind := k, hold := 1, rep := r, pres := 0 }).toNat ++ leBytes (4 * k.toNat) 0
  | .mark e => leBytes 4 (Header.word { kind := 1, hold := 0, rep := 0, pres := 0 }).toNat ++ leBytes 4 e.toNat
  | i =>
    match i.raw with
    | some (sl, r) =>
      leBytes 4 (Header.word { kind := 0, hold := 0, rep := 0, pres := BitVec.ofNat 7 (2 ^ sl.num) }).toNat
        ++ leBytes 8 r.word.toNat
    | none => []

/-- The instruction that the bits `w` hold, the first word lowest, with zeros above the `nbits` given. -/
def decodeTableWord (nbits w : Nat) : Option Instr :=
  match decodeBundle (leBytes (nbits / 8) w ++ List.replicate 64 0#8) with
  | some b => b.single
  | none => none

end Sys2Proof
end

