-- ==== Sys2Proof/Machine/Bits.lean ====
section
/-! DEFINITION. Bit fields, byte order, sign extension, and the element formats of R14, R32, R33 and R39. -/

namespace Sys2Proof.Machine

/-- Bits `hi` to `lo` of a word, as a number. -/
def fld (w : Word) (hi lo : Nat) : Nat := w.toNat / 2 ^ lo % 2 ^ (hi + 1 - lo)

/-- Bits `hi` to `lo` of a number. -/
def nfld (n : Nat) (hi lo : Nat) : Nat := n / 2 ^ lo % 2 ^ (hi + 1 - lo)

/-- One bit of a word. -/
def bitOf (w : Word) (i : Nat) : Bool := w.getLsbD i

/-- A number laid at bit `lo` of a word. -/
def atBit (v lo : Nat) : Word := BitVec.ofNat 64 (v * 2 ^ lo)

/-- Bits `hi` to `lo` of a word replaced. -/
def putFld (w : Word) (hi lo v : Nat) : Word :=
  BitVec.ofNat 64 (w.toNat - fld w hi lo * 2 ^ lo + v % 2 ^ (hi + 1 - lo) * 2 ^ lo)

/-- Bytes, lowest first, as a number (R5). -/
def ofBytes : List Byte → Nat
  | [] => 0
  | b :: bs => b.toNat + 256 * ofBytes bs

/-- A number as `n` bytes, lowest first (R5). -/
def toBytes : Nat → Nat → List Byte
  | 0, _ => []
  | n + 1, v => BitVec.ofNat 8 v :: toBytes n (v / 256)

/-- A number of `bits` bits read as two's complement. -/
def toSigned (bits v : Nat) : Int := if v < 2 ^ (bits - 1) then (v : Int) else (v : Int) - (2 ^ bits : Nat)

/-- An integer wrapped to `bits` bits. -/
def wrapTo (bits : Nat) (v : Int) : Nat := (v % (2 ^ bits : Nat)).toNat

/-- The value of a small-integer operand (R173). -/
def immVal (n : BitVec 5) : Int := (n.toNat : Int) - 16

/-- A scalar value from an integer. -/
def wordOf (v : Int) : Word := BitVec.ofInt 64 v

/-- Whether FMT is an assigned code (R14). -/
def fmtOk (f : Nat) : Bool := f ≤ 11 || (16 ≤ f && f ≤ 18)

/-- Raw formats store elements at their natural width (R14). -/
def fmtRaw (f : Nat) : Bool := f ≤ 11

/-- Tagged classes (R14). -/
def fmtTagged (f : Nat) : Bool := 16 ≤ f && f ≤ 18

/-- Floating raw formats (R32). -/
def fmtFloat (f : Nat) : Bool := f ≤ 3

/-- Integer formats, int and nat (R33). -/
def fmtInteger (f : Nat) : Bool := 4 ≤ f && f ≤ 11

/-- Signed integer formats (R33). -/
def fmtInt (f : Nat) : Bool := 4 ≤ f && f ≤ 7

/-- Element size in bits (R14). -/
def fmtBits (f : Nat) : Nat :=
  if f = 0 then 64 else if f = 1 then 32 else if f = 2 ∨ f = 3 then 16
  else if f = 4 ∨ f = 8 then 8 else if f = 5 ∨ f = 9 then 16 else if f = 6 ∨ f = 10 then 32
  else if f = 7 ∨ f = 11 then 64 else if f = 16 then 8 else if f = 17 then 6 else 4

/-- Element size in bytes of a raw format (R14). -/
def fmtBytes (f : Nat) : Nat := fmtBits f / 8

/-- Elements per granule (R14). -/
def fmtPer (f : Nat) : Nat := if f = 17 then 80 else 512 / fmtBits f

/-- The column cap of a format (R220). -/
def colCap (f : Nat) : Nat := 4 * fmtPer f

/-- Bit position of element `k` in its block or granule (R36). -/
def elemBit (f k : Nat) : Nat := fmtBits f * k

/-- The element at position `k` of a granule given as bytes (R36). -/
def elemOf (f : Nat) (gr : List Byte) (k : Nat) : Nat :=
  if fmtRaw f ∨ f = 16 then ofBytes ((gr.drop (fmtBits f / 8 * k)).take (fmtBits f / 8))
  else ofBytes gr / 2 ^ elemBit f k % 2 ^ fmtBits f

/-- Whether a tag CODE belongs to a class (R35). -/
def codeInClass (f code : Nat) : Bool :=
  if f = 16 then code = 0x10 || code = 0x11
  else if f = 17 then code = 0x20 || code = 0x21 || code = 0x40
  else if f = 18 then code = 0x30
  else false

/-- The tag CODE that CSEL names (R272). -/
def cselCode (c : Nat) : Option Nat :=
  if c = 0 then some 0x10 else if c = 1 then some 0x11 else if c = 2 then some 0x20 else if c = 3 then some 0x21
  else if c = 4 then some 0x30 else if c = 5 then some 0x40 else none

/-- CODE of a tag (R34). -/
def tagCode (t : Tag) : Nat := t.toNat % 256

/-- SCALE of a tag (R34). -/
def tagScale (t : Tag) : Nat := t.toNat / 256

/-- A tag from SCALE and CODE (R34). -/
def mkTag (scale code : Nat) : Tag := BitVec.ofNat 16 (scale * 256 + code)

/-- Whether every index below `n` satisfies a test. -/
def allBelow (n : Nat) (p : Nat → Bool) : Bool := (List.range n).all p

/-- A signed value saturated to 32 bits (R28, R377). -/
def sat32 (v : Int) : Nat :=
  wrapTo 32 (max (-(2 ^ 31 : Nat)) (min ((2 ^ 31 : Nat) - 1) v))

/-- The quotient rounded up. -/
def cdiv (a b : Nat) : Nat := (a + b - 1) / b

end Sys2Proof.Machine
end

