-- ==== Sys2Proof/Machine/Map.lean ====
section
/-! DEFINITION. Sparse maps from numbers to data in one canonical form: keys strictly rising, and no entry that
equals what an unlisted key reads as. Registers, tables and storages are held in them. -/

namespace Sys2Proof.Machine

/-- Data by number, as a sorted list of the entries that differ from the default. -/
abbrev SMap (α : Type) := List (Nat × α)

/-- The entry at `k`, or the default `d` where none is listed. -/
def mget {α : Type} (d : α) : SMap α → Nat → α
  | [], _ => d
  | (j, v) :: m, k => if j = k then v else if k < j then d else mget d m k

/-- The entry at `k` made `v`; making it the default removes it. -/
def mput {α : Type} [DecidableEq α] (d : α) : SMap α → Nat → α → SMap α
  | [], k, v => if v = d then [] else [(k, v)]
  | (j, w) :: m, k, v =>
    if k < j then (if v = d then (j, w) :: m else (k, v) :: (j, w) :: m)
    else if k = j then (if v = d then m else (k, v) :: m)
    else (j, w) :: mput d m k v

/-- Every key exceeds `lo`, keys rise, and no value is the default. -/
def mwfFrom {α : Type} [DecidableEq α] (d : α) : Option Nat → SMap α → Bool
  | _, [] => true
  | lo, (k, v) :: m => (match lo with | none => true | some l => decide (l < k)) && decide (v ≠ d) && mwfFrom d (some k) m

/-- The canonical form. -/
def mwf {α : Type} [DecidableEq α] (d : α) (m : SMap α) : Bool := mwfFrom d none m

/-- `n` entries from `k` on. -/
def mgets {α : Type} (d : α) (m : SMap α) (k : Nat) : Nat → List α
  | 0 => []
  | n + 1 => mget d m k :: mgets d m (k + 1) n

/-- Consecutive entries from `k` on made the values given. -/
def mputs {α : Type} [DecidableEq α] (d : α) : SMap α → Nat → List α → SMap α
  | m, _, [] => m
  | m, k, v :: vs => mputs d (mput d m k v) (k + 1) vs

/-- The entry at `k` changed by `f`. -/
def mmod {α : Type} [DecidableEq α] (d : α) (m : SMap α) (k : Nat) (f : α → α) : SMap α :=
  mput d m k (f (mget d m k))

/-- The entry at `k`, where unlisted keys hold nothing. -/
def mfind {α : Type} : SMap α → Nat → Option α
  | [], _ => none
  | (j, v) :: m, k => if j = k then some v else if k < j then none else mfind m k

/-- The entry at `k` made `v`, where unlisted keys hold nothing. -/
def mins {α : Type} : SMap α → Nat → α → SMap α
  | [], k, v => [(k, v)]
  | (j, w) :: m, k, v =>
    if k < j then (k, v) :: (j, w) :: m
    else if k = j then (k, v) :: m
    else (j, w) :: mins m k v

/-- The entry at `k` removed. -/
def mdel {α : Type} : SMap α → Nat → SMap α
  | [], _ => []
  | (j, w) :: m, k => if k < j then (j, w) :: m else if k = j then m else (j, w) :: mdel m k

/-- Consecutive entries from `k` on made the values given, where unlisted keys hold nothing. -/
def minss {α : Type} : SMap α → Nat → List α → SMap α
  | m, _, [] => m
  | m, k, v :: vs => minss (mins m k v) (k + 1) vs

/-- Keys rise strictly, each above the one before. -/
def mkeysFrom {α : Type} : Option Nat → SMap α → Bool
  | _, [] => true
  | lo, (k, _) :: m => (match lo with | none => true | some l => decide (l < k)) && mkeysFrom (some k) m

end Sys2Proof.Machine
end

