-- ==== Sys2Proof/Machine/Ctx.lean ====
section
/-! DEFINITION. The state of one hardware context (R145) as plain data: registers, queues, latches, trap state. -/

namespace Sys2Proof.Machine

/-- The five states of a context (R146); `halted` keeps the state it left. -/
inductive CtxSt where
  | free | ready | issue | blocked
  deriving DecidableEq, Repr

/-- A box descriptor, words 0 to 3 (R13). -/
structure Desc where
  w0 : Word
  w1 : Word
  w2 : Word
  w3 : Word
  deriving DecidableEq, Repr

/-- Where a byte lies on the part: a scratchpad byte (core x 2^18 + address, R19), or a device-memory byte
(stack x 2^36 + offset in the stack, R64) read and written under a seal, which an owner key and the physical granule make (R73, R74). -/
inductive Place where
  | sp (a : Nat)
  | hbm (a : Nat) (key : Nat)
  deriving DecidableEq, Repr

/-- Bytes of one granule that an access reaches. `lvl` counts the points passed (R128): 0 in the queue, 1 `.core`,
2 `.clu`, 3 `.die`, 4 `.dev`; `hl` is the level at which the home is reached; `stamp` orders passages of one point. -/
structure Piece where
  pl    : Place
  n     : Nat
  hl    : Nat
  lvl   : Nat
  stamp : Nat
  data  : List Byte
  tag   : Option Tag
  deriving DecidableEq, Repr

/-- A row with its format and the tags of its granules (R175, R282). -/
structure Row where
  fmt   : Nat
  bytes : List Byte
  tags  : List Tag
  deriving DecidableEq, Repr

/-- What a queue entry is, beside the bytes it moves. -/
inductive AccKind where
  | load                                                       -- a load
  | store                                                      -- a store
  | tagLoad                                                    -- `ldtag`
  | tagStore                                                   -- `sttag`
  | align                                                      -- a marker in both queues (R127)
  | atomic (op : Nat) (v : Word) (cmp : Word)                  -- an atomic, for the crucible (R241)
  | remote (ps : List Pkt) (place : Nat) (held : Bool)         -- the packets of a remote access, and the placement index
                                                               -- of its descriptor; held at the egress (R139, R242)
  | push (landed : Bool)                                       -- a push of a write port, from its issue on (R133, R182)
  | chPush (n : Nat) (r : Option Row)                          -- a push of a channel; its row once it has landed (R341)
  deriving DecidableEq, Repr

/-- An entry of the load queue, the store queue or a write-port queue (R124, R133). `seq` is its place in the
program order of the context; `acq` and `rel` are the scopes of an acquire and a release (R130), `rel` of a marker that of its
`fence` (R132); `conv` is the placement index of the system box a local load reads (R120). -/
structure Acc where
  tok  : Nat
  seq  : Nat
  kind : AccKind
  acq  : Option Nat
  rel  : Option Nat
  conv : Option Nat
  ps   : List Piece
  deriving DecidableEq, Repr

/-- How the bytes of a load reach registers when they land (R236, R237, R239, R240, R247). -/
inductive LoadFin where
  /-- `sz` bytes, sign-extended when `sg`, to a scalar register -/
  | scalar (d : BitVec 5) (sz : Nat) (sg : Bool)
  /-- `bits` bits from bit `off` of the bytes, zero-extended (an element code, R247) -/
  | code (d : BitVec 5) (off : Nat) (bits : Nat)
  /-- the tag of the granule (R240) -/
  | tag (d : BitVec 5)
  /-- runs of register bytes in the order of the data, register granules that take the tag of a piece by its
  number, tail bits set to zero as address and count, and the columns an `ldff` leaves in sh -/
  | view (dst : List (Nat × Nat)) (tags : List (Nat × Nat)) (zero : List (Nat × Nat)) (cols : Option Nat)
  /-- nothing is written (`waitv`) -/
  | none
  deriving DecidableEq, Repr

/-- A software write of a loop register that may still be late (R206): the field, the value and the start order before it, the value
written, and the number of bundles issued since it committed. -/
structure Held where
  f   : Nat
  old : Word
  ord : Nat
  new : Word
  age : Nat
  deriving DecidableEq, Repr

/-- The fields of a hardware loop level (R201), its place among the levels by their starts (R205), and the software writes that may still
be late (R206). -/
structure Loop where
  lc   : Word
  ls   : Word
  le   : Word
  lk   : Word
  rot  : Bool
  ord  : Nat
  held : List Held
  deriving DecidableEq, Repr

/-- The operand latch of the gather unit (R291): the format, a skip flag per row and the rows. -/
structure GatherLatch where
  fmt  : Nat
  rows : List (Option Row)
  deriving DecidableEq, Repr

/-- A crossbar pattern: the lane size code and its entries, none where a source goes nowhere (R281). -/
structure Pattern where
  lsz : Nat
  ent : List (Option Nat)
  deriving DecidableEq, Repr

/-- An address generator: the parameter words, the indexes, POS (R180, R181), the fetched runs and the walk of the
fetches or pushes ahead of the pops and landings (R182). `hold` is the program-order place of a marker whose stores the
next fetch must wait for, with its scope (R133). -/
structure Gen where
  par     : List Word
  idx     : List Nat
  pos     : Nat
  past    : Bool
  fetched : List Row
  fidx    : List Nat
  fover   : Bool
  hold    : Option (Nat × Nat)
  deriving DecidableEq, Repr

/-- The parts of a result, applied when its latch commits (R148, R149). -/
inductive Wr where
  /-- bytes of register space from an address -/
  | bytes (a : Nat) (bs : List Byte)
  /-- bits set to zero, from bit 0 of a byte on -/
  | zero (a : Nat) (bits : Nat)
  /-- the tag of a register granule -/
  | tag (gr : Nat) (t : Tag)
  /-- a predicate -/
  | pred (n : BitVec 4) (v : Bool)
  /-- all predicates (prd) -/
  | prd (v : BitVec 16)
  /-- a special register by its number (R223) -/
  | sreg (n : Nat) (v : Word)
  /-- flags ORed into fsr (R269) -/
  | fsr (v : Word)
  /-- the granted columns an `ldff` leaves (R238) -/
  | cols (k : Nat)
  /-- a view register (R219) -/
  | vd (n : Nat) (v : Word)
  /-- a pattern register (R222) -/
  | pat (k : Nat) (p : Pattern)
  /-- a tile status, ORed or replaced (R288) -/
  | ts (k : Nat) (v : Word) (acc : Bool)
  /-- the operand latch (R291) -/
  | hl (v : GatherLatch)
  /-- a push to cq (R195) -/
  | pushCq (v : Bool)
  /-- a push to a bound channel (R173): the channel, the number of its queue entry and the row -/
  | pushCh (n tok : Nat) (r : Row)
  /-- a push to a write port (R182): the port and the number of its queue entry -/
  | pushPort (n tok : Nat)
  /-- a result for sb0 (R175) -/
  | sb (v : Word)
  /-- a result row for vb0 (R175) -/
  | vb (r : Row)
  /-- a result row for xb (R175) -/
  | xb (r : Row)
  /-- the row of the format given that vb0 takes from the register bytes just written: address, bytes (R175) -/
  | vbAt (a n fmt : Nat)
  /-- the row that xb takes from the register bytes just written (R175) -/
  | xbAt (a n fmt : Nat)
  /-- the write of one loop register through `sset` (R206) -/
  | loopReg (lvl : Nat) (field : Nat) (v : Word)
  /-- a level started by `loop` or `loop.rot` (R202) -/
  | loopSet (lvl : Nat) (l : Loop)
  /-- what an end test leaves of a level (R205) -/
  | loopTest (lvl : Nat) (lc : Word) (lk : Word) (ord : Nat)
  /-- the stage predicates p8 to p15 (R204) -/
  | stages (v : BitVec 8)
  /-- rb (R204) -/
  | rb (v : BitVec 8)
  /-- a generator armed or disarmed (R183, R218) -/
  | arm (port : Nat) (par : List Word)
  /-- names the accumulator of a pending hammer operation: base, stride, rows, columns and format (R286) -/
  | accum (v : List Nat)
  /-- the write of cqs (R223) -/
  | cqs (es : List Bool)
  deriving DecidableEq, Repr

/-- An exposed latch (R148): `dist` is its landing cycle minus ccy; `tile` counts in tl until it commits (R207);
`occ` tells whether it takes one of the 64; `code` is its destination operand code (R375). -/
structure Latch where
  tok  : Nat
  slot : Nat
  code : Nat
  dist : Nat
  here : Bool
  occ  : Bool
  tile : Bool
  wrs  : List Wr
  deriving DecidableEq, Repr

/-- A load whose latch waits for its value: the queue entry of the same number and where the bytes go. -/
structure LoadPend where
  tok : Nat
  fin : LoadFin
  deriving DecidableEq, Repr

/-- A sticky record (R177): the operation, its resolved path, the access width and the step count. -/
structure Stick where
  op   : Instr
  crd  : List Int
  mesh : Option Word
  w    : Nat
  s    : Nat
  deriving DecidableEq, Repr

/-- Why a context is blocked (R151). -/
inductive Why where
  | cqEmpty
  | cqFull
  | eqEmpty
  | handle (h : Word)
  | chEmpty (n : Nat)
  | chFull (n : Nat)
  | counts (imm : BitVec 24)
  | value (cc : Nat) (s : Word) (ps : List Piece) (sg : Bool)
  | barrier (id : Nat)
  | callTable
  | spawnTable
  | calls                         -- a `done` before every call has reached DONE (R89)
  deriving DecidableEq, Repr

/-- A record of the asynchronous fault queue: afw0, afw1, and plf where it holds one (R230). -/
structure AFault where
  afw0 : Word
  afw1 : Word
  plf  : Option Word
  deriving DecidableEq, Repr

/-- The bypass operands (R175). -/
structure Bypass where
  sb0 : Word
  sb1 : Word
  vb0 : Row
  vb1 : Row
  xb  : Row
  deriving DecidableEq, Repr

/-- The repeat progress of the current bundle (R167, R239): issue index, sticky records by slot, the block progress as
bundle address, index and row, and the cause and slot of a consumed record's fault that follows the bundle (R89). -/
structure Progress where
  idx   : Nat
  stick : SMap (Option Stick)
  blk   : Option (Nat × Nat × Nat)
  after : Option (Nat × Nat)
  deriving DecidableEq, Repr

/-- What a trap sets aside and `eret` restores (R155, R227), and the place in the program order at which the handler begins. -/
structure Aside where
  lats : List Latch
  byp  : Bypass
  prog : Progress
  seq  : Nat
  deriving DecidableEq, Repr

/-- The trap registers (R226), the last asynchronous fault (R230) and the set-aside state (R155). -/
structure TrapRegs where
  tvec  : Word
  tpc   : Word
  tcs   : Word
  tinf  : Word
  afw0  : Word
  afw1  : Word
  fq    : List AFault
  aside : Option Aside
  deriving DecidableEq, Repr

/-- The remaining system registers of a context (R223). -/
structure SysRegs where
  fsr   : Word
  sh    : Word
  cgm   : Word
  gmi   : Word
  bxf   : Word
  ovf   : Word
  plf   : Word
  lr    : Word
  dbase : Word
  chk   : Word
  rb    : BitVec 8
  ts    : SMap Word
  deriving DecidableEq, Repr

/-- The wait counters (R207). -/
structure Counts where
  ld : Nat
  st : Nat
  cp : Nat
  tl : Nat
  deriving DecidableEq, Repr

/-- The register files (R54, R55, R193, R222, R291). -/
structure Files where
  rs  : SMap Byte
  tag : SMap Tag
  vd  : SMap Word
  pr  : BitVec 16
  xp  : SMap (Option Pattern)
  hl  : Option GatherLatch
  deriving DecidableEq, Repr

/-- The queues of a context (R89, R124, R195, R180): `pw` holds the pushes of write ports 4 and 5 from their issue
on, and those of channel n at 8 + n (R182, R341). -/
structure Queues where
  cq    : List Bool
  eq    : List (BitVec 128)
  lq    : List Acc
  sq    : List Acc
  pend  : List LoadPend
  ag    : SMap (Option Gen)
  pw    : SMap (List Acc)
  seq   : Nat
  deriving DecidableEq, Repr

/-- The task a context runs (R300, R315): device and device context, level, code section, the call or queue entry
it serves, its gang and its place in it, the channel bindings, and the bytes its boxes own in scratchpads. -/
structure Task where
  dev    : Nat
  dctx   : Nat
  lvl    : Nat
  cbase  : Word
  csize  : Nat
  key    : Nat
  image  : Word
  parent : Option (Nat × Nat)     -- call table or spawn table and entry
  queue  : Option Nat             -- queue entry, by its number among those taken
  lead   : Nat                    -- the launching member, peer x 8 + SUB, plus 1; 0 this device (R319)
  gang   : Option (Nat × Nat)     -- gang number and member count
  chan   : SMap Nat               -- channel bound to ch0 to ch7, plus 1
  occ    : List Nat               -- declared occupancies (R158)
  deriving DecidableEq, Repr

/-- The debug state of a context (R376, R377): breakpoints as address with EN in bit 0, whether it is stopped, whether
it is released for one issue, whether it held the issue stage when it was stopped and has not had it back, the bit of DBGSTAT that its stop sets once its
latches all hold their results (0 none), whether the breakpoint of the bundle now presented has been passed, the issues still traced, the length and cause of the stall run in progress, and the wall
cycle after the last issue in checking mode. -/
structure Dbg where
  bp    : SMap Word
  stop  : Bool
  step  : Bool
  held  : Bool
  due   : Nat
  past  : Bool
  trace : Nat
  run   : Nat
  cause : Nat
  paced : Nat
  deriving DecidableEq, Repr

/-- A hardware context (R145). -/
structure Ctx where
  st    : CtxSt
  halt  : Bool
  why   : Option Why
  stamp : Nat
  task  : Option Task
  fin   : Option Nat              -- the status of a task that has issued `done` or ended abnormally
  pc    : Word
  prog  : Progress
  f     : Files
  bx    : SMap Desc
  q     : Queues
  wc    : Counts
  loops : SMap Loop
  lats  : List Latch
  byp   : Bypass
  ccy   : Word
  scy   : Word
  sys   : SysRegs
  trp   : TrapRegs
  bars  : SMap Nat                -- arrivals at each barrier (R210)
  dbg   : Dbg
  deriving DecidableEq, Repr

/-- The empty descriptor (R13). -/
def Desc.none : Desc := { w0 := 0, w1 := 0, w2 := 0, w3 := 0 }

/-- A loop level at task start (R201). -/
def Loop.zero : Loop := { lc := 0, ls := 0, le := 0, lk := 0, rot := false, ord := 0, held := [] }

/-- A bypass row that no result has left: zeros that fit every format (R175); assumption log 12. -/
def Row.zero : Row := { fmt := 32, bytes := List.replicate 256 0#8, tags := List.replicate 4 0#16 }

/-- The bypasses at task start (R175). -/
def Bypass.zero : Bypass := { sb0 := 0, sb1 := 0, vb0 := Row.zero, vb1 := Row.zero, xb := Row.zero }

/-- The repeat progress at task start (R178). -/
def Progress.zero : Progress := { idx := 0, stick := [], blk := none, after := none }

/-- A context that holds no task: every register at its value at task start (R315); assumption log 12. -/
def Ctx.zero : Ctx :=
  { st := .free, halt := false, why := none, stamp := 0, task := none, fin := none, pc := 0, prog := Progress.zero,
    f := { rs := [], tag := [], vd := [], pr := 1, xp := [], hl := none }, bx := [],
    q := { cq := [], eq := [], lq := [], sq := [], pend := [], ag := [], pw := [], seq := 0 },
    wc := { ld := 0, st := 0, cp := 0, tl := 0 }, loops := [], lats := [], byp := Bypass.zero, ccy := 0, scy := 0,
    sys := { fsr := 0, sh := 0, cgm := 0, gmi := 0, bxf := 0, ovf := 0, plf := 0, lr := 0, dbase := 0, chk := 0,
             rb := 0, ts := [] },
    trp := { tvec := 0, tpc := 0, tcs := 0, tinf := 0, afw0 := 0, afw1 := 0, fq := [], aside := none },
    bars := [], dbg := { bp := [], stop := false, step := false, held := false, due := 0, past := false, trace := 0, run := 0, cause := 0, paced := 0 } }

end Sys2Proof.Machine
end

