-- ==== Sys2Proof/Machine/Dev.lean ====
section
/-! DEFINITION. The state beside the hardware contexts: cores, clusters, device contexts, engine commands, storage. -/

namespace Sys2Proof.Machine

/-- A location before or after translation: a place, a virtual address of a device context under a key (R18),
or one of a peer (R257). -/
inductive Loc where
  | place (p : Place)
  | virt (dev dctx va key : Nat)
  | far (peer sub va key : Nat)
  deriving DecidableEq, Repr

/-- A run of bytes moved within one granule of the destination, from a source or from a constant. `tag` moves the
source granule's tag, or sets tag 0 for a constant, when the destination granule is written whole (R37). -/
structure Move where
  src  : Option Loc
  data : List Byte
  dst  : Loc
  n    : Nat
  tag  : Bool
  deriving DecidableEq, Repr

/-- What an engine command is for (R84, R255, R257, R258). -/
inductive CmdKind where
  /-- `cpy`, `cpyg`, `fill` of a context, counted in cp -/
  | copy (h : Nat)
  /-- the copies inward of a call entry: table and entry -/
  | inward (tab ent : Nat)
  /-- the copies outward of a call entry -/
  | outward (tab ent : Nat)
  /-- the row fetches of an `hgat`: context, latch and format (R290) -/
  | gather (h tok fmt : Nat)
  deriving DecidableEq, Repr

/-- An engine command in progress: rows of moves still to make, in order; the flag write that follows (R257) and
the answers still awaited; the acquire it starts under, as the
program-order place it waits for and the scope; the release scope; the address of the fault it is suspended on, and
whether that is one of permission; a fault that was refused leaves no address and `deny` (R97); the gang member whose selection a
copy of a call moves (R96); the placement indexes of the boxes that its data and its flag reach on a peer (R244). -/
structure Cmd where
  kind : CmdKind
  rows : List (List Move)
  got  : List (Option Row)        -- rows a gather has fetched
  flag : Option Pkt
  wait : Nat
  acq  : Option (Nat × Nat)
  rel  : Option Nat
  susp : Option Nat
  deny : Bool
  dev  : Nat
  dctx : Nat
  mem  : Nat
  place : Nat × Nat
  deriving DecidableEq, Repr

/-- The states of a call-table entry (R84). -/
inductive CallSt where
  | free | wait | copyIn | ready | run | copyOut | record | done
  deriving DecidableEq, Repr

/-- One selection of a call as it was read from the frame (R80, R81): parent slot, child slot, access, origin,
extents, format, rank, gang dimension and step. -/
structure Sel where
  pslot : Nat
  cslot : Nat
  acc   : Nat
  org   : List Nat
  ext   : List Nat
  fmt   : Nat
  rank  : Nat
  gdim  : Nat
  gstep : Nat
  deriving DecidableEq, Repr

/-- An entry of a call table or a spawn table (R84, R253): the parent context, the frame as read, the members'
contexts and descriptors, and what its record will hold. -/
structure CallEnt where
  st     : CallSt
  gen    : Nat
  parent : Nat
  kind   : Nat                    -- KIND of its record (R88)
  grp    : Nat
  after  : List Nat
  task   : Nat                    -- image task-table index
  sels   : List Sel
  nmem   : Nat
  seq    : Nat                    -- the call's place in the parent's program order
  order  : Nat                    -- call order
  boxes  : List (List (Nat × Desc))   -- per member: child slots and descriptors
  ctxs   : List Nat               -- members' contexts once chosen
  cores  : List Nat               -- cores chosen for the storage of level-0 children, one for each member
  pool   : Option Nat             -- cluster chosen for the storage of level-1 children
  bases  : List Nat               -- storage of each member
  size   : Nat                    -- bytes of storage of a member
  ready  : Nat                    -- its place in the order in which entries became READY
  hold   : Bool                   -- a gang that holds back later entries (R320)
  sent   : Bool                   -- the record has been put together
  alive  : Nat                    -- members that have not ended
  status : Nat
  cycles : Word
  start  : Option Word            -- timed launch (R263)
  dead   : Bool                   -- abandoned (R90)
  deriving DecidableEq, Repr

/-- The values of a free call-table entry. -/
def CallEnt.zero : CallEnt :=
  { st := .free, gen := 0, parent := 0, kind := 0, grp := 0, after := [], task := 0, sels := [], nmem := 0, seq := 0, order := 0,
    boxes := [], ctxs := [], cores := [], pool := none,
    bases := [], size := 0, ready := 0, hold := false, sent := false, alive := 0, status := 0, cycles := 0, start := none, dead := false }

/-- Who waits for a conversion (R111, R112): an `ldp` by its context and latch, or a CONV queue entry. -/
inductive Waiter where
  | ldp (h tok : Nat)
  | entry (q : Nat)
  deriving DecidableEq, Repr

/-- The first packet of a member of a conversion (R113). -/
structure First where
  seq   : Nat
  place : Nat
  mask  : Nat
  tgt   : Nat
  cur   : Nat
  ord   : Nat
  deriving DecidableEq, Repr

/-- A conversion in progress on a device (R111, R113): the demand, the descriptor it was demanded through, the first
packets received by group index, the waiting loads, and whether it has started. -/
structure Conv where
  mask  : Nat
  tgt   : Nat
  seq   : Nat
  desc  : Desc
  firsts : SMap First
  wait  : List Waiter
  going : Bool
  parts : SMap (List (Nat × Tag)) -- elements of the shards received, with the tags of their granules, by group index
  susp  : Option Nat
  refused : Bool                  -- the fault it was suspended on has been refused
  hit   : List (Nat × Nat)        -- bytes of its footprint that the host has written meanwhile (R356)
  deriving DecidableEq, Repr

/-- A placement-table entry (R107) with the conversion kept beside it. -/
structure PlEnt where
  w0   : Word
  w1   : Word
  conv : Option Conv
  deriving DecidableEq, Repr

/-- The reset value of a placement-table entry (R107). -/
def PlEnt.zero : PlEnt := { w0 := 0, w1 := 0, conv := none }

/-- A leaf translation held in a cluster's cache (R68): device, device context, the page, its size in bytes and the
table entry. -/
structure TlbEnt where
  dev  : Nat
  dctx : Nat
  va   : Nat
  size : Nat
  ent  : Word
  deriving DecidableEq, Repr

/-- An atomic at a request position of a crucible (R72): who asked, the place, the operation and its operands. -/
structure CrReq where
  /-- a context and its queue entry, or the packet of a remote operation -/
  h    : Option (Nat × Nat)
  rem  : Option Pkt
  pl   : Place
  op   : Nat
  fmt  : Nat
  v    : Word
  cmp  : Word
  deriving DecidableEq, Repr

/-- A cluster (R70, R84, R68): its call table, its crucible and translation cache. -/
structure Cluster where
  calls : SMap CallEnt
  crq   : SMap (List CrReq)
  last  : Nat
  lines : List Nat
  busy  : SMap Nat                -- lines that a miss holds, with the wall cycle until which it does (R72)
  tlb   : List TlbEnt             -- newest first
  old   : List TlbEnt             -- leaves that have left the cache, whose accesses may still be under way (R69)
  used  : Nat                     -- wall cycle of the last access to the pool (R77)
  idle  : Option Nat              -- the wall cycle at which the pool began to enter retention
  deriving DecidableEq, Repr

/-- A cluster with nothing in it; assumption log 12 on the position served last. -/
def Cluster.zero : Cluster :=
  { calls := [], crq := [], last := 64, lines := [], busy := [], tlb := [], old := [], used := 0, idle := none }

/-- A core (R144): who holds the issue stage, when its swage and crossbar fall free (R267, R280), the wall cycle of the last
access to its own partition and that at which it began to enter retention (R77), and whether it is fenced by a quench reset (R326). -/
structure CoreSt where
  holder : Option Nat
  vfree  : Nat
  xfree  : Nat
  used   : Nat
  idle   : Option Nat
  fenced : Bool
  deriving DecidableEq, Repr

/-- A core at reset. -/
def CoreSt.zero : CoreSt := { holder := none, vfree := 0, xfree := 0, used := 0, idle := none, fenced := false }

/-- A packet in flight from this package, by its `id` (R139, R242 to R244): the context and the queue entry or latch
it serves, the part of that access, its place in the program order, the engine command, the back-offs made, whether the last refusal came from a
converting tensor, and the placement index of the descriptor. -/
structure Far where
  pkt   : Pkt
  h     : Option Nat
  tok   : Nat
  part  : Nat
  seq   : Nat
  cmd   : Option Nat
  tries : Nat
  conv  : Bool
  place : Nat
  deriving DecidableEq, Repr

/-- The egress of an ordered pair of devices (R139): the next number and the numbers not acknowledged. -/
structure Egress where
  next : Nat
  pend : List Nat
  deriving DecidableEq, Repr

/-- The ingress of an ordered pair of devices (R139): the fence counter, the numbers committed above it, and the
fences whose flags are not yet written. -/
structure Ingress where
  c      : Nat
  above  : List Nat
  fences : List Pkt
  deriving DecidableEq, Repr

/-- A collective in progress (R258 to R260): who issued it (a context, or a queue entry), its channel, kind, block
lengths, order, call count, member index and group size, the boxes with the origins of its runs and of its counters,
the first packets and the source runs received by member, the chunks made final, and whether it has started. -/
structure Coll where
  h     : Option Nat
  q     : Option Nat
  dev   : Nat
  dctx  : Nat
  chan  : Nat
  k     : Nat
  n     : Nat
  chunk : Nat
  ord   : Nat
  count : Nat
  me    : Nat
  g     : Nat
  src   : Desc
  sorg  : List Nat
  dst   : Desc
  dorg  : List Nat
  ctr   : Desc
  corg  : List Nat
  peers : List (Nat × Nat)
  acq   : Option (Nat × Nat)
  firsts : SMap (List Nat)
  parts : SMap (List (Nat × Tag))
  susp  : Option Nat
  refused : Bool
  final : Nat
  going : Bool
  deriving DecidableEq, Repr

/-- A timed event of a span (R328): 1 launch, 2 pre-emption, 3 checkpoint, 4 resume, 6 a refused checkpoint; its timestamp and span-wide number;
the contexts whose checkpoint records wait for it, or the spawn entry or queue entry it starts; whether this member has acted,
the members that have acknowledged, the member that asked for it, plus 1, and what the coordinator has done about stragglers: 0
nothing yet, 1 it waits, 2 a straggler came late, 3 none was late. -/
structure Timed where
  kind : Nat
  t    : Word
  num  : Nat
  who  : List Nat
  ent  : Option Nat
  qent : Option Nat
  done : Bool
  acks : List Nat
  asker : Nat
  strag : Nat
  deriving DecidableEq, Repr

/-- The fabric as this package sees it (R331 to R341): own peer number, FADP, FBKO, the peer table, the packets in
flight, the pairs by device, device context and peer (each context of a span goes on with its own numbers, R143), the packets that wait for a link to come up, and the duplicates of R367. -/
structure Net where
  fpeer : Nat
  fadp  : Word
  fbko  : Word
  peers : SMap Nat
  far   : SMap Far
  eg    : SMap Egress
  ing   : SMap Ingress
  route : SMap Word               -- the router tables, entry p of I/O die d at 2,048 d + p (R333)
  out   : List (Nat × Nat × Nat × Pkt)   -- with the I/O die they wait at, INT and HOPS
  refused : SMap Nat              -- receiver-not-ready answers given, by source (R339)
  mir   : List (Nat × Nat × Bool)   -- writes whose duplicates are out, by address, with their acceptance (R367)
  deriving DecidableEq, Repr

/-- The fabric at reset (R331 to R339). -/
def Net.zero : Net :=
  { fpeer := 0, fadp := 64, fbko := 1000, peers := [], far := [], eg := [], ing := [], route := [], out := [], refused := [], mir := [] }

end Sys2Proof.Machine
end

