-- ==== Sys2Proof/Machine/Plat.lean ====
section
/-! DEFINITION. The state around the cores: queues of the bellows, images and checkpoints, the host interface, the
management controller, links, keys and sessions. -/

namespace Sys2Proof.Machine

/-- A suspended copy by its fault id (R97, R323): an engine command, or a conversion by its placement index. -/
inductive Susp where
  | cmd (id : Nat)
  | conv (pl : Nat)
  | coll (id : Nat)
  deriving DecidableEq, Repr

/-- A context reserved for a launched task (R313, R318): the number of the queue entry, the launching member as in a task,
the device context, the entry's words, and the timestamp of a TLAUNCH. -/
structure Resv where
  ent  : Nat
  lead : Nat
  dev  : Nat
  dctx : Nat
  ws   : List Word
  at'  : Option Word
  deriving DecidableEq, Repr

/-- A saved image (R62, R63): the contexts of the partition with their scratchpads, cores and clusters, its engine
commands, its packets in back-off (R143), reserved contexts, and the events due with the cycles left to them. -/
structure Image where
  hw    : SMap Ctx
  sp    : SMap Byte
  spTag : SMap Tag
  cores : SMap (Option Nat)
  calls : SMap (SMap CallEnt)
  cmds  : SMap Cmd
  far   : SMap Far
  launch : SMap Resv
  evs   : List (Nat × Instr)
  deriving DecidableEq, Repr

/-- The image of a context that has just been created (R63). -/
def Image.zero : Image := { hw := [], sp := [], spTag := [], cores := [], calls := [], cmds := [], far := [], launch := [], evs := [] }

/-- A queue entry taken and not completed (R310 to R313): its number, its index, its words, whether it has started, the
contexts of its task on this device, the first issue of the task, the members' reports of their checks and of the ends
(R319; 256 in `checks` for a reservation), the quench clock in wall cycles, plus 1 once it has run, with the wall cycle at
which it last began to run, the stages that have acted (R324), and STATUS and INFO once they are known. -/
structure QEnt where
  id    : Nat
  pos   : Nat
  ws    : List Word
  started : Bool
  ctxs  : List Nat
  checks : SMap Nat
  ends  : SMap (Nat × Word)
  clk   : Nat
  since : Option Nat
  stage : Nat
  num   : Nat                     -- the sequence number that a COLL or CONV has taken (R311)
  fin   : Option (Nat × Nat)
  deriving DecidableEq, Repr

/-- A queue (R309). -/
structure Queue where
  cfg   : Word
  base  : Word
  tail  : Nat
  head  : Nat
  lim   : Word
  lim3  : Word
  err   : Bool
  fenced : Bool
  killed : Bool
  pre   : Bool
  lastDie : Option Nat
  ents  : List QEnt
  deriving DecidableEq, Repr

/-- A queue at reset (R309). -/
def Queue.zero : Queue :=
  { cfg := 0, base := 0, tail := 0, head := 0, lim := 0, lim3 := 0, err := false, fenced := false, killed := false,
    pre := false, lastDie := none, ents := [] }

/-- The bellows: its queues, the queue each device served last (R317), the entries whose start and whose completion are
due by queue and number, and the contexts on which a launched task is to start. -/
structure Bel where
  qs     : SMap Queue
  served : SMap Nat
  starts : List (Nat × Nat)
  dones  : List (Nat × Nat)
  tasks  : List Nat
  launch : SMap Resv              -- reserved contexts
  placed : SMap Nat               -- by launching member and queue: the die used last here by launches of other members
  deriving DecidableEq, Repr

/-- The pre-emption of a device's partition (R160, R317, R328): requested, halted, the context that comes in, plus 1, and the timed
event served. -/
structure Part where
  asked : Bool
  halt  : Bool
  next  : Nat
  num   : Nat
  deriving DecidableEq, Repr

/-- A partition that runs. -/
def Part.zero : Part := { asked := false, halt := false, next := 0, num := 0 }

/-- What a buddy keeps of a ward (R365, R367): the mirror copy, bytes by virtual address and tags by granule of it; the journal, of
address, key, bytes and tag; and its last complete image with its number and timestamp. -/
structure Ward where
  copy  : SMap Byte
  tags  : SMap Tag
  log   : List (Nat × Nat × List Byte × Option Tag)
  num   : Nat
  t     : Word
  image : List Byte
  deriving DecidableEq, Repr

/-- A posted write not acknowledged (R359, R360): its number, the request, the pieces still to be acknowledged by their
numbers with place, bytes and tag, and whether they have left. -/
structure Posted where
  id    : Nat
  req   : Req
  ps    : List (Nat × Piece)
  regs  : Bool
  sent  : Bool
  deriving DecidableEq, Repr

/-- A function of a port (R350 to R358). -/
structure Fn where
  fctl  : Word
  irqen : Word
  aperr : Word
  aperra : Word
  apw   : SMap Word               -- APWBASE k at 2k, APWCFG k at 2k + 1
  pwbase : Word
  unmask : SMap Bool              -- vectors not masked
  pend  : SMap Bool
  msix  : SMap Word               -- the message address and data of a vector
  posted : List Posted
  reads : List (Nat × Req × SMap Word)   -- with the window registers as they stood at arrival (R354)
  deriving DecidableEq, Repr

/-- A function at reset; vectors are masked at reset, assumption log 12. -/
def Fn.zero : Fn :=
  { fctl := 0, irqen := 0, aperr := 0, aperra := 0, apw := [], pwbase := 0, unmask := [], pend := [], msix := [],
    posted := [], reads := [] }

/-- A PCI Express port (R347, R351). -/
structure PcPort where
  up    : Bool
  fail  : Bool
  flit  : Bool
  width : Nat
  rate  : Nat
  deriving DecidableEq, Repr

/-- A port at reset (R351). -/
def PcPort.zero : PcPort := { up := false, fail := false, flit := false, width := 0, rate := 0 }

/-- The host interface: functions by port x 4 + function, ports, and by port the leaf translations that the ordering point of its I/O
die holds, newest first (R355). -/
structure HostSt where
  fns   : SMap Fn
  ports : SMap PcPort
  apTlb : SMap (List TlbEnt)
  deriving DecidableEq, Repr

/-- What the device sends to the host and the management bus. -/
inductive Out where
  /-- a read completion, or Unsupported Request where no data stand (R355, R361) -/
  | cpl (port fn id : Nat) (data : Option (List Byte))
  /-- a message of a vector (R353) -/
  | msi (port fn vec : Nat)
  /-- an SPDM response on a bus: its code, and the fields it carries -/
  | spdm (bus code : Nat) (args : List Nat)
  /-- an owner key sent to a peer with its grant (R373) -/
  | key (k peer : Nat) (grant : Bool)
  deriving DecidableEq, Repr

/-- A firmware image as the boot ROM sees it (R371): the digest of its signing key, whether its signature verifies under
that key, and its security version; assumption log 50. -/
structure FwImage where
  digest : Nat
  sigOk  : Bool
  sv     : Word
  deriving DecidableEq, Repr

/-- The management controller and the firmware (R371, R375, R379, R381). `link` holds the records of the link log. -/
structure Mgt where
  state : Nat
  fwsv  : Word
  duty  : Nat
  trip  : Bool
  err   : Bool
  flow  : Nat
  beats : Bool
  retiv : Word
  wlim  : Nat
  tlim  : Nat
  pwr   : Nat
  temp  : Word
  ember : SMap Nat                -- by device, the context whose image the ember stores hold, plus 1 (R62)
  bad   : List Nat                -- granules whose accesses an error beyond correction holds (R78)
  llcnt : Nat
  link  : SMap (Word × Word)
  errs  : SMap Word
  rcv   : SMap Word
  dbgctl : Word
  dbgst : Word
  dbgdata : Word
  image : FwImage
  fuse  : Nat
  roll  : Word
  peer  : Nat
  peers : SMap Nat                -- the installation record: peer states and FCTL (R379)
  fctl  : SMap Word
  route : SMap Word               -- the router tables of the installation record, entry p of I/O die d at 2,048 d + p
  retry : Bool
  due   : Nat                     -- the wall cycle at which bring-up goes on
  deriving DecidableEq, Repr

/-- The servo of a device's `now` (R327): mode 0 lock, 1 holdover, 2 token; the uncertainty and the offset in ns, the time since
which the uncertainty has stayed below 1 us, and how far its corrections have brought `now` from the count of the package. -/
structure Timebase where
  mode  : Nat
  unc   : Nat
  off   : Int
  below : Option Word
  slew  : Int
  skew  : Int
  last  : Word                    -- `now` at the last timing message
  deriving DecidableEq, Repr

/-- The management controller at reset (R331, R333, R339, R381); the image, the fuses and the installation record stand as
assumption log 12 gives them. -/
def Mgt.zero : Mgt :=
  { state := 0, fwsv := 0, duty := 16, trip := false, err := false, flow := 0, beats := false, retiv := 50, wlim := 4800,
    tlim := 95, pwr := 0, temp := 0, ember := [], bad := [], llcnt := 0, link := [], errs := [], rcv := [], dbgctl := 0, dbgst := 0, dbgdata := 0,
    image := { digest := 0, sigOk := true, sv := 0 }, fuse := 0, roll := 0, peer := 0, peers := [(0, 1)], fctl := [(0, 0x88)], route := [],
    retry := false, due := 0 }

/-- The servo at reset; assumption log 12. -/
def Timebase.zero : Timebase := { mode := 0, unc := 0, off := 0, below := none, slew := 0, skew := 0, last := 0 }

/-- The bellows at reset (R309). -/
def Bel.zero : Bel := { qs := [], served := [], starts := [], dones := [], tasks := [], launch := [], placed := [] }

/-- The host interface at reset (R350 to R358). -/
def HostSt.zero : HostSt := { fns := [], ports := [], apTlb := [] }

/-- A flit on a link (R335, R337, R338): its 32-bit link sequence number, its epoch, the key and the nonce it is encrypted under, the
packet it belongs to, whether it is the last one of it, INT and HOPS of its header, the next number that the sender expects of the other
direction, which acknowledges those before it, and the number from which it asks for a resend. -/
structure Flit where
  seq   : Nat
  epoch : Bool
  key   : Nat
  nonce : Nat
  pkt   : Pkt
  last  : Bool
  int   : Nat
  hops  : Nat
  ack   : Nat
  nak   : Option Nat
  deriving DecidableEq, Repr

/-- A Ramgan port (R336 to R338, R374): the packets in `wait` stand behind the replay buffer, with INT, HOPS and the flits of them that
are in it already; the flits in `replay` have been sent and not acknowledged; `resend` is the flit from which the other end has asked for
them again, and `ask` that this end has asked. -/
structure Link where
  gen   : Nat
  lanes : Nat
  up    : Bool
  sess  : Bool
  epoch : Bool
  keys  : SMap Nat                -- key slots of the sender by epoch bit: the number of the key
  rkeys : SMap Nat                -- key slots of the receiver
  repoch : Bool                   -- the epoch of the flits that come
  next  : Nat                     -- number of the next key of the session
  sent  : Nat                     -- flits sent in the epoch
  txseq : Nat
  rxseq : Nat
  wait  : List (Nat × Nat × Pkt × Nat)
  replay : List Flit
  resend : Option Nat
  ask   : Bool
  rx    : List (Flit × Bool)      -- flits that have come, and whether they verify
  deriving DecidableEq, Repr

/-- A link that is down. -/
def Link.zero : Link :=
  { gen := 0, lanes := 0, up := false, sess := false, epoch := false, keys := [], rkeys := [], repoch := false, next := 0, sent := 0,
    txseq := 0, rxseq := 0, wait := [], replay := [], resend := none, ask := false, rx := [] }

/-- The SPDM responder on a bus (R372, R380): the requests that have come, how far the negotiation has gone, and the
session: 0 none, 1 keys exchanged, 2 established, with its number and key update count. -/
structure Spdm where
  inbox : List (Nat × List Nat)   -- request code and the fields it carries
  stage : Nat
  sess  : Nat
  num   : Nat
  upd   : Nat
  deriving DecidableEq, Repr

/-- A responder that has seen no request. -/
def Spdm.zero : Spdm := { inbox := [], stage := 0, sess := 0, num := 0, upd := 0 }

/-- An owner-key slot that is loaded (R373): the number of its key, its grant, and the session that made it. -/
structure KeySlot where
  key   : Nat
  grant : Bool
  maker : Option Nat
  deriving DecidableEq, Repr

end Sys2Proof.Machine
end

