-- ==== Sys2Proof/Machine/State.lean ====
section
/-! DEFINITION. The whole state of the part as plain data, its value after reset, and the reasons a step can stop. -/

namespace Sys2Proof.Machine

/-- Clocks and the model's own counters: the wall cycle, the core turn within it, a counter of passages and numbers,
the count of free values drawn (log 2), the hammer count w (R159) and the TAI nanoseconds that the package has counted, which each device corrects (R327). -/
structure Clock where
  wall  : Nat
  turn  : Nat
  tick  : Nat
  frees : Nat
  w     : Nat
  now   : Word
  deriving DecidableEq, Repr

/-- Storage: scratchpad bytes and tags, zero where unlisted (R379); device-memory bytes and tags by stack address,
with no value where unlisted (R75, log 3); the seal each granule of it was last written under, plus 1 (R73, R74). -/
structure Mem where
  sp     : SMap Byte
  spTag  : SMap Tag
  hbm    : SMap Byte
  hbmTag : SMap Tag
  hbmKey : SMap Nat
  deriving DecidableEq, Repr

/-- A device context of one device (R308, R321): its creation parameters, its tables, the counts of its fault area and
time log, and what the span keeps for it. -/
structure DCtx where
  live  : Bool
  ending : Bool                   -- a DESTROY of it is under way (R400)
  key   : Nat
  psplit : Nat
  hmr   : Word
  msh   : Word
  mco   : Word
  ptb   : Word
  mtab  : SMap Nat
  place : SMap PlEnt
  seqc  : SMap Nat
  chan  : SMap (Word × Word)
  chq   : SMap (List (List Byte))
  chres : SMap Nat
  chnew : SMap Bool               -- send ends that no task has bound since word 0 was written (R340, R341)
  chbuf : SMap (SMap (List Byte × Nat))   -- elements that have come ahead of their channel sequence (R341)
  spawn : SMap CallEnt
  nspawn : Nat
  drcfg : SMap Word
  drcnt : Nat
  flux  : List Pkt
  timed : List Timed
  evnum : Nat
  ckcfg : SMap Word
  dmode : Nat
  spol  : Nat
  coord : Nat
  buddy : Nat
  fq    : Word
  tlog  : Word
  fqcnt : Nat
  tlcnt : Nat
  susp  : SMap Susp               -- suspended copies by fault id (R97, R323)
  mirror : List (Nat × Nat)       -- registered footprints (R367)
  misses : SMap Nat               -- heartbeats missed, by member (R363)
  ckNext : Word                   -- when the period asks for the next checkpoint (R370)
  back  : Option (Nat × Word × Nat)   -- a rollback to come: checkpoint, resumption, peer lost plus 1 (R365)
  away  : Bool                    -- swapped out until a TRESUME (R313)
  lost  : Option Nat              -- the peer whose loss is being recovered (R368)
  buddies : SMap Nat              -- the buddies that heartbeats have named, by member (R368)
  risk  : List Nat                -- peers whose loss before a checkpoint completes cannot be recovered (R368)
  gone  : List Nat                -- peers whose loss has ended the span (R368)
  deriving DecidableEq, Repr

/-- A device context before its creation. -/
def DCtx.zero : DCtx :=
  { live := false, ending := false, key := 0, psplit := 0, hmr := 0, msh := 0, mco := 0, ptb := 0, mtab := [], place := [], seqc := [],
    chan := [], chq := [], chres := [], chnew := [], spawn := [], nspawn := 0, drcfg := [], drcnt := 0, flux := [], timed := [],
    evnum := 0, ckcfg := [], chbuf := [], dmode := 0, spol := 0, coord := 0, buddy := 0, fq := 0, tlog := 0,
    fqcnt := 0, tlcnt := 0, susp := [], mirror := [], misses := [], ckNext := 0, back := none, away := false, lost := none,
    buddies := [], risk := [], gone := [] }

/-- A checkpoint (R365): its number and timestamp, the image, the device context with its tables and counters, its queues,
the egress and ingress counters of the device, the slot of the OWN area it lies in, and whether it is complete. -/
structure Ckpt where
  num  : Nat
  t    : Word
  img  : Image
  dc   : DCtx
  qs   : SMap Queue
  eg   : SMap Egress
  ing  : SMap Ingress
  slot : Nat
  full : Bool
  deriving DecidableEq, Repr

/-- What stopped an issue (R155, R151, R150): a trap, a block or a stall. A trap carries what its cause also
writes (R225) and, for a block transfer, the rows that completed before it (R239). -/
structure TrapInfo where
  cause : Nat
  info  : Nat
  slot  : Nat
  asy   : Bool
  sregs : List (Nat × Word)
  regs  : List Wr
  mem   : List Piece
  blk   : Option (Nat × Nat × Nat)
  deriving DecidableEq, Repr

/-- Why the operations of an issue take no effect. -/
inductive Stop where
  | trap (t : TrapInfo)
  | block (w : Why)
  | stall (cause : Nat)           -- the stall causes of R377
  | late (ps : List Place)        -- a read at issue that waits for an array to leave retention (R77)
  deriving DecidableEq, Repr

/-- Where the bundle after this one stands (R166). -/
inductive Target where
  | seq                           -- the loop end test and sequential flow
  | addr (a : Word)               -- a B-slot target
  deriving DecidableEq, Repr

/-- The issue in progress (R166): the context, the bundle's address and size, whether it is the last issue, the
operations still to come, the resolved sticky operands by slot, and what the operations have settled so far. -/
structure Iss where
  h     : Nat
  addr  : Word
  size  : Nat
  last  : Bool
  first : Nat                     -- the number its first latch will take
  later : List Instr
  re    : SMap Stick
  tgt   : Target
  yield : Bool
  after : Option TrapInfo         -- a trap after the bundle (R89, R229)
  stop  : Option Stop
  gone  : Bool                    -- the issue has been retired
  deriving DecidableEq, Repr

/-- The machine. -/
structure State where
  clk    : Clock
  agenda : List (Nat × Instr)
  iss    : Option Iss
  hw     : SMap Ctx
  cores  : SMap CoreSt
  ham    : SMap Nat
  clus   : SMap Cluster
  cmds   : SMap Cmd
  colls  : SMap Coll
  dctx   : SMap DCtx
  mem    : Mem
  dieMode : Nat
  net    : Net
  res    : SMap Nat               -- resident device context of a device, plus 1 (R308)
  images : SMap Image             -- images of the others, by device and context
  ckpts  : SMap (List Ckpt)       -- checkpoints of a device context (R365)
  ward   : SMap Ward              -- what this device keeps as buddy of another, by its peer number (R367)
  part   : SMap Part              -- pre-emption of a device's partition (R160)
  bel    : Bel
  host   : HostSt
  mgt    : Mgt
  tbs    : SMap Timebase          -- the timebase of each device (R327)
  links  : SMap Link
  pkg    : SMap Nat               -- width lost by a package link in eighths (R344)
  spdm   : SMap Spdm
  keys   : SMap KeySlot
  outs   : List Out
  deriving DecidableEq, Repr

/-- The machine right after reset (R379): nothing runs, every array is zero, device memory has no content (R75), and the
next event is POWER_ON_RESET. Values the spec does not give are named in assumption log 12. -/
def State.reset : State :=
  { clk := { wall := 0, turn := 0, tick := 1, frees := 0, w := 0, now := 0 },
    agenda := [(0, .powerOnReset)], iss := none, hw := [], cores := [], ham := [], clus := [], cmds := [], colls := [],
    dctx := [], mem := { sp := [], spTag := [], hbm := [], hbmTag := [], hbmKey := [] }, dieMode := 0, net := Net.zero,
    res := [], images := [], ckpts := [], ward := [], part := [], bel := Bel.zero, host := HostSt.zero, mgt := Mgt.zero,
    tbs := [], links := [], pkg := [], spdm := [], keys := [], outs := [] }

/-- Reasons the machine stops with a fault. -/
inductive Fault where
  /-- raised by a slot operation executed while no context is issuing a bundle; safe: no step reaches it -/
  | noIssuingContext
  deriving DecidableEq, Repr

/-- Reasons for which an instruction has no meaning. -/
inductive Refusal where
  /-- raised by an arm of exec that has no meaning yet; safe: the machine stops -/
  | notModelled (mnemonic : String)
  deriving DecidableEq, Repr

end Sys2Proof.Machine
end

