-- ==== Sys2Proof/Machine/Ops.lean ====
section
/-! DEFINITION. The named operations over the state: contexts, registers, storage, translation, the agenda, the
exposed latches, taking a trap and returning from it, and the retirement of an issue. -/

namespace Sys2Proof.Machine

/-! Places on the part (R144, R146). A context is numbered ((die x 10 + cluster) x 64 + core) x 4 + context. -/

/-- The core of a context. -/
def coreOf (h : Nat) : Nat := h / 4
/-- The cluster of a context, die x 10 + cluster. -/
def cluOf (h : Nat) : Nat := h / 256
/-- The compute die of a context. -/
def dieOf (h : Nat) : Nat := h / 2560

/-- The context numbered `h`; one that has never run is free (R146). -/
def State.ctx (s : State) (h : Nat) : Ctx := (mfind s.hw h).getD Ctx.zero

/-- The context numbered `h` replaced. -/
def State.setCtx (s : State) (h : Nat) (c : Ctx) : State := { s with hw := mins s.hw h c }

/-- The context numbered `h` changed. -/
def State.modCtx (s : State) (h : Nat) (f : Ctx → Ctx) : State := s.setCtx h (f (s.ctx h))

/-- A core (R144). -/
def State.core (s : State) (k : Nat) : CoreSt := (mfind s.cores k).getD CoreSt.zero
def State.setCore (s : State) (k : Nat) (c : CoreSt) : State := { s with cores := mins s.cores k c }
def State.modCore (s : State) (k : Nat) (f : CoreSt → CoreSt) : State := s.setCore k (f (s.core k))

/-- A cluster (R70, R84). -/
def State.clu (s : State) (k : Nat) : Cluster := (mfind s.clus k).getD Cluster.zero
def State.setClu (s : State) (k : Nat) (c : Cluster) : State := { s with clus := mins s.clus k c }
def State.modClu (s : State) (k : Nat) (f : Cluster → Cluster) : State := s.setClu k (f (s.clu k))

/-- A device context of a device (R308). -/
def State.dc (s : State) (d c : Nat) : DCtx := (mfind s.dctx (d * 16 + c)).getD DCtx.zero
def State.setDc (s : State) (d c : Nat) (x : DCtx) : State := { s with dctx := mins s.dctx (d * 16 + c) x }
def State.modDc (s : State) (d c : Nat) (f : DCtx → DCtx) : State := s.setDc d c (f (s.dc d c))

/-- A fresh number, larger than every number given before. -/
def State.bump (s : State) : State := { s with clk := { s.clk with tick := s.clk.tick + 1 } }

/-- One free value drawn; assumption log 2. -/
def State.draw (s : State) : State := { s with clk := { s.clk with frees := s.clk.frees + 1 } }

/-- An event put into the agenda at its wall cycle, behind the events of the same cycle; assumption log 1. -/
def schedIn (due : Nat) (i : Instr) : List (Nat × Instr) → List (Nat × Instr)
  | [] => [(due, i)]
  | (t, j) :: l => if due < t then (due, i) :: (t, j) :: l else (t, j) :: schedIn due i l

/-- An event due `delay` wall cycles from now. -/
def State.sched (s : State) (delay : Nat) (i : Instr) : State :=
  { s with agenda := schedIn (s.clk.wall + delay) i s.agenda }

/-- Whether an event is due. -/
def State.hasEvent (s : State) (e : Instr) : Bool := s.agenda.any fun x => x.2 == e

/-- An event put into the agenda unless it stands there. -/
def State.schedOnce (s : State) (delay : Nat) (e : Instr) : State := if s.hasEvent e then s else s.sched delay e

/-! Register space (R54). -/

/-- Bytes of register space. g0 reads as zero, since no write changes it. -/
def Ctx.rsBytes (c : Ctx) (a n : Nat) : List Byte := mgets 0 c.f.rs a n

/-- A scalar register (R54). -/
def Ctx.g (c : Ctx) (n : BitVec 5) : Word := BitVec.ofNat 64 (ofBytes (c.rsBytes (8 * n.toNat) 8))

/-- The tag of a register granule (R34). -/
def Ctx.rtag (c : Ctx) (gr : Nat) : Tag := mget 0 c.f.tag gr

/-- Bytes written to register space; bytes 0 to 7 are g0 and stay as they are (R54). -/
def rsPut : SMap Byte → Nat → List Byte → SMap Byte
  | m, _, [] => m
  | m, a, b :: bs => rsPut (if a < 8 then m else mput 0 m (a % 16384) b) (a + 1) bs

/-- Bits of register space set to zero, from bit 0 of a byte on. -/
def rsZero (m : SMap Byte) (a bits : Nat) : SMap Byte :=
  let m := rsPut m a (List.replicate (bits / 8) 0)
  if bits % 8 = 0 then m
  else rsPut m (a + bits / 8) [BitVec.ofNat 8 ((mget 0 m (a + bits / 8)).toNat / 2 ^ (bits % 8) * 2 ^ (bits % 8))]

/-- A predicate (R193). -/
def Ctx.pred (c : Ctx) (n : BitVec 4) : Bool := n == 0 || c.f.pr.getLsbD n.toNat

/-- A guard (R171). -/
def Ctx.guard (c : Ctx) (g : Guard) : Bool := c.pred g.p != (g.n == 1)

/-- A descriptor slot (R11). -/
def Ctx.box (c : Ctx) (n : Nat) : Desc := mget Desc.none c.bx n

/-- A loop level (R201). -/
def Ctx.loop (c : Ctx) (l : Nat) : Loop := mget Loop.zero c.loops l

/-! Descriptors (R13). -/

def Desc.valid (d : Desc) : Bool := bitOf d.w3 33
def Desc.fmt (d : Desc) : Nat := fld d.w3 38 34
def Desc.rank (d : Desc) : Nat := fld d.w3 40 39 + 1
def Desc.level (d : Desc) : Nat := fld d.w3 42 41
def Desc.acc (d : Desc) : Nat := fld d.w3 44 43
def Desc.place (d : Desc) : Nat := fld d.w3 54 45
def Desc.key (d : Desc) : Nat := fld d.w3 62 55
def Desc.mirror (d : Desc) : Bool := bitOf d.w3 63
def Desc.base (d : Desc) : Nat := d.w0.toNat
/-- The extents E0 to E3. -/
def Desc.exts (d : Desc) : List Nat := [fld d.w1 15 0, fld d.w1 31 16, fld d.w1 47 32, fld d.w1 63 48]
def Desc.ext (d : Desc) (i : Nat) : Nat := d.exts.getD i 0
/-- STRIDE1 to STRIDE3. -/
def Desc.strides (d : Desc) : List Nat := [fld d.w2 31 0, fld d.w2 63 32, fld d.w3 31 0]

/-- The row of granules that coordinates d1 to d3 name (R17). -/
def Desc.row (d : Desc) (c1 c2 c3 : Nat) : Nat :=
  c1 * d.strides.getD 0 0 + c2 * d.strides.getD 1 0 + c3 * d.strides.getD 2 0

/-- The location of the granule that holds element `c0` of a row (R17). -/
def Desc.granLoc (d : Desc) (c0 c1 c2 c3 : Nat) : Nat := d.base + 64 * (d.row c1 c2 c3 + c0 / fmtPer d.fmt)

/-- The byte offset of element `c0` in its granule; for a narrow element, of the byte that holds its first bit. -/
def Desc.inGran (d : Desc) (c0 : Nat) : Nat := elemBit d.fmt (c0 % fmtPer d.fmt) / 8

/-! Devices and physical storage (R64, R346). Die mode 0 WHOLE, 1 HALVES, 2 DIES. -/

/-- The device a compute die belongs to. -/
def State.devOfDie (s : State) (die : Nat) : Nat :=
  if s.dieMode = 0 then 0 else if s.dieMode = 1 then die / 4 else die
/-- The devices that the die mode presents. -/
def State.devices (s : State) : List Nat := if s.dieMode = 0 then [0] else if s.dieMode = 1 then [0, 1] else List.range 8
def State.devOf (s : State) (h : Nat) : Nat := s.devOfDie (dieOf h)
/-- The number of stacks of a device. -/
def State.stacks (s : State) : Nat := if s.dieMode = 0 then 8 else if s.dieMode = 1 then 4 else 1
/-- The bytes of the physical space of a device. -/
def State.physSpace (s : State) : Nat := s.stacks * 2 ^ 36
/-- The stack address of a physical byte (R64). -/
def State.hbmAddr (s : State) (dev pa : Nat) : Nat :=
  let n := s.stacks
  let pg := pa / 2048
  (dev * n + pg % n) * 2 ^ 36 + pg / n * 2048 + pa % 2048

/-- What binds the contents of a granule (R73 to R75): the owner key index, the physical granule that is the tweak, of which the
2 KiB block is enough, since a stack address gives the rest, and the key that the index's slot holds, 0 where it holds none;
assumption log 3. -/
def State.seal (s : State) (pa key : Nat) : Nat :=
  key + 256 * (pa / 2048 + 2 ^ 28 * (match mfind s.keys key with | some x => x.key + 1 | none => 0))

/-- The key index of a seal. -/
def sealKey (n : Nat) : Nat := n % 256

/-- The place of a physical byte of a device under an owner key index. -/
def State.hbmPlace (s : State) (dev pa key : Nat) : Place := .hbm (s.hbmAddr dev pa) (s.seal pa key)

/-- The scratchpad byte of a pool offset of a cluster (R19); `own` is O. -/
def poolAddr (clu own q : Nat) : Nat :=
  let gr := q / 64
  (clu * 64 + gr % 64) * 2 ^ 18 + own + 64 * (gr / 64) + q % 64

/-! Time (R327). -/

/-- The timebase of a device, and it changed. -/
def State.tb (s : State) (dev : Nat) : Timebase := (mfind s.tbs dev).getD Timebase.zero
def State.modTb (s : State) (dev : Nat) (f : Timebase → Timebase) : State := { s with tbs := mins s.tbs dev (f (s.tb dev)) }

/-- `now` of a device. -/
def State.now (s : State) (dev : Nat) : Word := s.clk.now + BitVec.ofNat 64 (wrapTo 64 (s.tb dev).skew)

/-! Storage (R60, R64, R73 to R75). -/

/-- The seal of a device-memory granule, plus 1; 0 where none was written. -/
def Mem.keyOf (m : Mem) (a : Nat) : Nat := mget 0 m.hbmKey (a / 64)

/-- The canonical form of storage: every map sorted by its key without repeats, and no entry that equals what an unlisted
address reads as. -/
def Mem.wf (m : Mem) : Bool :=
  mwf 0 m.sp && mwf 0 m.spTag && mkeysFrom none m.hbm && mkeysFrom none m.hbmTag && mwf 0 m.hbmKey

/-- One byte as it stands; none where device memory holds nothing written under the same seal. -/
def Mem.byte (m : Mem) (p : Place) : Option Byte :=
  match p with
  | .sp a => some (mget 0 m.sp a)
  | .hbm a k => if m.keyOf a = k + 1 then mfind m.hbm a else none

/-- A place some bytes on. -/
def Place.add (p : Place) (n : Nat) : Place :=
  match p with
  | .sp a => .sp (a + n)
  | .hbm a k => .hbm (a + n) k

/-- The tag of the granule of a place (R34, R74). -/
def Mem.tag (m : Mem) (p : Place) : Option Tag :=
  match p with
  | .sp a => some (mget 0 m.spTag (a / 64))
  | .hbm a k => if m.keyOf a = k + 1 then mfind m.hbmTag (a / 64) else none

/-- The bytes of a granule forgotten, when it passes under another seal (R75). -/
def wipeGran (m : SMap Byte) (a : Nat) : Nat → SMap Byte
  | 0 => m
  | n + 1 => wipeGran (mdel m (a / 64 * 64 + n)) a n

/-- A granule of device memory brought under a seal: what another one wrote there is no longer readable (R75). -/
def Mem.own (m : Mem) (a k : Nat) : Mem :=
  if m.keyOf a = k + 1 then m
  else { m with hbm := wipeGran m.hbm a 64, hbmTag := mdel m.hbmTag (a / 64), hbmKey := mput 0 m.hbmKey (a / 64) (k + 1) }

/-- Bytes written within one granule. -/
def Mem.write (m : Mem) (p : Place) (bs : List Byte) : Mem :=
  match p with
  | .sp a => { m with sp := mputs 0 m.sp a bs }
  | .hbm a k => let m := m.own a k; { m with hbm := minss m.hbm a bs }

/-- The tag of a granule set. -/
def Mem.setTag (m : Mem) (p : Place) (t : Tag) : Mem :=
  match p with
  | .sp a => { m with spTag := mput 0 m.spTag (a / 64) t }
  | .hbm a k => let m := m.own a k; { m with hbmTag := mins m.hbmTag (a / 64) t }

/-- A piece written at its home, with the tag it carries. -/
def Mem.writePiece (m : Mem) (p : Piece) : Mem :=
  let m := m.write p.pl p.data
  match p.tag with
  | some t => m.setTag p.pl t
  | none => m

/-- Bytes of device memory that hold nothing any more (R106). -/
def Mem.forget (m : Mem) (a : Nat) : Nat → Mem
  | 0 => m
  | n + 1 => ({ m with hbm := mdel m.hbm (a + n) }).forget a n

/-- What stands at some addresses of device memory forgotten: it reads as free values from then on. -/
def Mem.forgetWhere (m : Mem) (p : Nat → Bool) : Mem :=
  { m with hbm := m.hbm.filter fun x => !p x.1, hbmTag := m.hbmTag.filter fun x => !p (64 * x.1) }

/-- Bytes read; a byte with no value is a free value each time it is read (R75); assumption log 3. -/
def State.readBytes (s : State) (p : Place) : Nat → List Byte × State
  | 0 => ([], s)
  | n + 1 =>
    match s.mem.byte p with
    | some b => let (bs, s') := s.readBytes (p.add 1) n; (b :: bs, s')
    | none =>
      let (bs, s') := s.draw.readBytes (p.add 1) n
      (Config.freeByte s.clk.frees :: bs, s')

/-- A tag read, a free value where none was written (R75). -/
def State.readTag (s : State) (p : Place) : Tag × State :=
  match s.mem.tag p with
  | some t => (t, s)
  | none => (Config.freeTag s.clk.frees, s.draw)

/-- Bytes written at a home. -/
def State.writeBytes (s : State) (p : Place) (bs : List Byte) : State := { s with mem := s.mem.write p bs }
def State.writeTag (s : State) (p : Place) (t : Tag) : State := { s with mem := s.mem.setTag p t }

/-! Retention, and the accesses held by an error (R77, R78). -/

/-- The wall cycles in 2 us, the time into or out of retention. -/
def retCycles : Nat := 2200

/-- The idle interval in wall cycles: MRETIV in microseconds, at least 10 (R77, R381). -/
def State.idleInterval (s : State) : Nat := max 10 (fld s.mgt.retiv 31 0) * 1100

/-- The bytes of an own partition of a device context (R19). -/
def DCtx.own (d : DCtx) : Nat := 2 ^ 18 - d.psplit

/-- The core whose own partition holds a scratchpad byte, or none where a pool holds it. -/
def State.ownPart (s : State) (a : Nat) : Bool :=
  let dev := s.devOfDie (a / 2 ^ 18 / 640)
  a % 2 ^ 18 < (s.dc dev (mget 0 s.res dev - 1)).own

/-- An array reached by an access, from the cycle `used` of its last access, or that at which it is active again, and the cycle at
which it began to enter retention, if it has: the cycles the access waits, and the new value of `used`. -/
def wakeArray (wall iv used : Nat) (idle : Option Nat) : Nat × Nat :=
  match idle.orElse fun _ => if wall ≥ used + iv then some (used + iv) else none with
  | some t => let r := max wall (t + retCycles) + retCycles; (r - wall, r)
  | none => (used - wall, max wall used)

/-- The bytes of all scratchpads, below which the address of an error names one; device memory follows. -/
def spSpace : Nat := 5120 * 2 ^ 18

/-- The address of an error at a place. -/
def Place.errAddr : Place → Nat
  | .sp a => a
  | .hbm a _ => spSpace + a

/-- An access reaches a place: the wall cycles it waits for the array to be active, and the state with the array active from then on.
An array in use will be looked at again after the idle interval. An access to a granule with an error beyond correction is held. -/
def State.touch (s : State) (p : Place) : Nat × State :=
  if s.mgt.bad.contains (p.errAddr / 64) then (retCycles, s)
  else
    match p with
    | .hbm _ _ => (0, s)
    | .sp a =>
      let k := a / 2 ^ 18
      if s.ownPart a then
        let x := s.core k
        let (w, u) := wakeArray s.clk.wall s.idleInterval x.used x.idle
        (w, (s.setCore k { x with used := u, idle := none }).schedOnce (w + s.idleInterval) (.retentionEnter k))
      else
        let x := s.clu (k / 64)
        let (w, u) := wakeArray s.clk.wall s.idleInterval x.used x.idle
        (w, (s.setClu (k / 64) { x with used := u, idle := none }).schedOnce (w + s.idleInterval) (.retentionEnter (5120 + k / 64)))

/-- Several places reached: the longest wait. -/
def State.touchAll (s : State) : List Place → Nat × State
  | [] => (0, s)
  | p :: ps => let (w, s1) := s.touch p; let (v, s2) := s1.touchAll ps; (max w v, s2)

/-! Translation (R65 to R67). -/

/-- The outcome of a translation. -/
inductive Xlate where
  | ok (pa : Nat)
  | noPage                        -- translation fault
  | denied                        -- permission trap
  deriving DecidableEq, Repr

/-- A page-table word, read under owner key 0 (R66); a byte not written under that key is a free value (R75); assumption log 3. -/
def State.pteAt (s : State) (dev pa : Nat) : Word :=
  let bs := (List.range 8).map fun i =>
    (s.mem.byte (s.hbmPlace dev (pa + i) 0)).getD (Config.freePte (s.hbmAddr dev (pa + i)) s.clk.frees)
  BitVec.ofNat 64 (ofBytes bs)

/-- Whether a valid entry is malformed at a level (R66); `size` is the alignment of what it names. -/
def pteBad (e : Word) (lvl size space : Nat) : Bool :=
  let leaf := bitOf e 1
  let addr := fld e 38 8 * 256
  fld e 47 39 != 0 || fld e 63 56 != 0 || fld e 7 3 != 0 || (leaf && lvl ≥ 2) || (!leaf && lvl = 0) ||
  (!leaf && (fld e 55 48 != 0 || bitOf e 2)) || addr % size != 0 || addr ≥ space

/-- Bytes a leaf maps at a level (R65). -/
def leafSize (lvl : Nat) : Nat := if lvl = 1 then 2 ^ 21 else 2 ^ 16

/-- The walk from a level down (R65): the leaf entry and its level, or none. -/
def State.walk (s : State) (dev va tbl : Nat) : Nat → Option (Word × Nat)
  | 0 =>
    let e := s.pteAt dev (tbl + 8 * nfld va 20 16)
    if !bitOf e 0 || pteBad e 0 (2 ^ 16) s.physSpace then none else some (e, 0)
  | l + 1 =>
    let e := s.pteAt dev (tbl + 8 * (va / 2 ^ (21 + 9 * l) % 512))
    let size := if bitOf e 1 then leafSize (l + 1) else if l = 0 then 256 else 4096
    if !bitOf e 0 || pteBad e (l + 1) size s.physSpace then none
    else if bitOf e 1 then some (e, l + 1)
    else s.walk dev va (fld e 38 8 * 256) l

/-- The checks at the leaf (R67). -/
def leafCheck (e : Word) (lvl va key : Nat) (write : Bool) : Xlate :=
  if fld e 55 48 != key then .denied
  else if write && !bitOf e 2 then .denied
  else .ok (fld e 38 8 * 256 + va % leafSize lvl)

/-- Translation by a walk (R65, R67). The management context has no tables (R65). -/
def State.xlate (s : State) (dev dctx va key : Nat) (write : Bool) : Xlate :=
  if dctx = 0 then
    if va ≥ s.physSpace then .noPage else if key != 0 then .denied else .ok va
  else if va ≥ 2 ^ 48 then .noPage
  else match s.walk dev va (s.dc dev dctx).ptb.toNat 3 with
    | none => .noPage
    | some (e, l) => leafCheck e l va key write

/-- A translation held by a cluster's cache (R68). -/
def tlbFind (l : List TlbEnt) (dev dctx va : Nat) : Option TlbEnt :=
  l.find? fun t => t.dev == dev && t.dctx == dctx && t.va ≤ va && va < t.va + t.size

/-- The set of a translation cache that a page lies in, of 256; assumption log 5. -/
def TlbEnt.set (t : TlbEnt) : Nat := t.va / t.size % 256

/-- A leaf put into a cluster's cache, newest first: of the 8 leaves of its set the oldest makes room (R68). What leaves the cache is
remembered for the accesses that have used it (R69). -/
def Cluster.keepLeaf (k : Cluster) (t : TlbEnt) : Cluster :=
  let out := (k.tlb.filter fun x => x.set == t.set).drop 7
  { k with tlb := t :: k.tlb.filter fun x => !out.contains x, old := out ++ k.old }

/-- Translation for a context: through its cluster's cache, filling it by a walk on a miss (R68); the walk takes no
cycle, assumption log 5. -/
def State.xlateFor (s : State) (h dev dctx va key : Nat) (write : Bool) : Xlate × State :=
  if dctx = 0 then (s.xlate dev dctx va key write, s)
  else if va ≥ 2 ^ 48 then (.noPage, s)
  else match tlbFind (s.clu (cluOf h)).tlb dev dctx va with
    | some t => (leafCheck t.ent (if t.size = 2 ^ 21 then 1 else 0) va key write, s)
    | none =>
      match s.walk dev va (s.dc dev dctx).ptb.toNat 3 with
      | none => (.noPage, s)
      | some (e, l) =>
        let t : TlbEnt := { dev := dev, dctx := dctx, va := va / leafSize l * leafSize l, size := leafSize l, ent := e }
        (leafCheck e l va key write, s.modClu (cluOf h) fun k => k.keepLeaf t)

/-! Special registers by number (R223). -/

/-- The reserved bits of a special register read as zero and discard writes (R6). -/
def sregMask (n : Nat) : Word :=
  if n = 0x000 then 0x1F else if n = 0x001 then 0x7FFFFF else if n = 0x003 then 0xFFFF
  else if n = 0x00A then 0xFFFFFFFFFFFFFF80 else if n = 0x00C then 0xFFFFFFFFFFFFC3FF
  else if n = 0x00D ∨ (0x014 ≤ n ∧ n ≤ 0x01B) ∨ n = 0x021 then 0xFFFFFFFC
  else if n = 0x020 then 0xFFFFFFFD else if n = 0x022 then 0xFFFFFFFFC7FF00FF
  else if n = 0x026 then 0xFFFF else if n = 0x027 then 0xFF0F else if n = 0x040 ∨ n = 0x041 then 3
  else if n = 0x024 then 0xFFFFFFFF0000FFFF else if n = 0x025 then 0x7FF
  else 0xFFFFFFFFFFFFFFFF

/-- cid (R146). -/
def cidOf (h lvl : Nat) : Word :=
  atBit lvl 22 ||| atBit (h % 4) 20 ||| atBit (cluOf h) 13 ||| atBit (h / 4 % 64) 7

/-- wct (R207). -/
def wctOf (k : Counts) : Word := atBit k.tl 18 ||| atBit k.cp 12 ||| atBit k.st 6 ||| atBit k.ld 0

/-- cqs (R223). -/
def cqBits : List Bool → Nat
  | [] => 0
  | b :: l => (if b then 1 else 0) + 2 * cqBits l
def cqsOf (q : List Bool) : Word := atBit (cqBits q) 8 ||| atBit q.length 0

/-- The entries a written cqs names, the head first (R223). -/
def cqOfBits (bits : Nat) : Nat → List Bool
  | 0 => []
  | n + 1 => (bits % 2 == 1) :: cqOfBits (bits / 2) n

/-- The task's device and device context; a free context has none. -/
def State.taskDc (s : State) (c : Ctx) : DCtx :=
  match c.task with
  | some t => s.dc t.dev t.dctx
  | none => DCtx.zero

/-- A context is privileged when its device context belongs to owner key index 0 (R223). -/
def State.priv (s : State) (c : Ctx) : Bool := (s.taskDc c).key == 0

/-- The level of the task of a context (R8). -/
def Ctx.lvl (c : Ctx) : Nat :=
  match c.task with
  | some t => t.lvl
  | none => 0

/-- A special register read (R223); none for a number that names nothing. -/
def State.sreg (s : State) (h n : Nat) : Option Word :=
  let c := s.ctx h
  let d := s.taskDc c
  if n = 0x000 then some c.sys.fsr else if n = 0x001 then some c.sys.sh
  else if n = 0x002 then some (atBit c.sys.rb.toNat 0) else if n = 0x003 then some c.sys.cgm
  else if n = 0x004 then some c.sys.gmi else if n = 0x005 then some (cidOf h c.lvl)
  else if n = 0x006 then some d.msh else if n = 0x007 then some d.mco
  else if n = 0x008 then some c.ccy else if n = 0x009 then some c.scy
  else if n = 0x00A then some c.sys.bxf else if n = 0x00B then some c.sys.ovf else if n = 0x00C then some c.sys.plf
  else if n = 0x00D then some c.sys.lr else if n = 0x00E then some (wctOf c.wc) else if n = 0x00F then some c.sys.dbase
  else if 0x010 ≤ n ∧ n ≤ 0x013 then some (c.loop (n - 0x010)).lc
  else if 0x014 ≤ n ∧ n ≤ 0x017 then some (c.loop (n - 0x014)).ls
  else if 0x018 ≤ n ∧ n ≤ 0x01B then some (c.loop (n - 0x018)).le
  else if 0x01C ≤ n ∧ n ≤ 0x01F then some (c.loop (n - 0x01C)).lk
  else if n = 0x020 then some c.trp.tvec else if n = 0x021 then some c.trp.tpc
  else if n = 0x022 then some c.trp.tcs else if n = 0x023 then some c.trp.tinf
  else if n = 0x024 then some c.trp.afw0 else if n = 0x025 then some c.trp.afw1
  else if n = 0x026 then some (c.f.pr.setWidth 64 ||| 1) else if n = 0x027 then some (cqsOf c.q.cq)
  else if n = 0x040 then some d.hmr else if n = 0x041 then some c.sys.chk
  else if n = 0x042 then some d.ptb else none

/-- A special register that software never writes (R223). -/
def sregReadOnly (n : Nat) : Bool :=
  n = 0x002 || (0x004 ≤ n && n ≤ 0x009) || n = 0x00E || n = 0x00F || n = 0x024 || n = 0x025

/-- A special register that only a privileged context writes (R223). -/
def sregPriv (n : Nat) : Bool := 0x040 ≤ n && n ≤ 0x042

/-- The grant clamped to the caps of its format (R220). -/
def clampSh (v : Word) : Word :=
  let v := v &&& 0x7FFFFF
  let f := fld v 20 16
  putFld (putFld v 15 10 (min (fld v 15 10) 32)) 9 0 (min (fld v 9 0) (colCap f))

/-- A loop register by number: level and field (R223). -/
def loopRegOf (n : Nat) : Option (Nat × Nat) :=
  if 0x010 ≤ n ∧ n ≤ 0x01F then some ((n - 0x010) % 4, (n - 0x010) / 4) else none

/-- A field of a loop level: 0 lc, 1 ls, 2 le, 3 lk. -/
def Loop.fieldOf (l : Loop) (f : Nat) : Word := if f = 0 then l.lc else if f = 1 then l.ls else if f = 2 then l.le else l.lk
def Loop.setField (l : Loop) (f : Nat) (v : Word) : Loop :=
  if f = 0 then { l with lc := v } else if f = 1 then { l with ls := v } else if f = 2 then { l with le := v }
  else { l with lk := v }

/-- The next start order: above every level's (R201). -/
def Ctx.nextOrd (c : Ctx) : Nat := ((List.range 4).map fun l => (c.loop l).ord).foldl max 0 + 1

/-- A field of a level written: one that makes lc non-zero on an inactive level starts it, at the start order given (R206). -/
def Loop.wrote (l : Loop) (ord f : Nat) (v : Word) : Loop :=
  { l.setField f v with ord := if f = 0 && l.lc == 0 && v != 0 then ord else l.ord }

/-- A software write of a loop register commits (R206): what it replaces is kept for an end test that it may be too late for; assumption
log 9. -/
def Ctx.loopWrite (c : Ctx) (l f : Nat) (v : Word) : Ctx :=
  let x := c.loop l
  let w : Held := { f := f, old := x.fieldOf f, ord := x.ord, new := v, age := 0 }
  { c with loops := mput Loop.zero c.loops l { x.wrote c.nextOrd f v with held := x.held ++ [w] } }

/-- A value committed to a special register other than the loop registers, prd and cqs. -/
def SysRegs.put (r : SysRegs) (n : Nat) (v : Word) : SysRegs :=
  if n = 0x000 then { r with fsr := v } else if n = 0x001 then { r with sh := clampSh v }
  else if n = 0x003 then { r with cgm := v } else if n = 0x00A then { r with bxf := v }
  else if n = 0x00B then { r with ovf := v } else if n = 0x00C then { r with plf := v }
  else if n = 0x00D then { r with lr := v } else if n = 0x00F then { r with dbase := v }
  else if n = 0x041 then { r with chk := v } else r

/-- A value committed to a trap register. -/
def TrapRegs.put (r : TrapRegs) (n : Nat) (v : Word) : TrapRegs :=
  if n = 0x020 then { r with tvec := v } else if n = 0x021 then { r with tpc := v }
  else if n = 0x022 then { r with tcs := v } else if n = 0x023 then { r with tinf := v }
  else if n = 0x024 then { r with afw0 := v } else if n = 0x025 then { r with afw1 := v } else r

/-- A special register of a context written at its commit; reserved bits are discarded (R6). -/
def Ctx.putSreg (c : Ctx) (n : Nat) (v : Word) : Ctx :=
  let v := v &&& sregMask n
  match loopRegOf n with
  | some (l, f) => c.loopWrite l f v
  | none =>
    if n = 0x026 then { c with f := { c.f with pr := v.setWidth 16 ||| 1 } }
    else if n = 0x027 then { c with q := { c.q with cq := cqOfBits (fld v 15 8) (fld v 3 0) } }
    else if 0x020 ≤ n ∧ n ≤ 0x025 then { c with trp := c.trp.put n v }
    else { c with sys := c.sys.put n v }

/-- A special register written; hmr and ptb belong to the device context (R159, R65). -/
def State.putSreg (s : State) (h n : Nat) (v : Word) : State :=
  match (s.ctx h).task with
  | some t =>
    if n = 0x040 then s.modDc t.dev t.dctx fun d => { d with hmr := v &&& 3 }
    else if n = 0x042 then
      (if t.dctx = 0 then s else s.modDc t.dev t.dctx fun d => { d with ptb := v })
    else s.modCtx h fun c => c.putSreg n v
  | none => s.modCtx h fun c => c.putSreg n v

/-! Packets (R333, R335). -/

/-- The event that a packet is at its target, by PTYPE; 256, 257 and 258 stand for the launch message, the report and the
acknowledgement, to which the spec gives no code; assumption log 15. -/
def pktEvent (p : Pkt) : Option Instr :=
  if p.ty = 1 then some (.writePacket p) else if p.ty = 2 then some (.readRequest p)
  else if p.ty = 3 then some (.readData p) else if p.ty = 4 then some (.atomicPacket p)
  else if p.ty = 5 then some (.atomicResult p) else if p.ty = 6 then some (.fencePacket p)
  else if p.ty = 7 then some (.cancel p) else if p.ty = 8 then some (.receiverNotReady p)
  else if p.ty = 9 then some (.writeAcknowledgement p) else if p.ty = 10 then some (.channelElement p)
  else if p.ty = 11 then some (.channelCredit p) else if p.ty = 12 then some (.fluxEngineStep p)
  else if p.ty = 13 then some (.ieee1588Message p) else if p.ty = 14 then some (.startOrStopToken p)
  else if p.ty = 256 then some (.launchMessage p) else if p.ty = 257 then some (.memberReport p)
  else if p.ty = 258 then some (.memberAcknowledgement p) else none

/-- A counter of the error log advanced, saturating (R370): 0 array errors, 1 HBM errors, 2 machine checks, 3 link
replays, 4 lane halvings, 5 dropped packets, 6 receiver-not-ready answers, 7 aperture failures. -/
def State.countErr (s : State) (k : Nat) : State :=
  let v := mget 0 s.mgt.errs k
  { s with mgt := { s.mgt with errs := mput 0 s.mgt.errs k (if v + 1 = 0 then v else v + 1) } }

/-! Routing (R330 to R334, R336). -/

/-- A Ramgan port (R331, R336). -/
def State.link (s : State) (k : Nat) : Link := (mfind s.links k).getD Link.zero
def State.setLink (s : State) (k : Nat) (l : Link) : State := { s with links := mins s.links k l }

/-- The sets X and X' (R330). -/
def ringX : List Nat := [1, 2, 4, 7, 8, 9, 14, 15, 16, 19, 21, 22]
def ringX' : List Nat := [1, 3, 5, 6, 10, 11, 12, 13, 17, 18, 20, 22]

/-- The peer that a port of a peer is cabled to in the full graph (R331); port 35 has none. -/
def portPeer (p k : Nat) : Option Nat :=
  let a := p % 529 / 23
  let b := p % 23
  let t := k - 12
  if k < 12 then some (p / 23 * 23 + (b + (if p < 529 then ringX else ringX').getD k 0) % 23)
  else if k < 35 then some (if p < 529 then 529 + 23 * t + (b + 23 * 23 - t * a) % 23 else 23 * t + (a * t + b) % 23)
  else none

/-- The I/O die that a port lies on, 0 or 1 (R331). -/
def portDie (k : Nat) : Nat := k / 18

/-- Whether two peers are neighbours in the graph (R330, R331). -/
def joined (p q : Nat) : Bool := (List.range 35).any fun k => portPeer p k == some q

/-- The hops between two peers. -/
def hopsOf (p q : Nat) : Nat := if p = q then 0 else if joined p q then 1 else 2

/-- A router table entry of an I/O die (R333). -/
def State.route (s : State) (die p : Nat) : Word := mget 0 s.net.route (2048 * die + p)
def mport (e : Word) : Nat := fld e 63 58
def intOf (e : Word) (i : Nat) : Nat := fld e (55 - 11 * i) (45 - 11 * i)

/-- The I/O die at which the packets of a device enter the fabric: its own, of a whole package I/O die 0; assumption log 127. -/
def State.ioDie (s : State) (dev : Nat) : Nat := if s.dieMode = 0 then 0 else if s.dieMode = 1 then dev else dev / 4

/-- The flits of a packet (R335): a header for every 15 data flits of 128 bytes. One that carries more travels as several packets, and has
come when the last of them has. -/
def flitsOf (p : Pkt) : Nat := let d := cdiv p.data.length 128; d + max 1 (cdiv d 15)

/-- occ of a port (R333, R336): the flits queued there, those of its replay buffer included, a gen 1 flit counting 2. -/
def State.occ (s : State) (k : Nat) : Nat :=
  let l := s.link k
  if l.up then (l.wait.foldl (fun n x => n + (flitsOf x.2.2.1 - x.2.2.2)) l.replay.length) * (if l.gen = 1 then 2 else 1) else 2 ^ 40

/-- The flits of the replay buffer of a direction (R337). -/
def replayMax : Nat := 512

/-- The nonce of a flit (R338): the flits sent before it in the epoch, then the port and the direction; the direction is 1 from the higher
peer to the lower (assumption log 127). -/
def nonceOf (count port : Nat) (down : Bool) : Nat := count * 2 ^ 32 + port + (if down then 64 else 0)

/-- Flits `i` to `i + n - 1` of a packet sent (R335, R337, R338). -/
def Link.put (l : Link) (k : Nat) (down : Bool) (int hops : Nat) (p : Pkt) (i n : Nat) : Link :=
  let f (j : Nat) : Flit :=
    { seq := (l.txseq + j) % 2 ^ 32, epoch := l.epoch, key := mget 0 l.keys (if l.epoch then 1 else 0),
      nonce := nonceOf (l.sent + j) k down, pkt := p, last := i + j + 1 == flitsOf p, int := int, hops := hops, ack := l.rxseq, nak := none }
  { l with replay := l.replay ++ (List.range n).map f, txseq := (l.txseq + n) % 2 ^ 32, sent := l.sent + n }

/-- The packets that wait sent as far as the replay buffer has room. -/
def Link.fill (l : Link) (k : Nat) (down : Bool) : List (Nat × Nat × Pkt × Nat) → Link
  | [] => { l with wait := [] }
  | (int, hops, p, i) :: rest =>
    let n := min (replayMax - l.replay.length) (flitsOf p - i)
    let l := l.put k down int hops p i n
    if i + n = flitsOf p then l.fill k down rest else { l with wait := (int, hops, p, i + n) :: rest }

/-- A packet that waits for a link (R334): an IEEE 1588 message ahead of all other traffic, but for a packet that has begun to leave. Its
virtual channel is HOPS. -/
def enqueue (x : Nat × Nat × Pkt × Nat) (w : List (Nat × Nat × Pkt × Nat)) : List (Nat × Nat × Pkt × Nat) :=
  if x.2.2.1.ty = 13 then
    let first (y : Nat × Nat × Pkt × Nat) : Bool := y.2.2.1.ty == 13 || y.2.2.2 != 0
    w.takeWhile first ++ x :: w.dropWhile first
  else w ++ [x]

/-- What waits for a link sent as far as there is room. The firmware renews the key in time (R374). -/
def State.pump (s : State) (k : Nat) : State :=
  let l := s.link k
  let down := (portPeer s.net.fpeer k).any (· < s.net.fpeer)
  let s' := s.setLink k (l.fill k down l.wait)
  if (s'.link k).sent ≥ 2 ^ 40 ∧ l.sent < 2 ^ 40 then s'.sched 0 (.linkKeyRollover k) else s'

/-- A packet that no link can take waits until one is up. -/
def State.park (s : State) (die int hops : Nat) (p : Pkt) : State :=
  { s with net := { s.net with out := s.net.out ++ [(die, int, hops, p)] } }

/-- A packet on a port. -/
def State.onLink (s : State) (die k int hops : Nat) (p : Pkt) : State :=
  let l := s.link k
  if l.up then (s.setLink k { l with wait := enqueue (int, hops, p, 0) l.wait }).pump k else s.park die int hops p

/-- A packet from the router of an I/O die toward a peer by the minimal path; where its port is down, by that of the first intermediate
of the entry that is up (R336, R337). INT of its header stays as the source chose it. -/
def State.forward (s : State) (die int hops : Nat) (p : Pkt) : State :=
  let e := s.route die (if int = 0x7FF then p.dst else int)
  if !bitOf e 0 then s.countErr 5
  else if (s.link (mport e)).up then s.onLink die (mport e) int hops p
  else
    match ((List.range 4).map (intOf e)).find? fun i => bitOf (s.route die i) 0 && (s.link (mport (s.route die i))).up with
    | some i => s.onLink die (mport (s.route die i)) int hops p
    | none => s.park die int hops p

/-- The path of a packet chosen at its source (R333); the pseudo-random choice is a free value. -/
def State.inject (s : State) (p : Pkt) : State :=
  let die := s.ioDie p.ssub
  let e := s.route die p.dst
  let i := intOf e (Config.freePick s.clk.frees % 4)
  let s := s.draw
  let ei := s.route die i
  let cnm := (fld ei 57 56 + hopsOf i p.dst) * s.occ (mport ei)
  if bitOf e 0 ∧ bitOf ei 0 ∧ cnm + fld s.net.fadp 15 0 < fld e 57 56 * s.occ (mport e) then s.onLink die (mport ei) i 0 p
  else s.forward die 0x7FF 0 p

/-- A packet leaves: one to the own peer loops back through the own ingress router (R333, R346); one to another package goes
over the links. A packet of a reserved type is dropped and counted (R335). -/
def State.send (s : State) (p : Pkt) : State :=
  if p.dst = s.net.fpeer then (match pktEvent p with | some e => s.sched 2 e | none => s.countErr 5) else s.inject p

/-- The word of a header field. -/
def hdrFld (v hi lo : Nat) : Word := atBit (v % 2 ^ (hi + 1 - lo)) lo

/-- Words 0 to 5 of a header flit (R335), with the data flits that follow it, HOPS and INT; a packet is numbered without bound, and SEQ
holds its low bits. -/
def headerOf (p : Pkt) (ndat hops int : Nat) : List Word :=
  [hdrFld p.ty 63 56 ||| hdrFld p.src 55 45 ||| hdrFld p.dst 44 34 ||| hdrFld p.ssub 33 31 ||| hdrFld p.dsub 30 28 ||| hdrFld ndat 27 24 |||
     hdrFld hops 23 22 ||| hdrFld int 21 11 ||| hdrFld p.ctx 3 0,
   hdrFld p.seq 63 32, hdrFld p.key 55 48 ||| hdrFld p.va 47 0, p.opa, p.opb, 0]

/-- The 128 bytes of a header flit (R335): its words, then the tags of the granules that follow, a granule without one counting 0. -/
def headerFlit (p : Pkt) (ndat hops int : Nat) : List Byte :=
  let ts := (List.range 30).flatMap fun j => toBytes 2 ((p.tags.getD j none).getD 0).toNat
  (headerOf p ndat hops int).flatMap (fun w => toBytes 8 w.toNat) ++ ts ++ List.replicate 20 0

/-- The key of an ordered pair with a device of this package at one end, within a device context (R139, R143). -/
def pairKey (dev ctx peer sub : Nat) : Nat := ((dev * 16 + ctx) * 8 + sub) * 2048 + peer

/-- The egress and the ingress of a pair (R139). -/
def Net.egress (n : Net) (k : Nat) : Egress := (mfind n.eg k).getD { next := 0, pend := [] }
def Net.ingress (n : Net) (k : Nat) : Ingress := (mfind n.ing k).getD { c := 0, above := [], fences := [] }

/-- The credit a pop of a receive end returns to the send end (R341). -/
def State.creditBack (s : State) (dev dctx : Nat) (w0 : Word) : State :=
  s.send { Pkt.zero with ty := 11, src := s.net.fpeer, ssub := dev, dst := fld w0 54 44, dsub := fld w0 43 41, ctx := dctx,
                         opa := atBit (fld w0 40 35) 0 }

/-! Channels (R340, R341): the elements that wait in a channel of a device context. -/

/-- The channel bound to a name, by its index in the channel table (R314). -/
def Ctx.chan (c : Ctx) (n : Nat) : Option Nat :=
  match c.task with
  | some t => let k := mget 0 t.chan n; if k = 0 then none else some (k - 1)
  | none => none

/-- Whether a peer is present (state 1 of the peer table, R332). -/
def State.peerUp (s : State) (p : Nat) : Bool := mget 0 s.net.peers p == 1

/-! Commitment of results (R149). -/

/-- A row as register space holds it, with the tags of its granules (R175). -/
def Ctx.rowAt (c : Ctx) (a n fmt : Nat) : Row :=
  { fmt := fmt, bytes := c.rsBytes a n, tags := (List.range 4).map fun k => c.rtag (a / 64 + k) }

/-- A result part committed to the context it belongs to. Pushes to channels are made by `State.apply`. -/
def Ctx.apply (c : Ctx) (w : Wr) : Ctx :=
  match w with
  | .bytes a bs => { c with f := { c.f with rs := rsPut c.f.rs a bs } }
  | .zero a n => { c with f := { c.f with rs := rsZero c.f.rs a n } }
  | .tag gr t => { c with f := { c.f with tag := mput 0 c.f.tag gr t } }
  | .pred n v =>
    if n = 0 then c else { c with f := { c.f with pr := if v then c.f.pr ||| (1#16 <<< n.toNat) else c.f.pr &&& ~~~(1#16 <<< n.toNat) } }
  | .prd v => { c with f := { c.f with pr := v ||| 1 } }
  | .sreg n v => c.putSreg n v
  | .fsr v => { c with sys := { c.sys with fsr := c.sys.fsr ||| v } }
  | .cols k => { c with sys := { c.sys with sh := putFld c.sys.sh 9 0 k } }
  | .vd n v => { c with f := { c.f with vd := mput 0 c.f.vd n v } }
  | .pat k p => { c with f := { c.f with xp := mput none c.f.xp k (some p) } }
  | .ts k v acc => { c with sys := { c.sys with ts := mput 0 c.sys.ts k (if acc then mget 0 c.sys.ts k ||| v else v) } }
  | .hl v => { c with f := { c.f with hl := some v } }
  | .pushCq v => { c with q := { c.q with cq := c.q.cq ++ [v] } }
  | .sb v => { c with byp := { c.byp with sb0 := v, sb1 := c.byp.sb0 } }
  | .vb r => { c with byp := { c.byp with vb0 := r, vb1 := c.byp.vb0 } }
  | .xb r => { c with byp := { c.byp with xb := r } }
  | .vbAt a n f => { c with byp := { c.byp with vb0 := c.rowAt a n f, vb1 := c.byp.vb0 } }
  | .xbAt a n f => { c with byp := { c.byp with xb := c.rowAt a n f } }
  | .loopReg l f v => c.loopWrite l f v
  | .loopSet l x => { c with loops := mput Loop.zero c.loops l { x with ord := c.nextOrd } }
  | .loopTest l lc lk ord => { c with loops := mmod Loop.zero c.loops l fun x => { x with lc := lc, lk := lk, ord := ord } }
  | .stages v => { c with f := { c.f with pr := v ++ c.f.pr.extractLsb' 0 8 } }
  | .rb v => { c with sys := { c.sys with rb := v } }
  | .cqs es => { c with q := { c.q with cq := es } }
  | .pushCh _ _ _ => c
  | .pushPort _ _ => c
  | .arm _ _ => c
  | .accum _ => c

/-! Traps (R155, R225 to R228). -/

/-- A task brought to its end with a status; what follows is the event TASK_END (R90, R212, R227). -/
def State.endTask (s : State) (h status : Nat) : State :=
  (s.modCtx h fun c => { c with fin := some status }).sched 0 (.taskEnd h)

/-- tcs (R226). -/
def tcsOf (t : TrapInfo) (idx : Nat) : Word :=
  atBit t.info 32 ||| atBit 1 31 ||| atBit (if t.asy then 1 else 0) 30 ||| atBit t.slot 24 ||| atBit (idx % 256) 16 |||
  atBit t.cause 0

/-- The registers a cause writes beside tcs, and the rows a block transfer completed before it (R225, R239). -/
def Ctx.trapWrites (c : Ctx) (t : TrapInfo) : Ctx :=
  let c := t.sregs.foldl (fun c r => c.putSreg r.1 r.2) c
  let c := t.regs.foldl Ctx.apply c
  let c := if t.asy then { c with trp := { c.trp with fq := c.trp.fq.drop 1 } } else c
  { c with prog := { c.prog with blk := t.blk.orElse fun _ => c.prog.blk } }

/-- Entry into the handler (R227): tpc and tcs written, the latches, bypasses, sticky records and repeat progress set
aside, and the next bundle the handler's first. -/
def Ctx.enterHandler (c : Ctx) (resume : Word) (idx : Nat) (t : TrapInfo) : Ctx :=
  { c with
    trp := { c.trp with tpc := resume &&& 0xFFFFFFFC, tcs := tcsOf t idx,
                        aside := some { lats := c.lats, byp := c.byp, prog := { c.prog with idx := idx }, seq := c.q.seq } },
    lats := [], prog := Progress.zero, pc := c.trp.tvec &&& 0xFFFFFFFC }

/-- A trap taken (R227): the handler is entered, or, while a handler runs or with EN clear, the task ends abnormally. -/
def State.takeTrap (s : State) (h : Nat) (resume : Word) (idx : Nat) (t : TrapInfo) : State :=
  let s := { s with mem := t.mem.foldl Mem.writePiece s.mem }
  let s := s.modCtx h fun c => c.trapWrites t
  let c := s.ctx h
  if bitOf c.trp.tcs 31 || !bitOf c.trp.tvec 0 then s.endTask h 1
  else s.setCtx h (c.enterHandler resume idx t)

/-- A latch without its results for the bypasses, which a handler never changes for the code it interrupted (R175). -/
def Latch.plain (l : Latch) : Latch :=
  { l with wrs := l.wrs.filter fun w => match w with | .sb _ => false | .vb _ => false | .xb _ => false | .vbAt _ _ _ => false | .xbAt _ _ _ => false | _ => true }

/-- The return from a handler (R228): HND and ASY cleared, the set-aside state restored, and the next bundle at tpc at
issue index tcs.INDEX. Results of the handler that have not landed follow the restored ones (assumption log 14). An index or
address other than the trapped one clears the block progress (R239). -/
def Ctx.leaveHandler (c : Ctx) : Ctx :=
  let idx := fld c.trp.tcs 23 16
  let pc := c.trp.tpc
  let trp := { c.trp with tcs := c.trp.tcs &&& 0xFFFFFFFF3FFFFFFF, aside := none }
  match c.trp.aside with
  | none => { c with pc := pc, trp := trp, prog := { c.prog with idx := idx } }
  | some a =>
    let blk := match a.prog.blk with
      | some (p, k, r) => if p = pc.toNat ∧ k = idx then some (p, k, r) else none
      | none => none
    { c with pc := pc, trp := trp, lats := a.lats ++ c.lats.map Latch.plain, byp := a.byp,
             prog := { a.prog with idx := idx, blk := blk } }

end Sys2Proof.Machine
end

