-- ==== Sys2Proof/Machine/Shape.lean ====
section
/-! DEFINITION. The shape of each slot operation: its slot, guard, path, source operands, and whether its map marks it
sticky (R185 to R191, R178). -/

namespace Sys2Proof.Machine

/-- The slot of a slot operation, its guard and its sticky mark; none for a bundle form or an event. -/
def slotInfo : Instr → Option (Slot × Guard × Bool)
  | .nopB g => some (.b, g, false)
  | .brT g _ => some (.b, g, false)
  | .brF g _ => some (.b, g, false)
  | .jmp g _ => some (.b, g, false)
  | .jmpi g _ => some (.b, g, false)
  | .bsr g _ => some (.b, g, false)
  | .ret g => some (.b, g, false)
  | .loop g _ _ _ => some (.b, g, false)
  | .loopRot g _ _ _ _ => some (.b, g, false)
  | .wait g _ => some (.b, g, false)
  | .evwait g _ => some (.b, g, false)
  | .bar g _ => some (.b, g, false)
  | .yieldB g => some (.b, g, false)
  | .done g => some (.b, g, false)
  | .trap g _ => some (.b, g, false)
  | .eret g => some (.b, g, false)
  | .brk g _ => some (.b, g, false)
  | .cqclr g => some (.b, g, false)
  | .add g _ _ _ => some (.s, g, true)
  | .sub g _ _ _ => some (.s, g, true)
  | .mul g _ _ _ => some (.s, g, true)
  | .mulh g _ _ _ _ => some (.s, g, true)
  | .divs g _ _ _ => some (.s, g, true)
  | .rems g _ _ _ => some (.s, g, true)
  | .divn g _ _ _ => some (.s, g, true)
  | .remn g _ _ _ => some (.s, g, true)
  | .andS g _ _ _ => some (.s, g, true)
  | .orS g _ _ _ => some (.s, g, true)
  | .xorS g _ _ _ => some (.s, g, true)
  | .shl g _ _ _ => some (.s, g, true)
  | .shr g _ _ _ => some (.s, g, true)
  | .sra g _ _ _ => some (.s, g, true)
  | .min g _ _ _ => some (.s, g, true)
  | .max g _ _ _ => some (.s, g, true)
  | .minn g _ _ _ => some (.s, g, true)
  | .maxn g _ _ _ => some (.s, g, true)
  | .clz g _ _ => some (.s, g, true)
  | .popc g _ _ => some (.s, g, true)
  | .li g _ _ => some (.s, g, true)
  | .lihM g _ _ => some (.s, g, true)
  | .lihH g _ _ => some (.s, g, true)
  | .mov g _ _ => some (.s, g, true)
  | .sel g _ _ _ _ _ => some (.s, g, true)
  | .cmp g _ _ _ _ => some (.s, g, true)
  | .setp g _ _ _ _ => some (.s, g, true)
  | .pand g _ _ _ => some (.s, g, true)
  | .por g _ _ _ => some (.s, g, true)
  | .pxor g _ _ _ => some (.s, g, true)
  | .pnot g _ _ => some (.s, g, true)
  | .agset g _ _ => some (.s, g, false)
  | .agpos g _ _ => some (.s, g, false)
  | .view g _ _ => some (.s, g, false)
  | .shape g _ _ _ _ _ _ => some (.s, g, false)
  | .bxinfo g _ _ _ _ => some (.s, g, false)
  | .sget g _ _ => some (.s, g, false)
  | .sset g _ _ => some (.s, g, false)
  | .tsget g _ _ => some (.s, g, false)
  | .xpat g _ _ _ => some (.s, g, false)
  | .ld g _ _ => some (.m, g, true)
  | .ldAcq g _ _ _ => some (.m, g, true)
  | .st g _ _ => some (.m, g, true)
  | .stRel g _ _ _ => some (.m, g, true)
  | .ldv g _ _ => some (.m, g, true)
  | .ldvAcq g _ _ _ => some (.m, g, true)
  | .stv g _ _ => some (.m, g, true)
  | .stvRel g _ _ _ => some (.m, g, true)
  | .ldff g _ _ => some (.m, g, false)
  | .ldblk g _ _ => some (.m, g, false)
  | .stblk g _ _ => some (.m, g, false)
  | .ldtag g _ _ => some (.m, g, true)
  | .sttag g _ _ => some (.m, g, true)
  | .ldr g _ _ _ => some (.m, g, true)
  | .str g _ _ _ => some (.m, g, true)
  | .align g => some (.m, g, false)
  | .fence g _ => some (.m, g, false)
  | .pf g _ => some (.m, g, true)
  | .rfence g _ _ => some (.m, g, false)
  | .ldp g _ _ => some (.m, g, false)
  | .stp g _ _ => some (.m, g, false)
  | .waitv g _ _ _ => some (.m, g, false)
  | .waitvAcq g _ _ _ _ => some (.m, g, false)
  | .atomAdd g _ _ _ _ => some (.m, g, true)
  | .atomAnd g _ _ _ _ => some (.m, g, true)
  | .atomOr g _ _ _ _ => some (.m, g, true)
  | .atomXor g _ _ _ _ => some (.m, g, true)
  | .atomMin g _ _ _ _ => some (.m, g, true)
  | .atomMax g _ _ _ _ => some (.m, g, true)
  | .atomMinn g _ _ _ _ => some (.m, g, true)
  | .atomMaxn g _ _ _ _ => some (.m, g, true)
  | .atomSwap g _ _ _ _ => some (.m, g, true)
  | .atomCas g _ _ _ _ => some (.m, g, true)
  | .atomrAdd g _ _ _ => some (.m, g, true)
  | .atomrAnd g _ _ _ => some (.m, g, true)
  | .atomrOr g _ _ _ => some (.m, g, true)
  | .atomrXor g _ _ _ => some (.m, g, true)
  | .atomrMin g _ _ _ => some (.m, g, true)
  | .atomrMax g _ _ _ => some (.m, g, true)
  | .atomrMinn g _ _ _ => some (.m, g, true)
  | .atomrMaxn g _ _ _ => some (.m, g, true)
  | .atomrSwap g _ _ _ => some (.m, g, true)
  | .atomrCas g _ _ _ => some (.m, g, true)
  | .call g _ _ => some (.t, g, false)
  | .callGang g _ _ _ => some (.t, g, false)
  | .join g _ _ => some (.t, g, false)
  | .spawn g _ _ => some (.t, g, false)
  | .cpy g _ _ => some (.t, g, false)
  | .cpyg g _ _ _ => some (.t, g, false)
  | .cpyr g _ _ => some (.t, g, false)
  | .fill g _ _ _ => some (.t, g, false)
  | .collAllreduce g _ _ => some (.t, g, false)
  | .collAllgather g _ _ => some (.t, g, false)
  | .collReducescatter g _ _ => some (.t, g, false)
  | .collAlltoall g _ _ => some (.t, g, false)
  | .placeQ g _ _ => some (.t, g, false)
  | .placeD g _ _ => some (.t, g, false)
  | .ckpt g _ _ => some (.t, g, false)
  | .tlaunch g _ _ _ => some (.t, g, false)
  | .tpre g _ => some (.t, g, false)
  | .vadd g _ _ _ _ _ => some (.v, g, true)
  | .vsub g _ _ _ _ _ => some (.v, g, true)
  | .vmul g _ _ _ _ _ => some (.v, g, true)
  | .vdiv g _ _ _ _ _ => some (.v, g, true)
  | .vfma g _ _ _ _ _ _ => some (.v, g, true)
  | .vfms g _ _ _ _ _ _ => some (.v, g, true)
  | .vmin g _ _ _ _ => some (.v, g, true)
  | .vmax g _ _ _ _ => some (.v, g, true)
  | .vand g _ _ _ _ => some (.v, g, true)
  | .vor g _ _ _ _ => some (.v, g, true)
  | .vxor g _ _ _ _ => some (.v, g, true)
  | .vshl g _ _ _ _ => some (.v, g, true)
  | .vshr g _ _ _ _ => some (.v, g, true)
  | .vsra g _ _ _ _ => some (.v, g, true)
  | .vabs g _ _ _ => some (.v, g, true)
  | .vneg g _ _ _ => some (.v, g, true)
  | .vnot g _ _ _ => some (.v, g, true)
  | .vmov g _ _ _ => some (.v, g, true)
  | .vrcp g _ _ _ _ => some (.v, g, true)
  | .vsqrt g _ _ _ _ => some (.v, g, true)
  | .vrsqrt g _ _ _ _ => some (.v, g, true)
  | .vexp2 g _ _ _ _ => some (.v, g, true)
  | .vlog2 g _ _ _ _ => some (.v, g, true)
  | .vcvt g _ _ _ _ _ => some (.v, g, true)
  | .vpack g _ _ _ _ _ => some (.v, g, true)
  | .vsum g _ _ _ _ => some (.v, g, true)
  | .vmaxr g _ _ _ => some (.v, g, true)
  | .vcmp g _ _ _ _ _ => some (.v, g, true)
  | .vsel g _ _ _ _ _ => some (.v, g, true)
  | .vanyAny g _ _ => some (.v, g, true)
  | .vanyAll g _ _ => some (.v, g, true)
  | .vanyUni g _ _ => some (.v, g, true)
  | .vbcast g _ _ _ _ => some (.v, g, true)
  | .viota g _ _ _ _ => some (.v, g, true)
  | .vclass g _ _ _ => some (.v, g, true)
  | .xperm g _ _ _ _ => some (.x, g, true)
  | .xrot g _ _ _ _ => some (.x, g, true)
  | .xrotC g _ _ _ _ => some (.x, g, true)
  | .xtrn g _ _ _ => some (.x, g, true)
  | .xbcast g _ _ _ _ => some (.x, g, true)
  | .xzip g _ _ _ _ => some (.x, g, true)
  | .xunzip g _ _ _ _ => some (.x, g, true)
  | .xcmpr g _ _ _ _ => some (.x, g, true)
  | .hnop g => some (.h, g, true)
  | .hmma g _ _ _ _ _ _ _ => some (.h, g, true)
  | .hmmn g _ _ _ _ _ _ _ => some (.h, g, true)
  | .hgat g _ _ _ _ _ _ _ => some (.h, g, true)
  | _ => none

/-- The path operand of an M-slot operation (R22). -/
def pathOf : Instr → Option Path
  | .ld _ _ p => some p
  | .ldAcq _ _ _ p => some p
  | .st _ _ p => some p
  | .stRel _ _ _ p => some p
  | .ldv _ _ p => some p
  | .ldvAcq _ _ _ p => some p
  | .stv _ _ p => some p
  | .stvRel _ _ _ p => some p
  | .ldff _ _ p => some p
  | .ldblk _ _ p => some p
  | .stblk _ _ p => some p
  | .ldtag _ _ p => some p
  | .sttag _ _ p => some p
  | .ldr _ _ _ p => some p
  | .str _ _ _ p => some p
  | .pf _ p => some p
  | .rfence _ _ p => some p
  | .ldp _ _ p => some p
  | .stp _ _ p => some p
  | .waitv _ _ _ p => some p
  | .waitvAcq _ _ _ _ p => some p
  | .atomAdd _ _ _ _ p => some p
  | .atomAnd _ _ _ _ p => some p
  | .atomOr _ _ _ _ p => some p
  | .atomXor _ _ _ _ p => some p
  | .atomMin _ _ _ _ p => some p
  | .atomMax _ _ _ _ p => some p
  | .atomMinn _ _ _ _ p => some p
  | .atomMaxn _ _ _ _ p => some p
  | .atomSwap _ _ _ _ p => some p
  | .atomCas _ _ _ _ p => some p
  | .atomrAdd _ _ _ p => some p
  | .atomrAnd _ _ _ p => some p
  | .atomrOr _ _ _ p => some p
  | .atomrXor _ _ _ p => some p
  | .atomrMin _ _ _ p => some p
  | .atomrMax _ _ _ p => some p
  | .atomrMinn _ _ _ p => some p
  | .atomrMaxn _ _ _ p => some p
  | .atomrSwap _ _ _ p => some p
  | .atomrCas _ _ _ p => some p
  | _ => none

/-- The source operands of a slot operation, in operand order; each names one pop where it is a queue (R174). -/
def srcsOf : Instr → List Opnd
  | .jmpi _ b => [b]
  | .loop _ _ n _ => [n]
  | .loopRot _ _ n s _ => [n, s]
  | .add _ _ b c => [b, c]
  | .sub _ _ b c => [b, c]
  | .mul _ _ b c => [b, c]
  | .mulh _ _ _ b c => [b, c]
  | .divs _ _ b c => [b, c]
  | .rems _ _ b c => [b, c]
  | .divn _ _ b c => [b, c]
  | .remn _ _ b c => [b, c]
  | .andS _ _ b c => [b, c]
  | .orS _ _ b c => [b, c]
  | .xorS _ _ b c => [b, c]
  | .shl _ _ b c => [b, c]
  | .shr _ _ b c => [b, c]
  | .sra _ _ b c => [b, c]
  | .min _ _ b c => [b, c]
  | .max _ _ b c => [b, c]
  | .minn _ _ b c => [b, c]
  | .maxn _ _ b c => [b, c]
  | .clz _ _ b => [b]
  | .popc _ _ b => [b]
  | .mov _ _ b => [b]
  | .sel _ _ b c _ _ => [b, c]
  | .cmp _ _ _ b c => [b, c]
  | .setp _ _ _ (.val b) c => [b, c]
  | .setp _ _ _ (.ts _) c => [c]
  | .view _ _ b => [b]
  | .shape _ _ _ _ rows cols _ => [rows, cols]
  | .sset _ b _ => [b]
  | .st _ a _ => [a]
  | .stRel _ _ a _ => [a]
  | .sttag _ a _ => [a]
  | .str _ _ a _ => [a]
  | .rfence _ a _ => [a]
  | .stp _ a _ => [a]
  | .waitv _ _ a _ => [a]
  | .waitvAcq _ _ _ a _ => [a]
  | .callGang _ _ _ n => [n]
  | .join _ _ h => [h]
  | .fill _ _ b _ => [b]
  | .placeD _ a _ => [a]
  | .ckpt _ _ t => [t]
  | .tlaunch _ _ _ t => [t]
  | .tpre _ t => [t]
  | .vadd _ _ _ b c _ => [b, c]
  | .vsub _ _ _ b c _ => [b, c]
  | .vmul _ _ _ b c _ => [b, c]
  | .vdiv _ _ _ b c _ => [b, c]
  | .vfma _ _ _ b c e _ => [b, c, e]
  | .vfms _ _ _ b c e _ => [b, c, e]
  | .vmin _ _ b c _ => [b, c]
  | .vmax _ _ b c _ => [b, c]
  | .vand _ _ b c _ => [b, c]
  | .vor _ _ b c _ => [b, c]
  | .vxor _ _ b c _ => [b, c]
  | .vshl _ _ b c _ => [b, c]
  | .vshr _ _ b c _ => [b, c]
  | .vsra _ _ b c _ => [b, c]
  | .vabs _ _ b _ => [b]
  | .vneg _ _ b _ => [b]
  | .vnot _ _ b _ => [b]
  | .vmov _ _ b _ => [b]
  | .vrcp _ _ _ b _ => [b]
  | .vsqrt _ _ _ b _ => [b]
  | .vrsqrt _ _ _ b _ => [b]
  | .vexp2 _ _ _ b _ => [b]
  | .vlog2 _ _ _ b _ => [b]
  | .vcvt _ _ _ b _ _ => [b]
  | .vpack _ _ _ b _ _ => [b]
  | .vsum _ _ _ b _ => [b]
  | .vmaxr _ _ b _ => [b]
  | .vcmp _ _ _ b c _ => [b, c]
  | .vsel _ _ _ c e _ => [c, e]
  | .vanyAny _ b _ => [b]
  | .vanyAll _ b _ => [b]
  | .vanyUni _ b _ => [b]
  | .vbcast _ _ b k _ => [b, k]
  | .viota _ _ b c _ => [b, c]
  | .vclass _ _ b _ => [b]
  | .xperm _ _ _ b _ => [b]
  | .xrot _ _ k b _ => [k, b]
  | .xrotC _ _ k b _ => [k, b]
  | .xtrn _ _ b _ => [b]
  | .xbcast _ _ b k _ => [b, k]
  | .xzip _ _ b c _ => [b, c]
  | .xunzip _ _ b k _ => [b, k]
  | .xcmpr _ _ b _ _ => [b]
  | .hmma _ _ a _ _ _ _ _ => [a]
  | .hmmn _ _ a _ _ _ _ _ => [a]
  | _ => []

/-- The mask view an operation reads (R266). -/
def maskRead (m : VMask) : List Opnd := if m.men = 1 then [.w m.mv] else []

/-- The register operands a slot operation reads beside its path: scalars and views (R154, R192, R265). -/
def readsOf : Instr → List Opnd
  | .jmpi _ b => [b]
  | .loop _ _ n _ => [n]
  | .loopRot _ _ n s _ => [n, s]
  | .add _ _ b c => [b, c]
  | .sub _ _ b c => [b, c]
  | .mul _ _ b c => [b, c]
  | .mulh _ _ _ b c => [b, c]
  | .divs _ _ b c => [b, c]
  | .rems _ _ b c => [b, c]
  | .divn _ _ b c => [b, c]
  | .remn _ _ b c => [b, c]
  | .andS _ _ b c => [b, c]
  | .orS _ _ b c => [b, c]
  | .xorS _ _ b c => [b, c]
  | .shl _ _ b c => [b, c]
  | .shr _ _ b c => [b, c]
  | .sra _ _ b c => [b, c]
  | .min _ _ b c => [b, c]
  | .max _ _ b c => [b, c]
  | .minn _ _ b c => [b, c]
  | .maxn _ _ b c => [b, c]
  | .clz _ _ b => [b]
  | .popc _ _ b => [b]
  | .lihM _ d _ => [.g d]
  | .lihH _ d _ => [.g d]
  | .mov _ _ b => [b]
  | .sel _ _ b c _ _ => [b, c]
  | .cmp _ _ _ b c => [b, c]
  | .setp _ _ _ (.val b) c => [b, c]
  | .setp _ _ _ (.ts _) c => [c]
  | .agset _ _ v => [.w v]
  | .view _ _ b => [b]
  | .shape _ _ _ _ rows cols _ => [rows, cols]
  | .bxinfo _ _ c _ _ => [.g c]
  | .sset _ b _ => [b]
  | .xpat _ v _ _ => [.w v]
  | .st _ a _ => [a]
  | .stRel _ _ a _ => [a]
  | .stv _ v _ => [.w v]
  | .stvRel _ _ v _ => [.w v]
  | .stblk _ v _ => [.w v]
  | .sttag _ a _ => [a]
  | .str _ _ a _ => [a]
  | .rfence _ a _ => [a]
  | .ldp _ d _ => [.g d]
  | .stp _ a _ => [a]
  | .waitv _ _ a _ => [a]
  | .waitvAcq _ _ _ a _ => [a]
  | .atomAdd _ _ _ a _ => [.g a]
  | .atomAnd _ _ _ a _ => [.g a]
  | .atomOr _ _ _ a _ => [.g a]
  | .atomXor _ _ _ a _ => [.g a]
  | .atomMin _ _ _ a _ => [.g a]
  | .atomMax _ _ _ a _ => [.g a]
  | .atomMinn _ _ _ a _ => [.g a]
  | .atomMaxn _ _ _ a _ => [.g a]
  | .atomSwap _ _ _ a _ => [.g a]
  | .atomCas _ _ _ a _ => [.g a, .g (a + 1)]
  | .atomrAdd _ _ a _ => [.g a]
  | .atomrAnd _ _ a _ => [.g a]
  | .atomrOr _ _ a _ => [.g a]
  | .atomrXor _ _ a _ => [.g a]
  | .atomrMin _ _ a _ => [.g a]
  | .atomrMax _ _ a _ => [.g a]
  | .atomrMinn _ _ a _ => [.g a]
  | .atomrMaxn _ _ a _ => [.g a]
  | .atomrSwap _ _ a _ => [.g a]
  | .atomrCas _ _ a _ => [.g a, .g (a + 1)]
  | .call _ _ v => [.w v]
  | .callGang _ _ v n => [.w v, n]
  | .join _ _ h => [h]
  | .spawn _ _ v => [.w v]
  | .cpy _ v _ => [.w v]
  | .cpyg _ v x _ => [.w v, .w x]
  | .cpyr _ v _ => [.w v]
  | .fill _ v b _ => [.w v, b]
  | .collAllreduce _ v _ => [.w v]
  | .collAllgather _ v _ => [.w v]
  | .collReducescatter _ v _ => [.w v]
  | .collAlltoall _ v _ => [.w v]
  | .placeD _ a _ => [a]
  | .ckpt _ _ t => [t]
  | .tlaunch _ _ v t => [.w v, t]
  | .tpre _ t => [t]
  | .vadd _ _ _ b c m => [b, c] ++ maskRead m
  | .vsub _ _ _ b c m => [b, c] ++ maskRead m
  | .vmul _ _ _ b c m => [b, c] ++ maskRead m
  | .vdiv _ _ _ b c m => [b, c] ++ maskRead m
  | .vfma _ _ _ b c e m => [b, c, e] ++ maskRead m
  | .vfms _ _ _ b c e m => [b, c, e] ++ maskRead m
  | .vmin _ _ b c m => [b, c] ++ maskRead m
  | .vmax _ _ b c m => [b, c] ++ maskRead m
  | .vand _ _ b c m => [b, c] ++ maskRead m
  | .vor _ _ b c m => [b, c] ++ maskRead m
  | .vxor _ _ b c m => [b, c] ++ maskRead m
  | .vshl _ _ b c m => [b, c] ++ maskRead m
  | .vshr _ _ b c m => [b, c] ++ maskRead m
  | .vsra _ _ b c m => [b, c] ++ maskRead m
  | .vabs _ _ b m => [b] ++ maskRead m
  | .vneg _ _ b m => [b] ++ maskRead m
  | .vnot _ _ b m => [b] ++ maskRead m
  | .vmov _ _ b m => [b] ++ maskRead m
  | .vrcp _ _ _ b m => [b] ++ maskRead m
  | .vsqrt _ _ _ b m => [b] ++ maskRead m
  | .vrsqrt _ _ _ b m => [b] ++ maskRead m
  | .vexp2 _ _ _ b m => [b] ++ maskRead m
  | .vlog2 _ _ _ b m => [b] ++ maskRead m
  | .vcvt _ _ _ b _ m => [b] ++ maskRead m
  | .vpack _ _ _ b _ m => [b] ++ maskRead m
  | .vsum _ _ _ b m => [b] ++ maskRead m
  | .vmaxr _ _ b m => [b] ++ maskRead m
  | .vcmp _ _ _ b c m => [b, c] ++ maskRead m
  | .vsel _ _ q c e m => [.w q, c, e] ++ maskRead m
  | .vanyAny _ b m => [b] ++ maskRead m
  | .vanyAll _ b m => [b] ++ maskRead m
  | .vanyUni _ b m => [b] ++ maskRead m
  | .vbcast _ _ b k m => [b, k] ++ maskRead m
  | .viota _ _ b c m => [b, c] ++ maskRead m
  | .vclass _ _ b m => [b] ++ maskRead m
  | .xperm _ _ _ b _ => [b]
  | .xrot _ _ k b _ => [k, b]
  | .xrotC _ _ k b _ => [k, b]
  | .xtrn _ _ b _ => [b]
  | .xbcast _ _ b k _ => [b, k]
  | .xzip _ _ b c _ => [b, c]
  | .xunzip _ _ b k _ => [b, k]
  | .xcmpr _ _ b q _ => [b, .w q]
  | .hmma _ _ a b c _ _ _ => [a, .w b, .w c]
  | .hmmn _ _ a b c _ _ _ => [a, .w b, .w c]
  | .hgat _ v _ _ _ _ _ _ => [.w v]
  | _ => []

/-- The destination and the mask of an operation of the V slot, and the destination and the step flags of one of the X slot. -/
def swageOf : Instr → Option (Option Opnd × VMask)
  | .vadd _ _ d _ _ m => some (some d, m)
  | .vsub _ _ d _ _ m => some (some d, m)
  | .vmul _ _ d _ _ m => some (some d, m)
  | .vdiv _ _ d _ _ m => some (some d, m)
  | .vfma _ _ d _ _ _ m => some (some d, m)
  | .vfms _ _ d _ _ _ m => some (some d, m)
  | .vmin _ d _ _ m => some (some d, m)
  | .vmax _ d _ _ m => some (some d, m)
  | .vand _ d _ _ m => some (some d, m)
  | .vor _ d _ _ m => some (some d, m)
  | .vxor _ d _ _ m => some (some d, m)
  | .vshl _ d _ _ m => some (some d, m)
  | .vshr _ d _ _ m => some (some d, m)
  | .vsra _ d _ _ m => some (some d, m)
  | .vabs _ d _ m => some (some d, m)
  | .vneg _ d _ m => some (some d, m)
  | .vnot _ d _ m => some (some d, m)
  | .vmov _ d _ m => some (some d, m)
  | .vrcp _ _ d _ m => some (some d, m)
  | .vsqrt _ _ d _ m => some (some d, m)
  | .vrsqrt _ _ d _ m => some (some d, m)
  | .vexp2 _ _ d _ m => some (some d, m)
  | .vlog2 _ _ d _ m => some (some d, m)
  | .vcvt _ _ d _ _ m => some (some d, m)
  | .vpack _ _ d _ _ m => some (some d, m)
  | .vsum _ _ d _ m => some (some d, m)
  | .vmaxr _ d _ m => some (some d, m)
  | .vcmp _ _ d _ _ m => some (some d, m)
  | .vsel _ d _ _ _ m => some (some d, m)
  | .vanyAny _ _ m => some (none, m)
  | .vanyAll _ _ m => some (none, m)
  | .vanyUni _ _ m => some (none, m)
  | .vbcast _ d _ _ m => some (some d, m)
  | .viota _ d _ _ m => some (some d, m)
  | .vclass _ d _ m => some (some d, m)
  | _ => none
def crossOf : Instr → Option (Opnd × BitVec 4)
  | .xperm _ _ d _ sf => some (d, sf)
  | .xrot _ d _ _ sf => some (d, sf)
  | .xrotC _ d _ _ sf => some (d, sf)
  | .xtrn _ d _ sf => some (d, sf)
  | .xbcast _ d _ _ sf => some (d, sf)
  | .xzip _ d _ _ sf => some (d, sf)
  | .xunzip _ d _ _ sf => some (d, sf)
  | .xcmpr _ d _ _ sf => some (d, sf)
  | _ => none

/-- The flag of the view operand `k` of an operation, counted among those of `readsOf` (R179): the sources of the V and X slots follow
their destination, those of the H slot come first, and a mask is never stepped. -/
def stepOf (i : Instr) (k : Nat) : Bool :=
  match swageOf i, crossOf i, i with
  | some (_, m), _, _ => m.st.getLsbD (k + 1) && k + m.men.toNat < (readsOf i).length
  | none, some (_, sf), _ => sf.getLsbD (k + 1)
  | none, none, .hmma _ _ _ _ _ _ _ sf => sf.getLsbD k
  | none, none, .hmmn _ _ _ _ _ _ _ sf => sf.getLsbD k
  | none, none, .hgat _ _ _ _ _ _ _ sf => sf.getLsbD k
  | _, _, _ => false

end Sys2Proof.Machine
end

