-- ==== Sys2Proof/Machine/Issue.lean ====
section
/-! DEFINITION. The frame in which a slot operation runs at its issue: checks, traps, blocks and stalls, and the
exposed latch that takes its result (R148, R150, R151, R172). -/

namespace Sys2Proof.Machine

/-- What an operation does at its issue: it changes the state, or stops the issue. -/
abbrev M (α : Type) := StateT State (Except Stop) α

/-- A trap raised at issue, charged to the field `info`, with the registers its cause also writes. -/
def trapM {α : Type} (cause : Nat) (info : Nat := 0) (sregs : List (Nat × Word) := []) : M α := fun _ =>
  .error (.trap { cause := cause, info := info, slot := 0, asy := false, sregs := sregs, regs := [], mem := [], blk := none })

/-- A block (R151). -/
def blockM {α : Type} (w : Why) : M α := fun _ => .error (.block w)

/-- A stall, with its cause as R377 codes it (R150). -/
def stallM {α : Type} (cause : Nat) : M α := fun _ => .error (.stall cause)

/-- A stall behind arrays that a read at issue has reached in retention (R77). -/
def lateM {α : Type} (ps : List Place) : M α := fun _ => .error (.late ps)

/-- A check that raises a trap when it fails. -/
def needM (b : Bool) (cause : Nat) (info : Nat := 0) (sregs : List (Nat × Word) := []) : M Unit :=
  if b then pure () else trapM cause info sregs

/-- The context as it stands. -/
def ctxM (h : Nat) : M Ctx := fun s => .ok (s.ctx h, s)

/-- The context changed. -/
def modM (h : Nat) (f : Ctx → Ctx) : M Unit := fun s => .ok ((), s.modCtx h f)

/-- The state as it stands, and changed. -/
def getM : M State := fun s => .ok (s, s)
def updM (f : State → State) : M Unit := fun s => .ok ((), f s)

/-- The slot a stop is charged to. -/
def Stop.at (e : Stop) (sl : Slot) : Stop :=
  match e with
  | .trap t => .trap { t with slot := sl.num }
  | e => e

/-! Latches (R148). -/

/-- A latch that lands `dist` context cycles after this one; with all 64 taken the issue stalls (R148, R150). Its
number is the answer. The spec does not say whether latches that a trap has set aside (R155) count among the 64. DESIGN CHOICE: they do
not, and a handler has 64 of its own; assumption log 123. -/
def latchAs (h : Nat) (sl : Slot) (dist : Nat) (wrs : List Wr) (code : Nat) (tile here : Bool) : M Nat := do
  let c ← ctxM h
  if (c.lats.filter (·.occ)).length ≥ 64 then stallM 4
  else
    let s ← getM
    let tok := s.clk.tick
    updM State.bump
    modM h fun c =>
      { c with lats := c.lats ++ [{ tok := tok, slot := sl.num, code := code, dist := dist, here := here, occ := true,
                                    tile := tile, wrs := wrs }] }
    pure tok

/-- A latch with its result. -/
def latchM (h : Nat) (sl : Slot) (dist : Nat) (wrs : List Wr) (code : Nat := 0) (tile : Bool := false) : M Unit := do
  let _ ← latchAs h sl dist wrs code tile true

/-- The step count an issue gives the operations of a slot (R178). -/
def stepCount (s : State) (sl : Slot) : Nat :=
  match s.iss with
  | some i => (match mfind i.re sl.num with | some k => k.s | none => 0)
  | none => 0

/-- The sticky record an issue runs a slot's operation under, if any (R177, R179). -/
def recordOf (s : State) (sl : Slot) : Option Stick :=
  match s.iss with
  | some i => mfind i.re sl.num
  | none => none

/-- Lifting a computation that fails with a trap cause and extra registers. -/
def liftM' {α : Type} (x : Except (Nat × List (Nat × Word)) α) : M α :=
  match x with
  | .ok a => pure a
  | .error (c, rs) => trapM c 0 rs

end Sys2Proof.Machine
end

