-- ==== Sys2Proof/Machine/Boxes.lean ====
section
/-! DEFINITION. Paths into boxes: coordinates, meshes and shards, the bounds checks, and the places of the bytes an
access reaches (R17 to R28, R103 to R105, R233, R234). -/

namespace Sys2Proof.Machine

/-! Meshes and shards (R100 to R105). -/

/-- A field of 11 bits per axis (R23, R101). -/
def axis (w : Word) (a : Nat) : Nat := fld w (11 * a + 10) (11 * a)
/-- The size of an axis; an undeclared axis has size 1 (R100). -/
def axisSize (msh : Word) (a : Nat) : Nat := if a < fld msh 35 34 then max 1 (axis msh a) else 1
/-- A coordinate word from its axes. -/
def meshWord (m0 m1 m2 : Nat) : Word := atBit m0 0 ||| atBit m1 11 ||| atBit m2 22
/-- The number of a coordinate in the mesh table, a0 most significant. -/
def meshIndex (msh m : Word) : Nat := (axis m 0 * axisSize msh 1 + axis m 1) * axisSize msh 2 + axis m 2

/-- The state of an axis in CUR or TGT (R107). -/
def axisState (cur a : Nat) : Nat := cur / 16 ^ a % 16
/-- The axes, among those given, that shard dimension `dim` (R105). -/
def shardAxes (cur dim : Nat) : List Nat := [0, 1, 2].filter fun a => axisState cur a == dim
/-- The group index over axes, the first most significant (R103). -/
def groupIndex (msh m : Word) (axes : List Nat) : Nat := axes.foldl (fun q a => q * axisSize msh a + axis m a) 0
/-- The group size over axes (R103). -/
def groupSize (msh : Word) (axes : List Nat) : Nat := axes.foldl (fun q a => q * axisSize msh a) 1
/-- The axes of a mask (R103). -/
def maskAxes (mask : Nat) : List Nat := [0, 1, 2].filter fun a => mask / 2 ^ a % 2 == 1

/-- Origin and extent of a member's shard along a dimension (R105). -/
def shardDim (msh m : Word) (fmt cur e dim : Nat) : Nat × Nat :=
  let ax := shardAxes cur dim
  let n := groupSize msh ax
  let q := groupIndex msh m ax
  let t := cdiv e n
  let t := if dim = 0 ∧ fmtTagged fmt then cdiv t (fmtPer fmt) * fmtPer fmt else t
  (q * t, min t (e - q * t))

/-- The placement entry of a box (R107). -/
def State.entry (s : State) (d c : Nat) (b : Desc) : PlEnt := (mfind (s.dc d c).place b.place).getD PlEnt.zero

def PlEnt.valid (e : PlEnt) : Bool := bitOf e.w0 63
def PlEnt.cip (e : PlEnt) : Bool := bitOf e.w0 62
def PlEnt.ord (e : PlEnt) : Nat := fld e.w0 61 61
def PlEnt.tgt (e : PlEnt) : Nat := fld e.w0 59 48
def PlEnt.ver (e : PlEnt) : Nat := fld e.w0 47 32
def PlEnt.cur (e : PlEnt) : Nat := fld e.w0 11 0

/-- The extents a path into a box is measured against: the box's own, or for a system box the shard's at a mesh
coordinate in a state (R26, R105). -/
def shardExts (msh m : Word) (b : Desc) (cur : Nat) : List Nat :=
  (List.range 4).map fun i => (shardDim msh m b.fmt cur (b.ext i) i).2

/-! The system registers of faults (R28, R121). -/

/-- bxf (R28). EXTENT has 16 bits: for a tagged class whose E0 rounds up to 65,536 the spec does not say what stands there. DESIGN CHOICE:
the extent modulo 65,536, which is 0; assumption log 120. -/
def bxfOf (coord : Int) (ext slot dim cause : Nat) : Word :=
  atBit (sat32 coord) 32 ||| atBit (ext % 65536) 16 ||| atBit slot 12 ||| atBit dim 10 ||| atBit cause 7

/-- plf (R121). -/
def plfOf (seq peer mask cause place : Nat) : Word :=
  atBit (seq % 2 ^ 32) 32 ||| atBit peer 21 ||| atBit mask 18 ||| atBit cause 14 ||| atBit place 0

/-- A failed check: the trap cause and the registers it also writes. -/
abbrev Bad := Nat × List (Nat × Word)

/-- The box-bound fault with bxf. -/
def boundBad (coord : Int) (ext slot dim cause : Nat) : Bad := (0x0A, [(0x00A, bxfOf coord ext slot dim cause)])

/-! The bounds check (R26, R28). -/

/-- E0 as the bounds check uses it: rounded up to whole blocks for a tagged class (R26); assumption log 6. -/
def roundExt (fmt e : Nat) : Nat := if fmtTagged fmt then cdiv e (fmtPer fmt) * fmtPer fmt else e

/-- The coordinates of one run against the extents, in dimension order (R26); COORD of d0 is the last element of the
run (R28, assumption log 7). -/
def crdCheck (slot fmt : Nat) (exts : List Nat) (crd : List Int) (run : Nat) : Except Bad Unit :=
  let e0 := roundExt fmt (exts.getD 0 0)
  let c0 := crd.getD 0 0
  let last := c0 + (run : Int) - 1
  if c0 < 0 ∨ last ≥ e0 then .error (boundBad last e0 slot 0 0)
  else
    let bad (i : Nat) : Bool := decide (crd.getD i 0 < 0) || decide (crd.getD i 0 ≥ (exts.getD i 0 : Nat))
    if bad 1 then .error (boundBad (crd.getD 1 0) (exts.getD 1 0) slot 1 0)
    else if bad 2 then .error (boundBad (crd.getD 2 0) (exts.getD 2 0) slot 2 0)
    else if bad 3 then .error (boundBad (crd.getD 3 0) (exts.getD 3 0) slot 3 0)
    else .ok ()

/-- A mesh coordinate against the mesh (R23, R26, R28). -/
def meshCheck (slot : Nat) (msh m : Word) : Except Bad Unit :=
  if fld m 63 33 != 0 then .error (boundBad (min (fld m 63 33) (2 ^ 31 - 1) : Nat) 0 slot 3 2)
  else
    let bad (a : Nat) : Bool := axis m a ≥ axisSize msh a
    if bad 0 then .error (boundBad (axis m 0) (axisSize msh 0) slot 0 2)
    else if bad 1 then .error (boundBad (axis m 1) (axisSize msh 1) slot 1 2)
    else if bad 2 then .error (boundBad (axis m 2) (axisSize msh 2) slot 2 2)
    else .ok ()

/-- A resolved path: box slot, coordinates and the mesh coordinate where a selector stands (R21, R22). -/
structure RPath where
  slot : Nat
  crd  : List Int
  mesh : Option Word
  deriving DecidableEq, Repr

/-- A coordinate operand, read as signed (R21). -/
def Ctx.coord (c : Ctx) (o : Opnd) : Int :=
  match o with
  | .g n => (c.g n).toInt
  | .imm n => immVal n
  | _ => 0

/-- A path resolved from the registers (R21, R22). -/
def Ctx.resolve (c : Ctx) (p : Path) : RPath :=
  { slot := p.bx.toNat, crd := [c.coord p.c0, c.coord p.c1, c.coord p.c2, c.coord p.c3],
    mesh := if p.msel = 0 then none else some (c.g (p.msel.setWidth 5)) }

/-- The path of an M-slot operation at this issue: from the registers, or from the sticky record with d0 advanced by
the step count times the access width (R25, R179). -/
def pathM (h : Nat) (p : Path) : M RPath := do
  let c ← ctxM h
  let s ← getM
  match recordOf s .m with
  | some k =>
    pure { slot := p.bx.toNat, mesh := k.mesh,
           crd := (k.crd.getD 0 0 + (k.s * k.w : Nat)) :: k.crd.drop 1 }
  | none => pure (c.resolve p)

/-- The placement state of an entry that an access is measured in (R120): a local read of a converting tensor takes effect after
the conversion, and so is measured in the target state. A tensor whose entry is not VALID is read in the state its CUR holds;
assumption log 10. -/
def PlEnt.state (e : PlEnt) (rd : Bool) : Nat := if rd && e.cip then e.tgt else e.cur

/-- The extents of a box for a context: its own, or those of the shard at a mesh coordinate (R26), for a local read or another
access. -/
def State.extsFor (s : State) (c : Ctx) (b : Desc) (mesh : Option Word) (rd : Bool) : List Nat :=
  if b.level != 3 then b.exts
  else match c.task with
    | some t =>
      let d := s.dc t.dev t.dctx
      shardExts d.msh (mesh.getD d.mco) b ((s.entry t.dev t.dctx b).state rd)
    | none => b.exts

/-- Whether the tensor of a placement index is being converted on the device of a context (R120). -/
def State.converting (s : State) (c : Ctx) (place : Nat) : Bool := ((mfind (s.taskDc c).place place).getD PlEnt.zero).cip

/-- The placement index of a system box whose tensor is being converted: a local read of it waits (R120). -/
def State.convOf (s : State) (c : Ctx) (b : Desc) : Option Nat :=
  if b.level == 3 && s.converting c b.place then some b.place else none

/-- The checks of R26 that do not depend on coordinates, in the order of R28: an empty slot, a selector on a box that
is no system box, a coordinate outside the mesh. -/
def pathCheck (s : State) (c : Ctx) (b : Desc) (p : RPath) : Except Bad Unit :=
  if !b.valid then .error (boundBad 0 0 p.slot 0 1)
  else match p.mesh with
    | none => .ok ()
    | some m => if b.level != 3 then .error (boundBad 0 0 p.slot 0 3) else meshCheck p.slot (s.taskDc c).msh m

/-- Row `k` of an access: d1 plus k (R233). -/
def RPath.rowAt (p : RPath) (k : Nat) : List Int :=
  [p.crd.getD 0 0, p.crd.getD 1 0 + k, p.crd.getD 2 0, p.crd.getD 3 0]

/-- The row of an access whose coordinates fail first in dimension order (R28): the first with a failing d1, else row 0. -/
def firstBadRow (ex : List Nat) (p : RPath) (rows : Nat) : Nat :=
  ((List.range rows).find? fun k => decide ((p.rowAt k).getD 1 0 < 0) || decide ((p.rowAt k).getD 1 0 ≥ (ex.getD 1 0 : Nat))).getD 0

/-- Check 3 of R234 for every row, and the write through an in slot (R26 to R28); `rd` marks a local read. -/
def boundsAll (s : State) (c : Ctx) (b : Desc) (p : RPath) (run rows : Nat) (wr : Bool) (rd : Bool := !wr) : Except Bad Unit := do
  pathCheck s c b p
  let ex := s.extsFor c b p.mesh rd
  crdCheck p.slot b.fmt ex (p.rowAt (firstBadRow ex p rows)) run
  if wr && b.acc == 0 then .error (0x0D, [(0x00A, bxfOf 0 0 p.slot 0 4)]) else .ok ()

/-! Places (R17 to R19). -/

/-- A run of location bytes cut at granule boundaries: location and length. -/
def cutGran (loc n : Nat) : Nat → List (Nat × Nat)
  | 0 => []
  | k + 1 =>
    if n = 0 then []
    else
      let m := min n (64 - loc % 64)
      (loc, m) :: cutGran (loc + m) (n - m) k

/-- Location and byte count of a run of elements (R17). Blocks of a tagged class are reached whole. -/
def runBytes (b : Desc) (crd : List Int) (run : Nat) : Nat × Nat :=
  let c (i : Nat) : Nat := (crd.getD i 0).toNat
  let g := b.granLoc (c 0) (c 1) (c 2) (c 3)
  if fmtTagged b.fmt then (g, 64 * cdiv run (fmtPer b.fmt)) else (g + b.inGran (c 0), run * fmtBytes b.fmt)

/-- A location of a box made a place (R18): the owning core's scratchpad, the cluster's pool, or device memory through
translation. A translation failure writes tinf with the address (R226). -/
def State.placeOf (s : State) (h : Nat) (b : Desc) (loc : Nat) (wr : Bool) : Except Bad (Place × Nat) × State :=
  let c := s.ctx h
  match c.task with
  | none => (.error (0x0C, []), s)
  | some t =>
    if b.level = 0 then (.ok (.sp (coreOf h * 2 ^ 18 + loc), 1), s)
    else if b.level = 1 then (.ok (.sp (poolAddr (cluOf h) (s.taskDc c).own loc), 2), s)
    else
      match s.xlateFor h t.dev t.dctx loc b.key wr with
      | (.ok pa, s') => (.ok (s.hbmPlace t.dev pa b.key, 4), s')
      | (.noPage, s') => (.error (0x0C, [(0x023, BitVec.ofNat 64 loc)]), s')
      | (.denied, s') => (.error (0x0D, [(0x023, BitVec.ofNat 64 loc)]), s')

/-- The pieces of the runs given, each within one granule, or the first failure (R234 check 6). -/
def State.piecesOf (s : State) (h : Nat) (b : Desc) (wr : Bool) : List (Nat × Nat) → Except Bad (List Piece) × State
  | [] => (.ok [], s)
  | (loc, n) :: l =>
    match s.placeOf h b loc wr with
    | (.error e, s1) => (.error e, s1)
    | (.ok (p, hl), s1) =>
      match s1.piecesOf h b wr l with
      | (.error e, s2) => (.error e, s2)
      | (.ok ps, s2) => (.ok ({ pl := p, n := n, hl := hl, lvl := 0, stamp := 0, data := [], tag := none } :: ps), s2)

/-- The pieces of one run of elements. -/
def State.runPieces (s : State) (h : Nat) (b : Desc) (crd : List Int) (run : Nat) (wr : Bool) :
    Except Bad (List Piece) × State :=
  let (loc, n) := runBytes b crd run
  s.piecesOf h b wr (cutGran loc n (n / 64 + 2))

/-- The pieces of every row of an access, row by row (R233). -/
def State.rowsPieces (s : State) (h : Nat) (b : Desc) (p : RPath) (run : Nat) (wr : Bool) :
    List Nat → Except Bad (List (List Piece)) × State
  | [] => (.ok [], s)
  | k :: ks =>
    match s.runPieces h b (p.rowAt k) run wr with
    | (.error e, s1) => (.error e, s1)
    | (.ok ps, s1) =>
      match s1.rowsPieces h b p run wr ks with
      | (.error e, s2) => (.error e, s2)
      | (.ok l, s2) => (.ok (ps :: l), s2)

/-- A computation over the state that fails with a trap, inside an issue. -/
def runBad {α : Type} (f : State → Except Bad α × State) : M α := fun s =>
  match f s with
  | (.ok a, s') => .ok (a, s')
  | (.error (c, rs), _) => (trapM c 0 rs : M α) s

/-- Check 2 of R234 for a local operation: a mesh selector names the device's own coordinate (R237). -/
def ownMesh (s : State) (c : Ctx) (p : RPath) : Bool :=
  match p.mesh with
  | none => true
  | some m => m == (s.taskDc c).mco

/-- Check 5 of R234: a converting tensor refuses a write; a load issues, and waits in its queue until the conversion completes
(R120). -/
def convCheck (h : Nat) (b : Desc) (wr : Bool) : M Unit := do
  let c ← ctxM h
  let s ← getM
  match c.task with
  | none => pure ()
  | some t =>
    if b.level != 3 then pure ()
    else
      let e := s.entry t.dev t.dctx b
      if e.cip && wr then
        let q := match e.conv with | some k => k.seq | none => fld e.w1 63 32
        let m := match e.conv with | some k => k.mask | none => 0
        trapM 0x10 0 [(0x00C, plfOf q 0 m 0 b.place)]
      else pure ()

/-- Checks 3 to 6 of R234 for a local access, and the pieces of its rows. An access with no run or no row moves and
checks nothing (R233). -/
def accessM (h : Nat) (b : Desc) (p : RPath) (run rows : Nat) (wr aligned : Bool) : M (List (List Piece)) := do
  if run = 0 ∨ rows = 0 then pure []
  else
    let c ← ctxM h
    let s ← getM
    liftM' (boundsAll s c b p run rows wr)
    needM aligned 0x13
    convCheck h b wr
    runBad fun s => s.rowsPieces h b p run wr (List.range rows)

/-- A read at issue of a converting tensor is a late item (R120). -/
def convStall (h : Nat) (b : Desc) : M Unit := do
  let c ← ctxM h
  let s ← getM
  if (s.convOf c b).isSome then stallM 1 else pure ()

/-! Address generators (R180 to R182). -/

/-- Loop levels minus 1, run length, box slot and mesh selector of a parameter set (R180). -/
def parWord (par : List Word) (k : Nat) : Word := par.getD k 0
def parNlv (par : List Word) : Nat := fld (parWord par 0) 33 32
def parWid (par : List Word) : Nat := fld (parWord par 0) 31 23 + 1
def parBox (par : List Word) : Nat := fld (parWord par 0) 11 8

/-- The position a walk's indexes name (R181). -/
def walkPos (par : List Word) (idx : List Nat) : List Int :=
  let org (d : Nat) : Int := fld (parWord par 1) (16 * d + 15) (16 * d)
  (List.range 4).map fun d =>
    (List.range (parNlv par + 1)).foldl (fun a k =>
      let w := parWord par (2 + k)
      if fld w 49 48 = d then a + (idx.getD k 0 : Int) * toSigned 16 (fld w 47 32) else a) (org d)

/-- The indexes after one advance, and whether the walk is exhausted (R181). -/
def walkNext (par : List Word) (idx : List Nat) : List Nat × Bool :=
  let rec go : Nat → Nat → List Nat → List Nat × Bool
    | 0, _, is => (is, true)
    | n + 1, k, is =>
      let i := is.getD k 0 + 1
      if i < fld (parWord par (2 + k)) 31 0 then (is.set k i, false) else go n (k + 1) (is.set k 0)
  go (parNlv par + 1) 0 idx

/-- The path of a generator's run: its box, its position, and the mesh coordinate its last parameter word keeps from
arming (R180). -/
def genPath (par : List Word) (idx : List Nat) : RPath :=
  { slot := parBox par, crd := walkPos par idx,
    mesh := if fld (parWord par 0) 15 12 = 0 then none else some (parWord par 6) }

/-- The checks a port's run from element `off` on meets: R26, the selector of another coordinate (R237), alignment, and
translation (R182). A run of no element checks nothing. -/
def portRun (h : Nat) (par : List Word) (idx : List Nat) (off run : Nat) (wr : Bool) : M (List Piece) := do
  let c ← ctxM h
  let p := genPath par idx
  let p := { p with crd := (p.crd.getD 0 0 + off) :: p.crd.drop 1 }
  let b := c.box p.slot
  let s ← getM
  if run = 0 then pure () else liftM' (pathCheck s c b p)
  needM (run == 0 || ownMesh s c p) 2
  let ok := !fmtTagged b.fmt || (p.crd.getD 0 0) % (fmtPer b.fmt : Nat) == 0
  let l ← accessM h b p run 1 wr ok
  pure l.flatten

end Sys2Proof.Machine
end

