-- ==== Sys2Proof/Machine/Package.lean ====
section
/-! DEFINITION. The anvil (R342, R343, R345): the links between the sockets of the package, the fixed routes over them, and the escape
routes. -/

namespace Sys2Proof.Machine

/-- A package link by its sockets: 0 to 7 compute dies, 8 and 9 I/O dies, 10 to 17 stacks. -/
def pkgKey (a b : Nat) : Nat := min a b * 32 + max a b

/-- Whether a package link exists (R342). -/
def pkgLink (a b : Nat) : Bool :=
  let x := min a b
  let y := max a b
  (x < 8 && y == 10 + x) || (x < 8 && y < 8 && (y == x + 1 || (x == 0 && y == 7))) || (x < 8 && (y == 8 || y == 9)) || (x == 8 && y == 9)

/-- Whether a package link still carries traffic. -/
def State.pkgUp (s : State) (a b : Nat) : Bool := pkgLink a b && mget 0 s.pkg (pkgKey a b) != 8

/-- The links from compute die to compute die: the shorter way round the ring, at distance 4 in ascending order (R343). -/
def ringRoute (a b : Nat) : List (Nat × Nat) :=
  let d := (b + 8 - a) % 8
  if d ≤ 4 then (List.range d).map fun i => ((a + i) % 8, (a + i + 1) % 8)
  else (List.range (8 - d)).map fun i => ((a + 8 - i) % 8, (a + 7 - i) % 8)

/-- The die whose router stands for a socket: of a stack, the compute die beside it. -/
def routerOf (x : Nat) : Nat := if x ≥ 10 then x - 10 else x

/-- The fixed route between two sockets (R343). -/
def pkgRoute (a b : Nat) : List (Nat × Nat) :=
  let x := routerOf a
  let y := routerOf b
  (if a = x then [] else [(a, x)]) ++
  (if x < 8 ∧ y < 8 then ringRoute x y else if x = y then [] else [(x, y)]) ++
  (if b = y then [] else [(y, b)])

/-- The escape route between two sockets by an I/O die (R345). -/
def escapeRoute (e a b : Nat) : List (Nat × Nat) := pkgRoute a e ++ pkgRoute e b

/-- The virtual channel and the links of a packet between two sockets (R342, R345): VC0 for a request and VC1 for a response on the fixed
route; where a link of it has failed, VC2 by I/O die 8, else by I/O die 9; none where no escape route is whole. -/
def State.pkgPath (s : State) (a b : Nat) (resp : Bool) : Option (Nat × List (Nat × Nat)) :=
  let whole (l : List (Nat × Nat)) : Bool := l.all fun x => s.pkgUp x.1 x.2
  if whole (pkgRoute a b) then some (if resp then 1 else 0, pkgRoute a b)
  else if whole (escapeRoute 8 a b) then some (2, escapeRoute 8 a b)
  else if whole (escapeRoute 9 a b) then some (2, escapeRoute 9 a b)
  else none

/-- The socket of a home: a compute die for a scratchpad, a stack for device memory. -/
def sockOf (p : Place) : Nat :=
  match p with
  | .sp a => a / 2 ^ 18 / 640
  | .hbm a _ => 10 + a / 2 ^ 36

/-- Whether an access of a context can travel to a place and its answer back; else it stays in its virtual channel (R345). A remote access
waits at the edge of the package for its own reasons. -/
def State.reaches (s : State) (h : Nat) (p : Place) : Bool :=
  s.pkg.isEmpty || sockOf p ≥ 18 || ((s.pkgPath (dieOf h) (sockOf p) false).isSome && (s.pkgPath (sockOf p) (dieOf h) true).isSome)

end Sys2Proof.Machine
end

