-- ==== Sys2Proof/Machine/Operands.lean ====
section
/-! DEFINITION. Every operand form: scalar sources and destinations, queues and channels, views and rows, and the frame
in which a slot operation runs at its issue (R171 to R179, R192, R265). -/

namespace Sys2Proof.Machine

/-- The next place in the program order of a context. -/
def seqM (h : Nat) : M Nat := do
  let c ← ctxM h
  modM h fun c => { c with q := { c.q with seq := c.q.seq + 1 } }
  pure c.q.seq

/-- A push put into its queue at its issue, in program order (R133, R341); its number is the answer. -/
def pushM (h n : Nat) (kind : AccKind) (ps : List Piece) : M Nat := do
  let seq ← seqM h
  let s ← getM
  updM State.bump
  let a : Acc := { tok := s.clk.tick, seq := seq, kind := kind, acq := none, rel := none, conv := none, ps := ps }
  modM h fun c => { c with q := { c.q with pw := mput [] c.q.pw n (mget [] c.q.pw n ++ [a]) } }
  pure a.tok

/-! Channels (R173, R174, R340, R341). -/

/-- A channel of a device context as an operand finds it: index, table words. -/
structure ChanRef where
  dev  : Nat
  dctx : Nat
  idx  : Nat
  w0   : Word
  w1   : Word

def ChanRef.kind (r : ChanRef) : Nat := fld r.w0 62 61
def ChanRef.depth (r : ChanRef) : Nat := fld r.w0 60 55 + 1
def ChanRef.fmt (r : ChanRef) : Nat := fld r.w0 14 10
def ChanRef.cols (r : ChanRef) : Nat := fld r.w0 9 0 + 1
def ChanRef.size (r : ChanRef) : Nat := fmtBytes r.fmt * r.cols

/-- The channel a name reaches; an unbound name raises the illegal-operand trap (R173). -/
def chanM (h : Nat) (n : BitVec 3) (field : Nat) : M ChanRef := do
  let c ← ctxM h
  let s ← getM
  match c.task, c.chan n.toNat with
  | some t, some i =>
    let (w0, w1) := (mfind (s.dc t.dev t.dctx).chan i).getD (0, 0)
    pure { dev := t.dev, dctx := t.dctx, idx := i, w0 := w0, w1 := w1 }
  | _, _ => trapM 3 field

/-- Whether a marker of the load queue still waits for an earlier store or landed push to pass the first point (R127, R341). -/
def Ctx.popHeld (c : Ctx) : Bool :=
  (c.q.lq.filter fun m => match m.kind with | .align => true | _ => false).any fun m =>
    (c.q.sq ++ c.q.pw.flatMap (·.2)).any fun a => a.seq < m.seq &&
      (match a.kind with
       | .push landed => landed && a.ps.any fun p => p.lvl < min 1 p.hl
       | .chPush _ r => r.isSome
       | .align => false
       | .remote ps _ _ => !ps.isEmpty
       | _ => a.ps.any fun p => p.lvl < min 1 p.hl)

/-- One element popped from a channel; a receive end returns a credit (R341). A pop is a load to the markers before it: the issue
stalls while one waits for a store or a push that has landed; one that has not landed cannot land in a stall (R148). -/
def popCh (h : Nat) (n : BitVec 3) (field : Nat) : M (ChanRef × List Byte) := do
  let r ← chanM h n field
  needM (r.kind == 1 || r.kind == 2) 3 field
  let s ← getM
  match (mfind (s.dc r.dev r.dctx).chq r.idx).getD [] with
  | [] => blockM (.chEmpty n.toNat)
  | e :: es =>
    if (s.ctx h).popHeld then stallM 6 else pure ()
    updM fun s => s.modDc r.dev r.dctx fun d =>
      { d with chq := mins d.chq r.idx es,
               chan := if r.kind = 1 then mins d.chan r.idx (r.w0, putFld r.w1 22 16 (fld r.w1 22 16 - 1)) else d.chan }
    if r.kind = 1 then updM fun s => s.creditBack r.dev r.dctx r.w0
    pure (r, e)

/-- Pops of one queue that the rest of the issue still makes, under their guards (R174). -/
def laterPops (c : Ctx) (q : Opnd) : List Instr → Nat
  | [] => 0
  | i :: is =>
    (match slotInfo i with
     | some (_, g, _) => if c.guard g then ((srcsOf i).filter (· == q)).length else 0
     | none => 0) + laterPops c q is

/-- The operations that follow in this issue. -/
def laterM : M (List Instr) := fun s => .ok ((match s.iss with | some i => i.later | none => []), s)

/-- Pushes of cq that latches hold reserved (R174). -/
def cqReserved (c : Ctx) : Nat :=
  let count (l : List Latch) := (l.map fun x => (x.wrs.filter fun w => match w with | .pushCq _ => true | _ => false).length).foldl (· + ·) 0
  count c.lats + (match c.trp.aside with | some a => count a.lats | none => 0)

/-- A place of cq reserved for a push, or a block while it is full (R151, R174). -/
def reserveCq (h : Nat) : M Unit := do
  let c ← ctxM h
  let l ← laterM
  if c.q.cq.length + cqReserved c ≥ 8 + laterPops c .cq l then blockM .cqFull else pure ()

/-- A place of a channel reserved for a push: a credit of a send end, or a place of a local channel (R341). -/
def reserveCh (h : Nat) (n : BitVec 3) (field : Nat) : M ChanRef := do
  let r ← chanM h n field
  needM (r.kind == 0 || r.kind == 2) 3 field
  let c ← ctxM h
  let l ← laterM
  let s ← getM
  if r.kind = 0 then
    needM (s.peerUp (fld r.w0 54 44)) 0x0F
    if fld r.w1 22 16 = 0 then blockM (.chFull n.toNat)
    else updM fun s => s.modDc r.dev r.dctx fun d => { d with chan := mins d.chan r.idx (r.w0, putFld r.w1 22 16 (fld r.w1 22 16 - 1)) }
  else
    let d := s.dc r.dev r.dctx
    let held := ((mfind d.chq r.idx).getD []).length + mget 0 d.chres r.idx
    if held ≥ r.depth + laterPops c (.ch n) l then blockM (.chFull n.toNat)
    else updM fun s => s.modDc r.dev r.dctx fun d => { d with chres := mmod 0 d.chres r.idx (· + 1) }
  pure r

/-! Completion records (R84, R88, R89, R253). -/

/-- Fields of a record. -/
def recHandle (r : BitVec 128) : Nat := (r.extractLsb' 0 16).toNat
def recKind (r : BitVec 128) : Nat := (r.extractLsb' 16 8).toNat
def recStatus (r : BitVec 128) : Nat := (r.extractLsb' 24 8).toNat

/-- The handle of entry `i` of a call table, or of a spawn table with bit 16 set (R84, R253). -/
def handleOf (spawn : Bool) (gen i : Nat) : Nat := (if spawn then 65536 else 0) + gen * 256 + i

/-- A consumed record frees the entry it names (R84, R89). -/
def State.consume (s : State) (h : Nat) (r : BitVec 128) : State :=
  let i := recHandle r % 256
  let free (m : SMap CallEnt) : SMap CallEnt :=
    match mfind m i with
    | some e => if e.st = .done ∧ e.parent = h ∧ e.gen = recHandle r / 256 then mins m i { CallEnt.zero with gen := e.gen } else m
    | none => m
  if recKind r ≤ 2 then s.modClu (cluOf h) fun k => { k with calls := free k.calls }
  else if recKind r ≤ 4 then
    match (s.ctx h).task with
    | some t => s.modDc t.dev t.dctx fun d => { d with spawn := free d.spawn }
    | none => s
  else s

/-! Scalar operands (R192, R236, R250). -/

/-- A scalar source read at issue; a queue gives up one item (R174, R192). -/
def rdScalar (h : Nat) (o : Opnd) (field : Nat) : M Word := do
  let c ← ctxM h
  match o with
  | .g n => pure (c.g n)
  | .imm n => pure (wordOf (immVal n))
  | .sb n => pure (if n = 0 then c.byp.sb0 else c.byp.sb1)
  | .cq =>
    match c.q.cq with
    | [] => blockM .cqEmpty
    | b :: l =>
      modM h fun c => { c with q := { c.q with cq := l } }
      pure (if b then 1 else 0)
  | .eq =>
    match c.q.eq with
    | [] => blockM .eqEmpty
    | r :: l =>
      modM h fun c => { c with q := { c.q with eq := l } }
      updM fun s => s.consume h r
      pure (r.extractLsb' 0 64)
  | .ch n =>
    let r ← chanM h n field
    needM (r.size ≤ 8) 3 field
    let (_, e) ← popCh h n field
    pure (BitVec.ofNat 64 (ofBytes e))
  | _ => trapM 3 field

/-- The writes that put a scalar result into a destination; a queue reserves its place (R174, R192). A result that
commits to a scalar register becomes sb0 (R175), g0 included; assumption log 8. -/
def wrScalar (h : Nat) (o : Opnd) (v : Word) : M (List Wr) := do
  match o with
  | .g n => pure [.bytes (8 * n.toNat) (toBytes 8 v.toNat), .sb v]
  | .cq => reserveCq h; pure [.pushCq (v != 0)]
  | .ch n =>
    let r ← chanM h n 0
    needM (r.size ≤ 8) 3 0
    let r ← reserveCh h n 0
    let tok ← pushM h (8 + n.toNat) (.chPush n.toNat none) []
    pure [.pushCh n.toNat tok { fmt := r.fmt, bytes := toBytes r.size v.toNat, tags := [] }]
  | _ => trapM 3 0

/-! Views (R55 to R58). -/

/-- A view as an operation reads it: its effective base already holds rotation and step. -/
structure View where
  fmt    : Nat
  rows   : Nat
  cols   : Nat
  stride : Nat
  base   : Nat
  deriving DecidableEq, Repr

/-- Granules in one row (R56). -/
def View.w (v : View) : Nat := cdiv v.cols (fmtPer v.fmt)

/-- The size of a view in granules, the step of R179. -/
def View.z (v : View) : Nat := if v.rows = 1 ∨ v.stride = 0 then v.w else v.stride * v.rows

/-- The last granule of a view from a base (R56). -/
def View.lastOf (v : View) (b : Nat) : Nat := b + v.stride * (v.rows - 1) + v.w - 1

/-- The slots of the ring a view register can reach (R55). -/
def ringOf (r : Word) : Nat := if bitOf r 50 then 2 ^ fld r 52 51 else 1

/-- The granule of slot `k` of the ring (R56). -/
def ringBase (r : Word) (k : Nat) : Nat := fld r 7 0 + (if bitOf r 50 then fld r 63 56 * k else 0)

/-- A view register read with the rotation base (R55, R56). -/
def viewOfReg (r : Word) (rb : Nat) : View :=
  { fmt := fld r 46 42, rows := fld r 33 29 + 1, cols := fld r 28 20 + 1, stride := fld r 41 34,
    base := ringBase r ((fld r 55 53 + rb) % ringOf r) }

/-- Whether a view register is well formed (R56). -/
def viewRegOk (r : Word) : Bool :=
  let v := viewOfReg r 0
  fmtOk v.fmt && v.w ≤ 4 && (v.stride == 0 || v.stride ≥ v.w) &&
    allBelow (ringOf r) fun k => v.lastOf (ringBase r k) ≤ 255

/-- A view operand, stepped when its flag is set; one that is not well formed raises the illegal-operand trap
(R56, R179). -/
def viewM (h : Nat) (sl : Slot) (n : BitVec 5) (stepped : Bool) (field : Nat) : M View := do
  let c ← ctxM h
  let s ← getM
  let r := mget 0 c.f.vd n.toNat
  let v := viewOfReg r c.sys.rb.toNat
  needM (viewRegOk r) 3 field
  let v := if stepped then { v with base := v.base + stepCount s sl * v.z } else v
  needM (v.lastOf v.base ≤ 255) 3 field
  pure v

/-- The granule that holds an element (R56). -/
def View.gran (v : View) (row col : Nat) : Nat := v.base + v.stride * row + col / fmtPer v.fmt

/-- The register byte of an element of a raw format. -/
def View.addr (v : View) (row col : Nat) : Nat := v.gran row col * 64 + col % fmtPer v.fmt * fmtBytes v.fmt

/-- An element of a view, as its bits (R56, R36). -/
def Ctx.elem (c : Ctx) (v : View) (row col : Nat) : Nat :=
  if fmtRaw v.fmt then ofBytes (c.rsBytes (v.addr row col) (fmtBytes v.fmt))
  else elemOf v.fmt (c.rsBytes (v.gran row col * 64) 64) (col % fmtPer v.fmt)

/-- The words of a view of FMT 7 or 11 in row-major order (R80, R180, R254). -/
def Ctx.viewWords (c : Ctx) (v : View) : List Word :=
  (List.range (v.rows * v.cols)).map fun k => BitVec.ofNat 64 (c.elem v (k / v.cols) (k % v.cols))

/-- A control block read through a view: a view of FMT 7 or 11 with at least `n` words (R80, R180, R254, R258). -/
def blockWords (h : Nat) (w : BitVec 5) (sl : Slot) (field n : Nat) : M (List Word) := do
  let v ← viewM h sl w false field
  needM ((v.fmt == 7 || v.fmt == 11) && v.rows * v.cols ≥ n) 3 field
  let c ← ctxM h
  pure (c.viewWords v)

/-! Rows and lanes of the V and X slots (R176, R265, R266). -/

/-- A source of lanes: its format, extent, the element at a lane and the tag of a block of a row. `one` marks a row
that stands for every row. -/
structure Src where
  fmt  : Nat
  rows : Nat
  cols : Nat
  one  : Bool
  elt  : Nat → Nat → Nat
  tag  : Nat → Nat → Tag
  img  : Nat → List Byte

/-- A lane of a source: 0 outside its extent (R266). -/
def Src.at (x : Src) (row col : Nat) : Nat :=
  if col ≥ x.cols ∨ (x.one = false ∧ row ≥ x.rows) then 0 else x.elt (if x.one then 0 else row) col

/-- A view as a source. -/
def srcOfView (c : Ctx) (v : View) : Src :=
  { fmt := v.fmt, rows := v.rows, cols := v.cols, one := false,
    elt := fun r k => c.elem v r k, tag := fun r b => c.rtag (v.base + v.stride * r + b),
    img := fun r => c.rsBytes ((v.base + v.stride * r) * 64) (64 * v.w) }

/-- A row as a source: it stands for every row (R176). Format 32 marks a bypass no result has left. -/
def srcOfRow (x : Row) (fmt : Nat) : Src :=
  let f := if x.fmt = 32 then fmt else x.fmt
  { fmt := f, rows := 1, cols := if x.fmt = 32 then colCap f else x.bytes.length / 64 * fmtPer f + x.bytes.length % 64 * 8 / fmtBits f,
    one := true,
    elt := fun _ k =>
      if fmtRaw f then ofBytes ((x.bytes.drop (k * fmtBytes f)).take (fmtBytes f))
      else elemOf f ((x.bytes.drop (64 * (k / fmtPer f))).take 64) (k % fmtPer f),
    tag := fun _ b => x.tags.getD b 0, img := fun _ => x.bytes }

/-- A scalar as one element of the operation format, broadcast over the grant (R176). -/
def srcOfScalar (fmt bits : Nat) : Src :=
  { fmt := fmt, rows := 1, cols := 512, one := true, elt := fun _ _ => bits, tag := fun _ _ => 0, img := fun _ => [] }

/-- The flag of a step field for an operand position. -/
def flagAt (st : BitVec 4) (k : Nat) : Bool := st.getLsbD k

/-- One pop of a read port, which advances the walk (R182). A run not fetched yet is a late item; a run that fails its
checks raises its trap here; a disarmed port or an exhausted walk raises the illegal-operand trap. -/
def popPort (h : Nat) (n : BitVec 2) (field : Nat) : M Row := do
  let c ← ctxM h
  match mget none c.q.ag n.toNat with
  | none => trapM 3 field
  | some gen =>
    needM (!gen.past) 3 field
    match gen.fetched with
    | [] =>
      let _ ← portRun h gen.par gen.idx 0 (parWid gen.par) false
      stallM 2
    | r :: rs =>
      let (idx, ov) := walkNext gen.par gen.idx
      let gen' := { gen with fetched := rs, idx := idx, past := ov, pos := gen.pos + 1 }
      modM h fun c => { c with q := { c.q with ag := mput none c.q.ag n.toNat (some gen') } }
      pure r

/-- Bytes the active columns of a row need (R265). -/
def rowBytes (fmt cols : Nat) : Nat := if fmtTagged fmt then 64 * cdiv cols (fmtPer fmt) else cols * fmtBytes fmt

/-- A row source of the V or X slot (R265): a view, a port's row, a bypass row or a channel element. -/
def rowSrc (h : Nat) (sl : Slot) (o : Opnd) (stepped : Bool) (field dflt : Nat) : M Src := do
  let c ← ctxM h
  match o with
  | .w n => let v ← viewM h sl n stepped field; pure (srcOfView c v)
  | .rp n =>
    let r ← popPort h n field
    let s ← getM
    let wid := match mget none (s.ctx h).q.ag n.toNat with | some g => parWid g.par | none => 0
    pure { srcOfRow r r.fmt with cols := wid }
  | .vb n => pure (srcOfRow (if n = 0 then c.byp.vb0 else c.byp.vb1) dflt)
  | .xb => pure (srcOfRow c.byp.xb dflt)
  | .ch n =>
    let (r, e) ← popCh h n field
    pure { srcOfRow { fmt := r.fmt, bytes := e, tags := [] } r.fmt with cols := r.cols }
  | _ => trapM 3 field

/-- The destination of a V- or X-slot operation as it decides lanes: its format and extent (R265, R266). -/
structure Dst where
  fmt  : Nat
  rows : Nat
  cols : Nat
  view : Option View

/-- A destination read at issue: a view's extent, else one row of the column cap of its format (R265, R266). -/
def dstM (h : Nat) (sl : Slot) (o : Opnd) (stepped : Bool) : M Dst := do
  let c ← ctxM h
  match o with
  | .w n => let v ← viewM h sl n stepped 0; pure { fmt := v.fmt, rows := v.rows, cols := v.cols, view := some v }
  | .wp n =>
    match mget none c.q.ag (4 + n.toNat) with
    | none => trapM 3 0
    | some g => needM (!g.past) 3 0; let f := (c.box (parBox g.par)).fmt; pure { fmt := f, rows := 1, cols := colCap f, view := none }
  | .g _ => let f := fld c.sys.sh 20 16; pure { fmt := f, rows := 1, cols := colCap f, view := none }
  | .ch n => let r ← chanM h n 0; pure { fmt := r.fmt, rows := 1, cols := colCap r.fmt, view := none }
  | _ => trapM 3 0

/-- Granted rows and columns (R220). -/
def grantRows (c : Ctx) : Nat := fld c.sys.sh 15 10
def grantCols (c : Ctx) : Nat := fld c.sys.sh 9 0

/-- A mask as lanes (R266): none where MEN is 0. -/
def maskM (h : Nat) (m : VMask) : M (Nat → Nat → Bool) := do
  if m.men = 0 then pure fun _ _ => true
  else
    let v ← viewM h .v m.mv false 10
    let c ← ctxM h
    pure fun r k => decide (r < v.rows ∧ k < v.cols) && ((c.elem v r k != 0) != (m.mneg == 1))

/-- What a lane of the destination receives: a value, zero, or nothing. -/
inductive Lane where
  | val (v : Nat)
  | keep
  deriving DecidableEq, Repr

/-- Consecutive lanes of a row that receive values, gathered into runs of bytes from column `k` on. -/
def laneRuns (sz : Nat) : Nat → List Lane → List (Nat × List Byte)
  | _, [] => []
  | k, .keep :: l => laneRuns sz (k + 1) l
  | k, .val v :: l =>
    match laneRuns sz (k + 1) l with
    | (j, bs) :: r => if j = k + 1 then (k, toBytes sz v ++ bs) :: r else (k, toBytes sz v) :: (j, bs) :: r
    | [] => [(k, toBytes sz v)]

/-- Whether every lane of a granule of a row is written. -/
def granWhole (lanes : List Lane) (per g : Nat) : Bool :=
  (lanes.drop (g * per)).length ≥ per && ((lanes.drop (g * per)).take per).all (· != .keep)

/-- The writes of raw lanes through a view: their bytes, and tag 0 for a granule written whole (R37, R269). -/
def viewWrs (v : View) (row : Nat) (lanes : List Lane) : List Wr :=
  ((laneRuns (fmtBytes v.fmt) 0 lanes).map fun (k, bs) => Wr.bytes (v.addr row k) bs) ++
  ((List.range v.w).filter (granWhole lanes (fmtPer v.fmt))).map fun g => Wr.tag (v.base + v.stride * row + g) 0

/-- The parts of a run's pieces that `bs` covers from byte `off` on: a piece reached whole takes its granule's tag. -/
def sliceRun (off : Nat) (bs : List Byte) (tags : List Tag) : Nat → Nat → List Piece → List Piece
  | _, _, [] => []
  | at', j, p :: ps =>
    let lo := max off at'
    let hi := min (off + bs.length) (at' + p.n)
    let l := sliceRun off bs tags (at' + p.n) (j + 1) ps
    if lo ≥ hi then l
    else
      { p with pl := p.pl.add (lo - at'), n := hi - lo, data := (bs.drop (lo - off)).take (hi - lo),
               tag := if hi - lo = 64 then some (tags.getD j 0) else none } :: l

/-- The lanes a row moves: the first that is written, and the count up to the last (R26, R266); for a tagged class whole
blocks of `per` elements. -/
def movedLanes (per : Nat) (lanes : List Lane) : Nat × Nat :=
  let l := lanes.zipIdx.filter fun x => x.1 != .keep
  match l.head?, l.getLast? with
  | some a, some z => (a.2 / per * per, (z.2 / per + 1) * per - a.2 / per * per)
  | _, _ => (0, 0)

/-- A push of each result row to a write port: the elements it writes are checked at issue (R26), and a full queue stalls
(R182). -/
def pushPortM (h : Nat) (n : BitVec 1) (lanes : List Lane) (tags : List Tag) (sz : Nat) : M (List Wr) := do
  let c ← ctxM h
  match mget none c.q.ag (4 + n.toNat) with
  | none => trapM 3 0
  | some gen =>
    needM (!gen.past) 3 0
    let b := c.box (parBox gen.par)
    let row := lanes.take (parWid gen.par)
    let (off, run) := movedLanes (if fmtTagged b.fmt then fmtPer b.fmt else 1) row
    let ps ← portRun h gen.par gen.fidx off run true
    let k := 4 + n.toNat
    if (mget [] c.q.pw k).length ≥ 8 then stallM 2
    else
      if c.wc.st ≥ 63 then stallM 5
      else
        let (idx, ov) := walkNext gen.par gen.fidx
        let gen' := { gen with fidx := idx, past := ov }
        let ag' := mput none c.q.ag k (some gen')
        modM h fun c => { c with wc := { c.wc with st := c.wc.st + 1 }, q := { c.q with ag := ag' } }
        let tok ← pushM h k (.push false) ((laneRuns sz 0 row).flatMap fun (c0, bs) => sliceRun ((c0 - off) * sz) bs tags 0 0 ps)
        pure [.pushPort k tok]

end Sys2Proof.Machine
end

