-- ==== Sys2Proof/Machine/Check.lean ====
section
/-! DEFINITION. Checking mode (R154): what an operation owns from its issue to its landing, what it reads, and the
collisions and breaches among the operations of a bundle and the pending ones. -/

namespace Sys2Proof.Machine

/-- A run of owned units: bytes of register space, predicates from 20000 on, flags from 21000 on. -/
abbrev Own := Nat × Nat

/-- Whether two runs share a unit. -/
def Own.meets (x y : Own) : Bool := x.1 < y.1 + y.2 && y.1 < x.1 + x.2

/-- Register bytes owned by a write; those of g0 are never written (R54). -/
def ownBytes (a n : Nat) : List Own := if a < 8 then (if a + n ≤ 8 then [] else [(8, a + n - 8)]) else [(a, n)]

/-- What a result part owns. -/
def Wr.owns : Wr → List Own
  | .bytes a bs => ownBytes a bs.length
  | .zero a n => ownBytes a (cdiv n 8)
  | .pred n _ => if n = 0 then [] else [(20000 + n.toNat, 1)]
  | .prd _ => [(20001, 15)]
  | .stages _ => [(20008, 8)]
  | .fsr v => ((List.range 5).filter fun k => bitOf v k).map fun k => (21000 + k, 1)
  | .sreg n _ => if n = 0x000 then [(21000, 5)] else if n = 0x026 then [(20001, 15)] else []
  | _ => []

/-- What a load owns until it lands. -/
def LoadFin.owns : LoadFin → List Own
  | .scalar d _ _ => ownBytes (8 * d.toNat) 8
  | .code d _ _ => ownBytes (8 * d.toNat) 8
  | .tag d => ownBytes (8 * d.toNat) 8
  | .view dst _ zero _ => dst ++ zero.map fun z => (z.1, cdiv z.2 8)
  | .none => []

/-- What a latch owns: the parts of its result, or those its load will bring. -/
def Ctx.latchOwns (c : Ctx) (l : Latch) : List Own :=
  l.wrs.flatMap Wr.owns ++ (c.q.pend.filter fun p => p.tok == l.tok).flatMap fun p => p.fin.owns

/-- Whether two latches own a common unit, or a common byte. -/
def Ctx.share (c : Ctx) (l m : Latch) : Bool := (c.latchOwns l).any fun x => (c.latchOwns m).any fun y => x.meets y
def Ctx.shareByte (c : Ctx) (l m : Latch) : Bool :=
  (c.latchOwns l).any fun x => x.1 < 20000 && (c.latchOwns m).any fun y => x.meets y

/-! What an operation reads (R154, R306): the bytes of the elements that its lanes reach, by row and columns. -/

/-- The bytes of elements `c0` to `c1` of a row of a view, granule by granule. -/
def View.reads (v : View) (x : Nat × Nat × Nat) : List Own :=
  let per := fmtPer v.fmt
  let lo := x.2.1
  let hi := min v.cols x.2.2
  if x.1 ≥ v.rows ∨ lo ≥ hi then []
  else (List.range v.w).filterMap fun j =>
    let k0 := max lo (j * per) - j * per
    let k1 := min hi (j * per + per) - j * per
    if k0 ≥ k1 then none
    else
      let b0 := k0 * fmtBits v.fmt / 8
      some ((v.base + v.stride * x.1 + j) * 64 + b0, cdiv (k1 * fmtBits v.fmt) 8 - b0)

/-- A number of whole rows, to a column. -/
def rect (rows cols : Nat) : List (Nat × Nat × Nat) := (List.range rows).map fun r => (r, 0, cols)

/-- The first elements of a view in row-major order. -/
def View.firsts (v : View) (n : Nat) : List (Nat × Nat × Nat) :=
  (List.range (cdiv n (max 1 v.cols))).map fun r => (r, 0, min v.cols (n - r * v.cols))

/-- The extent of a destination: that of a view, else one row. -/
def Ctx.dstExtent (c : Ctx) (d : Opnd) : Nat × Nat :=
  match d with
  | .w n => let v := viewOfReg (mget 0 c.f.vd n.toNat) c.sys.rb.toNat; (v.rows, v.cols)
  | _ => (1, 512)

/-- The elements that operation `i` reads of its operand `k`, a view; an index or a count among the other operands is that of its
register (R256, R265, R266, R273 to R284, R290). -/
def Ctx.reach (c : Ctx) (i : Instr) (k : Nat) (v : View) : List (Nat × Nat × Nat) :=
  let cap (x : Nat × Nat) : Nat × Nat := (min x.1 (grantRows c), min x.2 (grantCols c))
  let num (o : Opnd) : Nat := match o with | .g n => (c.g n).toNat | .imm n => (wordOf (immVal n)).toNat | _ => 0
  match swageOf i, crossOf i with
  | some (d, _), _ =>
    let e := match d with | some d => c.dstExtent d | none => (v.rows, v.cols)
    (match i with
     | .vsum _ _ _ _ _ => let x := cap (e.1, v.cols); rect x.1 x.2
     | .vmaxr _ _ _ _ => let x := cap (e.1, v.cols); rect x.1 x.2
     | .vbcast _ _ _ n _ =>
       let x := cap e
       if k = 0 then (List.range x.1).map fun r => (r, num n, num n + 1) else rect x.1 x.2
     | _ => let x := cap e; rect x.1 x.2)
  | none, some (d, _) =>
    let x := cap (c.dstExtent d)
    (match i with
     | .xperm _ _ _ _ _ => rect x.1 v.cols
     | .xtrn _ _ _ _ => rect x.2 x.1
     | .xbcast _ _ _ n _ => [(num n, 0, x.2)]
     | .xzip _ _ _ _ _ => rect x.1 (cdiv x.2 2)
     | .xunzip _ _ _ _ _ => rect x.1 (2 * x.2)
     | .xcmpr _ _ _ _ _ => rect x.1 (grantCols c)
     | _ => rect x.1 x.2)
  | none, none =>
    match i with
    | .agset _ _ _ => v.firsts 6
    | .xpat _ _ z _ => v.firsts (256 / 2 ^ z.toNat)
    | .stv _ _ _ => let x := cap (v.rows, v.cols); rect x.1 x.2
    | .stvRel _ _ _ _ => let x := cap (v.rows, v.cols); rect x.1 x.2
    | .cpy _ _ _ => v.firsts 4
    | .cpyg _ _ _ _ => if k = 0 then v.firsts 4 else [(0, 0, v.cols)]
    | .cpyr _ _ _ => v.firsts 7
    | .fill _ _ _ _ => v.firsts 4
    | .collAllreduce _ _ _ => v.firsts 5
    | .collAllgather _ _ _ => v.firsts 5
    | .collReducescatter _ _ _ => v.firsts 5
    | .collAlltoall _ _ _ => v.firsts 5
    | .call _ _ _ => v.firsts (frameLen v)
    | .callGang _ _ _ _ => v.firsts (frameLen v)
    | .spawn _ _ _ => v.firsts (frameLen v)
    | .tlaunch _ _ _ _ => v.firsts (frameLen v)
    | .hgat _ _ _ _ _ _ b _ => [(0, 0, (match (c.box b.toNat).fmt with | 0 => 16 | 1 => 16 | _ => 32))]
    | _ => rect v.rows v.cols
where
  /-- The words of a call frame (R80). -/
  frameLen (v : View) : Nat := 2 + 3 * fld (c.viewWords v |>.getD 0 0) 20 16

/-- The register bytes that operand `k` of an operation reads, at the step count of its slot; whole granules of a block spill (R239). -/
def State.operandReads (s : State) (h : Nat) (sl : Slot) (i : Instr) (k : Nat) (o : Opnd) : List Own :=
  let c := s.ctx h
  match o with
  | .g n => [(8 * n.toNat, 8)]
  | .w n =>
    let v := viewOfReg (mget 0 c.f.vd n.toNat) c.sys.rb.toNat
    let v := if stepOf i k then { v with base := v.base + stepCount s sl * v.z } else v
    (match i with
     | .stblk _ _ _ => (List.range v.rows).map fun r => ((v.base + v.stride * r) * 64, 64 * v.w)
     | _ => (c.reach i k v).flatMap v.reads)
  | _ => []

/-- The register that supplies a mesh coordinate. -/
def meshReads (n : Nat) : List Own := if n = 0 then [] else [(8 * n, 8)]

/-- The register bytes an operation reads: its operands; the registers that supply its path, unless it runs under a record made earlier
(R179); and the mesh register of a parameter set that arms (R180). -/
def State.opReads (s : State) (h : Nat) (sl : Slot) (i : Instr) : List Own :=
  let c := s.ctx h
  let fresh := match recordOf s sl with | some k => k.s == 0 && c.prog.idx == 0 | none => true
  ((readsOf i).zipIdx.flatMap fun x => s.operandReads h sl i x.2 x.1) ++
  (match pathOf i with
   | some p => if fresh then [p.c0, p.c1, p.c2, p.c3].flatMap (s.operandReads h sl i 0) ++ meshReads p.msel.toNat else []
   | none => []) ++
  (match i with
   | .agset _ _ v =>
     let w := (c.viewWords (viewOfReg (mget 0 c.f.vd v.toNat) c.sys.rb.toNat)).getD 0 0
     if bitOf w 0 then meshReads (fld w 15 12) else []
   | _ => [])

/-- The first violation among the operations of an issue, whose latches are numbered from `first` on: the trap cause
and the slot it is charged to. `rd` are the bytes each operation reads, with its slot. -/
def Ctx.breach (c : Ctx) (first : Nat) (rd : List (Nat × List Own)) : Option (Nat × Nat) :=
  let mine := c.lats.filter fun l => l.occ && l.tok ≥ first
  let old := c.lats.filter fun l => l.tok < first
  let clash := mine.find? fun l =>
    (mine.any fun m => m.tok < l.tok && m.slot != l.slot && c.share l m) ||
    (old.any fun m => m.dist == l.dist && c.share l m)
  match clash with
  | some l => some (5, l.slot)
  | none =>
    match mine.find? fun l => old.any fun m => m.slot != l.slot && m.dist > l.dist && c.shareByte l m with
    | some l => some (6, l.slot)
    | none =>
      if !bitOf c.sys.chk 1 then none
      else
        (rd.find? fun x => old.any fun m => (c.latchOwns m).any fun o => x.2.any fun r => r.meets o).map fun x => (6, x.1)

end Sys2Proof.Machine
end

