-- ==== Sys2Proof/Machine/Order.lean ====
section
/-! DEFINITION. Order among storage accesses: homes, scopes, the queues of a context, and when an access may pass its
next point or take its value (R123 to R137). -/

namespace Sys2Proof.Machine

/-! Homes and scopes (R123, R128). -/

/-- The home of a byte: the scratchpad of a core, or a 2 KiB granule of a stack. -/
def homeOf (p : Place) : Nat :=
  match p with
  | .sp a => a / 2 ^ 18
  | .hbm a _ => 2 ^ 40 + a / 2048

/-- The address of a byte within all storage, without its key. -/
def Place.addr (p : Place) : Nat :=
  match p with
  | .sp a => a
  | .hbm a _ => 2 ^ 60 + a

/-- Whether two pieces share a byte. -/
def Piece.overlaps (p q : Piece) : Bool :=
  p.pl.addr < q.pl.addr + q.n && q.pl.addr < p.pl.addr + p.n

/-- Whether a store piece changes something a load piece reads: a byte, or the tag of the granule. -/
def Piece.touches (st ld : Piece) : Bool := ld.overlaps st || (st.tag.isSome && st.pl.addr / 64 == ld.pl.addr / 64)

/-- A piece has reached its home, or a load piece has taken its value. -/
def Piece.done (p : Piece) : Bool := p.lvl ≥ p.hl

/-- A piece is performed at a scope: 0 `.core`, 1 `.clu`, 2 `.die`, 3 `.dev`, 4 `.sys` (R128). -/
def Piece.at (p : Piece) (sc : Nat) : Bool := p.lvl ≥ min (min (sc + 1) 4) p.hl

/-- Whether nothing but its pieces stands between an entry and its end: a marker, a remote access that waits in its queue, a
push of a write port that has not landed and a push of a channel that has not left have more to wait for. -/
def Acc.open' (a : Acc) : Bool :=
  match a.kind with | .align => false | .remote ps _ _ => ps.isEmpty | .push landed => landed | .chPush _ _ => false | _ => true

/-- An access has been performed at its home, or has taken its value. -/
def Acc.done (a : Acc) : Bool := a.ps.all Piece.done && a.open'

/-- An access is performed at a scope. -/
def Acc.at (a : Acc) (sc : Nat) : Bool := a.ps.all (·.at sc) && a.open'

/-- An entry that orders nothing by its place: a marker. -/
def Acc.isAlign (a : Acc) : Bool := match a.kind with | .align => true | _ => false
def Acc.isAtomic (a : Acc) : Bool := match a.kind with | .atomic _ _ _ => true | _ => false

/-- The mark of a `fence`, a marker with a scope (R132). -/
def Acc.isFence (a : Acc) : Bool := a.isAlign && a.rel.isSome

/-! The write ports and the channels (R133, R341). -/

/-- The queues of pushes: the write ports 4 and 5, and channel n at 8 + n. -/
def pushQueues : List Nat := [4, 5, 8, 9, 10, 11, 12, 13, 14, 15]

/-- The queued writes of the write ports and the channels, from the issue of their pushes on. -/
def Ctx.portWrites (c : Ctx) : List Acc := pushQueues.flatMap fun n => mget [] c.q.pw n

/-- A push that has not landed: its result is still in its latch (R174). -/
def Acc.unlanded (a : Acc) : Bool := match a.kind with | .push landed => !landed | .chPush _ r => r.isNone | _ => false

/-- Every store-side access of a context. -/
def Ctx.stores (c : Ctx) : List Acc := c.q.sq ++ c.portWrites

/-- A push whose latch a trap has set aside, as the handler's places see it: it lands after the return (R155). -/
def Ctx.setAside (c : Ctx) (seq : Nat) (a : Acc) : Bool :=
  match c.trp.aside with | some x => a.unlanded && a.seq < x.seq && seq ≥ x.seq | none => false

/-! Markers (R127): a marker leaves the load queue once every earlier store, write-port write and channel push has been performed
at `.core`, and the store queue once every earlier load has been performed. The mark that a `fence` leaves behind for pushes not
landed waits in both queues for both, at its own scope (R132). -/

/-- Whether the marker of a place has done its work for the loads, and for the stores. -/
def Ctx.storesBefore (c : Ctx) (seq sc : Nat) : Bool :=
  c.stores.all fun a => a.seq ≥ seq || a.isAlign || c.setAside seq a || a.at sc
def Ctx.loadsBefore (c : Ctx) (seq : Nat) : Bool := c.q.lq.all fun a => a.seq ≥ seq || a.isAlign || a.done

/-- Markers whose work is done removed. -/
def Ctx.sweep (c : Ctx) : Ctx :=
  { c with q := { c.q with
      lq := c.q.lq.filter fun a => !(a.isAlign && c.storesBefore a.seq (a.rel.getD 0) && (a.rel.isNone || c.loadsBefore a.seq)),
      sq := c.q.sq.filter fun a => !(a.isAlign && c.loadsBefore a.seq && (a.rel.isNone || c.storesBefore a.seq (a.rel.getD 0))) } }

/-! When an access may go on. -/

/-- A place of the program order, and whether an access older than it in a queue stands in its way. -/
def olderHere (q : List Acc) (seq : Nat) (f : Acc → Bool) : Bool := q.any fun a => a.seq < seq && f a

/-- The marker or acquire that holds an access of place `seq` back (R127, R130). -/
def Ctx.heldBack (c : Ctx) (seq : Nat) (load : Bool) : Bool :=
  olderHere (if load then c.q.lq else c.q.sq) seq Acc.isAlign ||
  olderHere c.q.lq seq fun a => a.acq.isSome && !a.done

/-- Remote writes and atomics that a context has issued before a place and that its targets have not yet written; those of its engine
commands are not among them (R132). -/
def State.farLeft (s : State) (h seq : Nat) : Bool :=
  s.net.far.any fun r => r.2.h == some h && r.2.cmd.isNone && r.2.seq < seq && (r.2.pkt.ty == 1 || r.2.pkt.ty == 4 || r.2.pkt.ty == 6)

/-- The place of a byte of a remote access: the own home where the coordinate names the own device, so that it is ordered with local
accesses of it; else one beside all local storage, of its peer and device (R129, R242). -/
def State.farPlace (s : State) (c : Ctx) (peer : Nat × Nat) (va key : Nat) : Place :=
  let away : Place := .hbm (2 ^ 60 * (1 + peer.1 * 8 + peer.2) + va) key
  match c.task with
  | some t =>
    if peer = (s.net.fpeer, t.dev) then
      (match s.xlate t.dev t.dctx va key false with | .ok pa => s.hbmPlace t.dev pa key | _ => away)
    else away
  | none => away

/-- The bytes that a packet of a context reaches, as pieces. -/
def State.pktPieces (s : State) (c : Ctx) (p : Pkt) : List Piece :=
  (cutGran p.va p.len (p.len / 64 + 2)).map fun (l, m) =>
    { pl := s.farPlace c (p.dst, p.dsub) l p.key, n := m, hl := 4, lvl := 0, stamp := 0, data := [], tag := none }

/-- Whether a remote write of a context toward a home of its own device has left and is not yet written there: a later store of the
context to that home waits for it (R124). -/
def State.loopOut (s : State) (h home : Nat) : Bool :=
  s.net.far.any fun r => r.2.h == some h && r.2.cmd.isNone && (r.2.pkt.ty == 1 || r.2.pkt.ty == 4) && r.2.pkt.dst == s.net.fpeer &&
    (s.pktPieces (s.ctx h) r.2.pkt).any fun p => homeOf p.pl == home

/-- The release side: every earlier load, store and atomic performed at the scope (R130). -/
def State.released (s : State) (h : Nat) (c : Ctx) (a : Acc) : Bool :=
  match a.rel with
  | none => true
  | some sc =>
    !(olderHere c.q.lq a.seq fun x => !x.isAlign && !x.done) &&
    !(olderHere c.q.sq a.seq fun x => !x.isAlign && !x.at sc) &&
    (sc < 4 || !s.farLeft h a.seq)

/-- Store pieces under way toward a home, of every context: context, entry and piece. -/
def State.underWay (s : State) (home : Nat) : List (Nat × Acc × Piece) :=
  s.hw.flatMap fun x => x.2.stores.flatMap fun a =>
    (a.ps.filter fun p => !p.done && homeOf p.pl == home).map fun p => (x.1, a, p)

/-- The point of a level that two contexts share (R128). -/
def samePoint (h k lvl : Nat) : Bool :=
  if lvl = 0 then false
  else if lvl = 1 then coreOf h == coreOf k
  else if lvl = 2 then cluOf h == cluOf k
  else dieOf h == dieOf k

/-- No store toward a home has passed a point before an access of context `h` that now passes all of them (R128). -/
def State.pathClear (s : State) (h home : Nat) : Bool :=
  !((s.underWay home).any fun x => (List.range x.2.2.lvl).any fun l => samePoint h x.1 (l + 1))

/-- A load piece may take its value (R124, R128, R129, R345). -/
def State.mayLoad (s : State) (h : Nat) (c : Ctx) (a : Acc) (p : Piece) : Bool :=
  !(c.heldBack a.seq true) &&
  !(olderHere c.q.lq a.seq fun x => x.ps.any fun y => !y.done && homeOf y.pl == homeOf p.pl) &&
  s.pathClear h (homeOf p.pl) && s.reaches h p.pl

/-- A store piece of the store queue may leave the queue (R124 to R130, R345). -/
def State.mayLeave (s : State) (h : Nat) (c : Ctx) (a : Acc) (p : Piece) : Bool :=
  s.reaches h p.pl &&
  !(c.heldBack a.seq false) && !(a.isAtomic && c.heldBack a.seq true) && s.released h c a &&
  !(olderHere c.q.sq a.seq fun x => x.ps.any fun y => y.lvl == 0 && homeOf y.pl == homeOf p.pl) && !s.loopOut h (homeOf p.pl) &&
  !(olderHere c.q.lq a.seq fun x => !x.isAtomic && x.ps.any fun y => !y.done && p.touches y) &&
  !(a.isAtomic && olderHere c.q.lq a.seq fun x => x.ps.any fun y => !y.done && homeOf y.pl == homeOf p.pl)

/-- A landed push may leave its queue: a `fence` before it holds every push, an `align` or an acquire that holds stores those of
channels (R132, R133, R341). -/
def Ctx.mayPush (c : Ctx) (a : Acc) : Bool :=
  match a.kind with
  | .chPush _ r => r.isSome && !(c.heldBack a.seq false)
  | .push landed => landed && !(olderHere c.q.sq a.seq Acc.isFence)
  | _ => true

/-- A piece that has passed level `p.lvl` may pass the next: no earlier one toward its home stands at this point. -/
def State.mayAdvance (s : State) (h : Nat) (p : Piece) : Bool :=
  !((s.underWay (homeOf p.pl)).any fun x => x.2.2.lvl == p.lvl && x.2.2.stamp < p.stamp && samePoint h x.1 p.lvl)

/-! Taking values: forwarding from the store queue (R125). -/

/-- The store pieces of the queue that an M-slot load of place `seq` takes bytes from, youngest first. -/
def Ctx.forwards (c : Ctx) (seq : Nat) : List Piece :=
  ((c.q.sq.filter fun a => a.seq < seq && !a.isAtomic).reverse).flatMap fun a => a.ps.filter fun p => !p.done

/-- The forwarded value of one byte. -/
def fwdByte (fs : List Piece) (addr : Nat) : Option Byte :=
  match fs with
  | [] => none
  | p :: l =>
    if p.pl.addr ≤ addr ∧ addr < p.pl.addr + p.n then some (p.data.getD (addr - p.pl.addr) 0) else fwdByte l addr

/-- The forwarded tag of a granule: that of the youngest queued store of it that carries one. -/
def fwdTag (fs : List Piece) (gr : Nat) : Option Tag :=
  match fs with
  | [] => none
  | p :: l => if p.pl.addr / 64 = gr ∧ p.tag.isSome then p.tag else fwdTag l gr

/-- Bytes as a load takes them: forwarded, or from the home. -/
def State.takeBytes (s : State) (fs : List Piece) (p : Place) : Nat → List Byte × State
  | 0 => ([], s)
  | n + 1 =>
    let (b, s1) := (match fwdByte fs p.addr with
      | some b => ([b], s)
      | none => s.readBytes p 1)
    let (bs, s2) := s1.takeBytes fs (p.add 1) n
    (b ++ bs, s2)

/-- A load piece with its value and, where it reads one, its tag. -/
def State.takePiece (s : State) (c : Ctx) (seq : Nat) (p : Piece) : Piece × State :=
  let fs := c.forwards seq
  let (bs, s1) := s.takeBytes fs p.pl p.n
  let (t, s2) := (match fwdTag fs (p.pl.addr / 64) with
    | some t => (t, s1)
    | none => s1.readTag p.pl)
  ({ p with lvl := p.hl, data := bs, tag := some t }, s2)

/-! What waits of R126 to R138 read. -/

/-- Everything a context issued before a place is performed at a scope (R132). -/
def State.allAt (s : State) (h : Nat) (seq sc : Nat) : Bool :=
  let c := s.ctx h
  c.loadsBefore seq && c.storesBefore seq sc && (sc < 4 || !s.farLeft h seq)

/-- Every access of a context has been performed at its home and has left its queue (R138). -/
def Ctx.drained (c : Ctx) : Bool := c.q.lq.isEmpty && c.q.sq.isEmpty && c.portWrites.isEmpty && c.q.pend.isEmpty

end Sys2Proof.Machine
end

