-- ==== Sys2Proof/Machine/Commit.lean ====
section
/-! DEFINITION. The commitment of results (R148, R149, R174, R182, R183, R341): the parts of a latch applied to its context, and the
pushes that land in the queues of ports and channels. -/

namespace Sys2Proof.Machine

/-- A push of a channel performs (R341): a local channel takes the element; a send end sends it with its sequence number. -/
def State.pushChannel (s : State) (h n : Nat) (r : Row) : State :=
  let c := s.ctx h
  match c.task, c.chan n with
  | some t, some i =>
    let d := s.dc t.dev t.dctx
    let (w0, w1) := (mfind d.chan i).getD (0, 0)
    if fld w0 62 61 = 0 then
      let seq := fld w1 15 0
      let s := s.modDc t.dev t.dctx fun d => { d with chan := mins d.chan i (w0, putFld w1 15 0 (seq + 1)) }
      s.send { Pkt.zero with ty := 10, src := s.net.fpeer, ssub := t.dev, dst := fld w0 54 44, dsub := fld w0 43 41,
                             ctx := t.dctx, seq := seq, opa := atBit (fld w0 40 35) 0, opb := atBit (fld w0 14 0) 0,
                             data := r.bytes }
    else
      s.modDc t.dev t.dctx fun d =>
        { d with chq := mins d.chq i ((mfind d.chq i).getD [] ++ [r.bytes]), chres := mmod 0 d.chres i (· - 1) }
  | _, _ => s

/-- A queued push changed. -/
def Ctx.modPush (c : Ctx) (n tok : Nat) (f : Acc → Acc) : Ctx :=
  { c with q := { c.q with pw := mput [] c.q.pw n ((mget [] c.q.pw n).map fun a => if a.tok = tok then f a else a) } }

/-- A queued push gone. -/
def Ctx.endPush (c : Ctx) (n tok : Nat) : Ctx :=
  ({ c with q := { c.q with pw := mput [] c.q.pw n ((mget [] c.q.pw n).filter fun a => a.tok != tok) } }).sweep

/-- A landed push of a channel leaves its queue, or waits behind a marker (R341). -/
def State.leaveChannel (s : State) (h n tok : Nat) : State :=
  let c := s.ctx h
  match (mget [] c.q.pw (8 + n)).find? fun a => a.tok == tok with
  | some a =>
    (match a.kind with
     | .chPush _ (some r) =>
       if c.mayPush a then (s.pushChannel h n r).modCtx h fun c => c.endPush (8 + n) tok
       else s.sched 1 (.memoryAccessPerform h tok 0)
     | _ => s)
  | none => s

/-- A push of a write port lands (R133, R182): its pieces may go on, and the walk advances unless the port has been armed anew. -/
def State.pushPort (s : State) (h n tok : Nat) : State :=
  let c := s.ctx h
  let ag := match mget none c.q.ag n with
    | some g =>
      if g.idx = g.fidx ∧ !g.past then c.q.ag
      else mput none c.q.ag n (some { g with idx := (walkNext g.par g.idx).1, pos := g.pos + 1 })
    | none => c.q.ag
  match (mget [] c.q.pw n).find? fun a => a.tok == tok with
  | none => s
  | some a =>
    let c := { c with q := { c.q with ag := ag } }
    let s := s.setCtx h
      (if a.ps.isEmpty then { c.endPush n tok with wc := { c.wc with st := c.wc.st - 1 } }
       else c.modPush n tok fun a => { a with kind := .push true })
    (List.range a.ps.length).foldl (fun s k => s.sched 1 (.memoryAccessPerform h tok k)) s

/-- A port armed or disarmed (R183): an armed read port begins to fetch. -/
def State.armPort (s : State) (h n : Nat) (par : List Word) : State :=
  let g : Option Gen :=
    if par.isEmpty then none
    else some { par := par, idx := [0, 0, 0, 0], pos := 0, past := false, fetched := [], fidx := [0, 0, 0, 0],
                fover := false, hold := none }
  let s := s.modCtx h fun c => { c with q := { c.q with ag := mput none c.q.ag n g } }
  if n < 4 ∧ !par.isEmpty then s.schedOnce 1 (.portFetch h n) else s

/-- One part of a result committed. -/
def State.applyWr (s : State) (h : Nat) (w : Wr) : State :=
  match w with
  | .pushCh n tok r => (s.modCtx h fun c => c.modPush (8 + n) tok fun a => { a with kind := .chPush n (some r) }).leaveChannel h n tok
  | .pushPort n tok => s.pushPort h n tok
  | .arm n par => s.armPort h n par
  | .sreg n v => s.putSreg h n v
  | w => s.modCtx h fun c => c.apply w

/-- Whether a part ORs flags into fsr: these commit after the writes of the same cycle (R149, R224, R269). -/
def Wr.isFlag : Wr → Bool
  | .fsr _ => true
  | _ => false

/-- The latches due in this context cycle, in the order of R149, up to the first whose result has not arrived; and the rest. -/
def dueSplit : List Latch → List Latch × List Latch
  | [] => ([], [])
  | l :: ls =>
    if l.dist = 0 then
      if l.here then ((l :: (dueSplit ls).1), (dueSplit ls).2) else ([], l :: ls)
    else ((dueSplit ls).1, l :: (dueSplit ls).2)

/-- The parts of latches in the order in which they commit. -/
def wrsOf (ls : List Latch) : List Wr :=
  let ws := ls.flatMap (·.wrs)
  ws.filter (!·.isFlag) ++ ws.filter (·.isFlag)

/-- Latches commit, and the rest stay (R148, R149); the status of a hammer operation drops tl (R207). -/
def State.commit (s : State) (h : Nat) (x : List Latch × List Latch) : State :=
  let s := s.modCtx h fun c => { c with lats := x.2, wc := { c.wc with tl := c.wc.tl - (x.1.filter (·.tile)).length } }
  (wrsOf x.1).foldl (fun s w => s.applyWr h w) s

/-- The latches due commit (R148, R149). -/
def State.commitDue (s : State) (h : Nat) : State := s.commit h (dueSplit (s.ctx h).lats)

/-- What a bundle leaves for the cycle after it is in place before the trap that follows it (R89, R202, R229): the latches due
commit, then those of the bundle, numbered from `first` on, that an absent older result still stands before; assumption log 114. -/
def State.commitBundle (s : State) (h first : Nat) : State :=
  let s := s.commitDue h
  s.commit h ((s.ctx h).lats.partition fun l => l.dist == 0 && l.here && l.tok ≥ first)

end Sys2Proof.Machine
end

