-- ==== Sys2Proof/Machine/Mirror.lean ====
section
/-! DEFINITION. Mirrored boxes (R367): the registered footprints of a device context, and the duplicate that a write in one of them
sends to the buddy. -/

namespace Sys2Proof.Machine

/-- The device of a stack address, and the physical address of the byte there (R64). -/
def State.devOfStack (s : State) (a : Nat) : Nat := a / 2 ^ 36 / s.stacks
def State.physOf (s : State) (a : Nat) : Nat :=
  (a % 2 ^ 36 / 2048 * s.stacks + a / 2 ^ 36 % s.stacks) * 2048 + a % 2048

/-- The physical bases of the 64 KiB pages that a range of a device context's address space reaches, each with its virtual base, as far
as they translate. -/
def State.pagesOf (s : State) (dev dctx key va n : Nat) : List (Nat × Nat) :=
  (List.range (n / 65536 + 2)).filterMap fun k =>
    let pg := va / 65536 * 65536 + 65536 * k
    match s.xlate dev dctx pg key false with
    | .ok pa => some (pg, pa)
    | _ => none

/-- The virtual address, in a footprint of a device context, of a byte of device memory. -/
def State.mirrorVa (s : State) (dev dctx key a : Nat) : Option Nat :=
  let pa := s.physOf a
  (s.dc dev dctx).mirror.findSome? fun (va, n) =>
    (s.pagesOf dev dctx key va n).findSome? fun (pg, base) =>
      let x := pg + (pa - base)
      if base ≤ pa ∧ pa < base + 65536 ∧ va ≤ x ∧ x < va + n then some x else none

/-- The device context, of those of a device, in one of whose footprints a byte lies that is written under a key, and its virtual address
there: what arrives for a context that is not resident counts as well. -/
def State.mirrorOf (s : State) (dev key a : Nat) : Option (Nat × Nat) :=
  (List.range 16).findSome? fun c =>
    let d := s.dc dev c
    if !d.live || d.mirror.isEmpty then none else (s.mirrorVa dev c key a).map fun va => (c, va)

/-- The duplicate of a write, a write packet to the buddy with OP 1; assumption log 81. -/
def State.duplicate (s : State) (dev dctx key va id : Nat) (bs : List Byte) (tag : Option Tag) : State :=
  s.send { Pkt.zero with ty := 1, src := s.net.fpeer, ssub := dev, dst := (s.dc dev dctx).buddy, dsub := dev, ctx := dctx, id := id,
                         key := key, va := va, len := bs.length, op := 1, data := bs, tags := [tag] }

/-- Whether a write, with the tag it carries, may be acknowledged at its home: one that falls in a registered footprint only once the
buddy has accepted its duplicate, which the first try sends. -/
def State.mirrored (s : State) (p : Place) (bs : List Byte) (tag : Option Tag) : Bool × State :=
  match p with
  | .sp _ => (true, s)
  | .hbm a k =>
    match s.net.mir.find? fun x => x.1 == a with
    | some (_, id, ok) =>
      if ok then (true, { s with net := { s.net with mir := s.net.mir.filter fun x => x.2.1 != id } }) else (false, s)
    | none =>
      match s.mirrorOf (s.devOfStack a) (sealKey k) a with
      | none => (true, s)
      | some (c, va) =>
        let id := s.clk.tick
        let s := { s.bump with net := { s.net with mir := s.net.mir ++ [(a, id, false)] } }
        (false, s.duplicate (s.devOfStack a) c (sealKey k) va id bs tag)

/-- A byte that a record of the device itself lays in a footprint: its duplicate is sent, and no acknowledgement waits for it. -/
def State.mirrorByte (s : State) (dev key va : Nat) (p : Place) (b : Byte) : State :=
  match p with
  | .sp _ => s
  | .hbm a _ =>
    match s.mirrorOf dev key a with
    | none => s
    | some (c, _) => (s.duplicate dev c key va s.clk.tick [b] none).bump

end Sys2Proof.Machine
end

