-- ==== Sys2Proof/Machine/Debug.lean ====
section
/-! DEFINITION. Debug stops and the drift area (R162, R376, R377), and a trap that an armed debug stop turns into a
halt (R227). -/

namespace Sys2Proof.Machine

/-- Bytes of device memory written through a device context's translation under its own key, each with the duplicate that R367 asks for;
a failing translation writes nothing. -/
def State.virtWrite (s : State) (dev dctx va key : Nat) : List Byte → State
  | [] => s
  | b :: bs =>
    match s.xlate dev dctx va key true with
    | .ok pa =>
      let p := s.hbmPlace dev pa key
      ((s.mirrorByte dev key va p b).writeBytes p [b]).virtWrite dev dctx (va + 1) key bs
    | _ => s.virtWrite dev dctx (va + 1) key bs

/-- Whether every byte of a run translates. -/
def State.virtOk (s : State) (dev dctx va key n : Nat) (wr : Bool) : Xlate :=
  (List.range (n / 4096 + 2)).foldl (fun r k =>
    match r with
    | .ok _ => if n = 0 then .ok va else s.xlate dev dctx (va + min (4096 * k) (n - 1)) key wr
    | e => e) (.ok va)

/-- Bytes of device memory read through translation; none where it fails. -/
def State.virtRead (s : State) (dev dctx va key : Nat) : Nat → Option (List Byte) × State
  | 0 => (some [], s)
  | n + 1 =>
    match s.xlate dev dctx va key false with
    | .ok pa =>
      let (b, s1) := s.readBytes (s.hbmPlace dev pa key) 1
      match s1.virtRead dev dctx (va + 1) key n with
      | (some l, s2) => (some (b ++ l), s2)
      | (none, s2) => (none, s2)
    | _ => (none, s)

/-- One record appended to the drift area of a context's device context while EN is set (R377): the record, then the
count. -/
def State.driftWrite (s : State) (h kind : Nat) (baddr scy ccy w3 : Word) : State :=
  match (s.ctx h).task with
  | none => s
  | some t =>
    let d := s.dc t.dev t.dctx
    let va := fld (mget 0 d.drcfg 0) 47 6 * 64
    if !bitOf (mget 0 d.drcfg 1) 0 then s
    else
      let w0 := atBit kind 56 ||| atBit (cluOf h) 49 ||| atBit (h / 4 % 64) 43 ||| atBit (h % 4) 41 ||| (baddr &&& 0xFFFFFFFF)
      let rec' := toBytes 8 w0.toNat ++ toBytes 8 scy.toNat ++ toBytes 8 ccy.toNat ++ toBytes 8 w3.toNat
      let s := s.virtWrite t.dev t.dctx (va + 32 + 32 * (d.drcnt % 2047)) d.key rec'
      let s := s.virtWrite t.dev t.dctx va d.key (toBytes 8 (d.drcnt + 1))
      s.modDc t.dev t.dctx fun d => { d with drcnt := d.drcnt + 1 }

/-- A drift record of a marker, and the arming of the interlock trace past the threshold (R169, R377). -/
def State.driftRecord (s : State) (h : Nat) (addr : Word) (exp : BitVec 32) (drift : Int) : State :=
  let c := s.ctx h
  let s := s.driftWrite h 1 addr c.scy c.ccy (atBit exp.toNat 32 ||| atBit (sat32 drift) 0)
  let w := mget 0 (s.taskDc c).drcfg 1
  if bitOf w 0 ∧ fld w 47 32 ≠ 0 ∧ drift.natAbs > fld w 47 32 then
    s.modCtx h fun c => { c with dbg := { c.dbg with trace := fld w 31 16 } }
  else s

/-- A stall run that delayed an issue, recorded at that issue while the trace is armed (R377). -/
def State.traceIssue (s : State) (h : Nat) (addr : Word) : State :=
  let c := s.ctx h
  let s :=
    if c.dbg.trace ≠ 0 ∧ c.dbg.run ≠ 0 then
      s.driftWrite h 2 addr c.scy c.ccy (atBit (c.prog.idx % 256) 56 ||| atBit (c.dbg.cause % 256) 48 ||| atBit (c.dbg.run % 65536) 32)
    else s
  s.modCtx h fun c => { c with dbg := { c.dbg with trace := c.dbg.trace - 1, run := 0, cause := 0 } }

/-- Whether a breakpoint of a context is enabled (R376). -/
def Ctx.breakArmed (c : Ctx) : Bool := (mgets 0 c.dbg.bp 0 4).any fun w => bitOf w 0

/-- Whether an enabled breakpoint stands at a bundle address. -/
def Ctx.breakAt (c : Ctx) (a : Word) : Bool := (mgets 0 c.dbg.bp 0 4).any fun w => bitOf w 0 && (w &&& 0xFFFFFFFC) == a

/-- A debug command or step at its end: BUSY falls, and a bit of DBGSTAT is set beside STOPPED (R375, R376). -/
def State.debugDone (s : State) (bit : Nat) : State :=
  { s with mgt := { s.mgt with dbgst := (s.mgt.dbgst &&& 0x7FFFFFFFFFFFFFFF) ||| atBit 1 bit ||| atBit 1 62 } }

/-- Whether every operation in flight of a context has delivered its result into its latch (R161, R162). -/
def Ctx.latched (c : Ctx) : Bool :=
  c.lats.all (·.here) && (match c.trp.aside with | some a => a.lats.all (·.here) | none => true)

/-- A stop whose context has drained its exposed pipeline is reported, once no stopped context still drains (R162, R375). -/
def State.debugDrained (s : State) (h : Nat) : State :=
  let c := s.ctx h
  if !c.dbg.stop || c.dbg.due == 0 || !c.latched then s
  else
    let s := s.modCtx h fun c => { c with dbg := { c.dbg with due := 0 } }
    if s.hw.any fun x => x.2.dbg.stop && x.2.dbg.due != 0 then s else s.debugDone c.dbg.due

/-- A context that is to be reported stopped with a bit of DBGSTAT: BUSY stands until it has drained (R162, R375). -/
def State.debugDrain (s : State) (h bit : Nat) : State :=
  ({ s.modCtx h fun c => { c with dbg := { c.dbg with due := bit } } with
     mgt := { s.mgt with dbgst := (s.mgt.dbgst &&& 0xBFFFFFFFFFFFFFFF) ||| atBit 1 63 } }).debugDrained h

/-- A context stopped for debug, with its stop record (R162, R376, R377): it keeps the state it leaves, and the issue stage falls
free for the others of its core. -/
def State.debugStop (s : State) (h reason code : Nat) : State :=
  let c := s.ctx h
  let s := s.driftWrite h 3 c.pc c.scy c.ccy (atBit (c.prog.idx % 256) 56 ||| atBit (reason % 256) 48 ||| atBit (code % 2 ^ 32) 0)
  let s := s.modCtx h fun c =>
    { c with dbg := { c.dbg with stop := true, step := false, past := true, held := c.dbg.held || c.st == .issue } }
  (s.modCore (coreOf h) fun k => { k with holder := if k.holder = some (h % 4) then none else k.holder }).debugDrain h 62

/-- A stopped context released (R162, R376): one that held the issue stage has it back, at once where it is free, else before the
contexts that wait for it. One that is not stopped goes on as it does. -/
def State.debugRelease (s : State) (h : Nat) (step : Bool) : State :=
  let was := (s.ctx h).dbg.stop
  let s := s.modCtx h fun c => { c with dbg := { c.dbg with stop := false, step := step, due := 0 } }
  if !was || (s.ctx h).st != .issue then s
  else if (s.core (coreOf h)).holder.isNone then
    (s.modCtx h fun c => { c with dbg := { c.dbg with held := false } }).modCore (coreOf h) fun k => { k with holder := some (h % 4) }
  else s.modCtx h fun c => { c with st := .ready }

/-- A trap taken, or the halt that an armed debug stop makes of it (R227, R376). -/
def State.trapOrStop (s : State) (h : Nat) (resume : Word) (idx : Nat) (t : TrapInfo) : State :=
  if (s.ctx h).breakArmed then
    (s.modCtx h fun c => { c with pc := resume, prog := { c.prog with idx := idx } }).debugStop h 3 t.cause
  else s.takeTrap h resume idx t

end Sys2Proof.Machine
end

