-- ==== Sys2Proof/Machine/Retire.lean ====
section
/-! DEFINITION. The end of an issue: the guard and the stop of a slot operation, the loop end test, the next bundle,
and the advance of the context's cycles (R147, R151, R166, R171, R205, R206). -/

namespace Sys2Proof.Machine

/-- A context cycle of a stall: ccy advances, and every landing stays at its distance (R148, R150). -/
def Ctx.stalled (c : Ctx) (cause : Nat) : Ctx :=
  { c with ccy := c.ccy + 1,
           dbg := { c.dbg with run := c.dbg.run + 1, cause := if c.dbg.run = 0 then cause else c.dbg.cause } }

/-- Arrival at a barrier (R210): a member's count is twice the barriers it has passed, plus 1 while it waits at the
next. -/
def arrive (w : Why) (b : SMap Nat) : SMap Nat :=
  match w with
  | .barrier id => mput 0 b id (mget 0 b id / 2 * 2 + 1)
  | _ => b

/-- A stop applied to the context as it stands: a trap is taken at the bundle, a block leaves the stage with its
stamp, a stall advances ccy alone, which leaves every landing at its distance (R150, R151, R155). What it has read has been reached
(R77). -/
def State.stopIssue (s : State) (i : Iss) (e : Stop) : State :=
  let s :=
    match e with
    | .trap t => s.trapOrStop i.h i.addr (s.ctx i.h).prog.idx t
    | .block w =>
      let s := match w with | .value _ _ ps _ => (s.touchAll (ps.map Piece.pl)).2 | _ => s
      let s := s.modCtx i.h fun c =>
        { c with st := .blocked, why := some w, stamp := s.clk.wall, bars := arrive w c.bars }
      s.modCore (coreOf i.h) fun k => { k with holder := none }
    | .stall n => s.modCtx i.h fun c => c.stalled n
    | .late ps => (s.touchAll ps).2.modCtx i.h fun c => c.stalled 1
  { s with iss := some { i with stop := some e, gone := true } }

/-- A slot operation at its issue: one whose guard is false has no effect (R171); one that stops stops the issue. -/
def slotOp (sl : Slot) (g : Guard) (body : Nat → M Unit) (s : State) : Host.Outcome State Fault Refusal :=
  match s.iss with
  | none => .fault .noIssuingContext
  | some i =>
    if (s.ctx i.h).guard g then
      match body i.h s with
      | .ok (_, s') => .next s'
      | .error e => .next (s.stopIssue i (e.at sl))
    else .next s

/-- The late writes of a level that a test in the bundle issued now would meet (R206). -/
def Loop.late (l : Loop) : List Held := l.held.filter fun x => x.age ≤ 1

/-- A level as it was before some of its writes, latest first. -/
def Loop.before (l : Loop) (ws : List Held) : Loop := ws.reverse.foldl (fun x w => { x.setField w.f w.old with ord := w.ord }) l

/-- A level as an end test finds it: a late write has not reached it (R206). -/
def Loop.tested (l : Loop) : Loop := l.before l.late

/-- What one tested level is after the test (R204 to R206): its lc and lk as the test leaves them, then the late writes in order. -/
def Loop.after (l : Loop) (lc : Word) (ord : Nat) : Loop :=
  let t := l.tested
  let lk := if l.rot ∧ t.lk ≠ 0 then t.lk - 1 else t.lk
  l.late.foldl (fun x w => x.wrote ord w.f w.new) { t with lc := lc, lk := lk }

/-- The end test (R205): the levels that end at this address, the most recently started first; the address it branches
to, the effects, and the levels tested. `p` and `rb` are the predicates and the rotation base so far. -/
def endTest (c : Ctx) (a : Word) (p : BitVec 16) (rb : BitVec 8) : List Nat → Option Word × List Wr
  | [] => (none, [])
  | l :: ls =>
    let x := c.loop l
    let t := x.tested
    if t.lc = 0 ∨ t.le ≠ a then endTest c a p rb ls
    else
      let lc := if t.lc.toNat ≥ 2 then t.lc - 1 else 0
      let y := x.after lc c.nextOrd
      let lkNew := if x.rot ∧ t.lk ≠ 0 then t.lk - 1 else t.lk
      let p' : BitVec 16 := if x.rot then (p &&& 0x00FF) ||| (((p &&& 0x7F00) <<< 1) ||| (if lkNew ≠ 0 then 0x0100 else 0)) else p
      let rb' := if x.rot then rb - 1 else rb
      let ws := Wr.loopTest l y.lc y.lk y.ord :: (if x.rot then [Wr.stages (p'.extractLsb' 8 8), Wr.rb rb'] else [])
      if t.lc.toNat ≥ 2 then (some t.ls, ws)
      else
        let (n, ws') := endTest c a p' rb' ls
        (n, ws ++ ws')

/-- A level put before the first level started earlier. -/
def Ctx.putLevel (c : Ctx) (l : Nat) : List Nat → List Nat
  | [] => [l]
  | k :: ks => if (c.loop l).tested.ord > (c.loop k).tested.ord then l :: k :: ks else k :: c.putLevel l ks

/-- The levels from the most recently started to the oldest (R205). -/
def Ctx.levels (c : Ctx) : List Nat := [0, 1, 2, 3].foldl (fun ls l => c.putLevel l ls) []

/-- The late-write ages after a bundle: each counts it, and one that can no longer be late is forgotten (R206). The spec does not say
whether a write that commits in the middle of a repeated bundle has that bundle or the next as its X: DESIGN CHOICE, the bundle in
progress, which the write then counts as the first one issued after it; assumption log 9. -/
def Loop.ageBundle (l : Loop) : Loop :=
  { l with held := (l.held.map fun w => { w with age := w.age + 1 }).filter fun w => w.age ≤ 1 }

/-- The late writes of a level that has been tested are in place (R206). -/
def Loop.released (l : Loop) : Loop := { l with held := [] }

/-- Every latch one context cycle nearer to its landing (R148). -/
def Latch.nearer (l : Latch) : Latch := { l with dist := l.dist - 1 }

/-- The trap that follows a bundle: of a consumed record (R89), else of the bundle itself (R229). -/
def Iss.following (i : Iss) (c : Ctx) : Option TrapInfo :=
  match c.prog.after with
  | some (cause, slot) =>
    some { cause := cause, info := 0, slot := slot, asy := false, sregs := [(0x023, 0)], regs := [], mem := [], blk := none }
  | none => i.after

/-- One issue done: the counters advance, the landings come nearer, and the bundle goes on to its next issue, or the
context to the next bundle (R147, R166, R205). -/
def State.retire (s : State) (i : Iss) : State :=
  let c := s.ctx i.h
  let c := { c with ccy := c.ccy + 1, scy := c.scy + 1 }
  let c :=
    if !i.last then { c with prog := { c.prog with idx := c.prog.idx + 1, blk := none } }
    else
      let c := { c with prog := { c.prog with idx := 0, blk := none, after := none } }
      let c := { c with dbg := { c.dbg with past := false } }
      match i.tgt with
      | .addr a => { c with pc := a, loops := c.loops.map fun x => (x.1, x.2.ageBundle) }
      | .seq =>
        let (n, ws) := endTest c i.addr c.f.pr c.sys.rb c.levels
        let tested (l : Nat) : Bool := ws.any fun w => match w with | .loopTest k _ _ _ => k == l | _ => false
        let pc := n.getD (i.addr + BitVec.ofNat 64 i.size)
        let c := { c with pc := pc, loops := c.loops.map fun x => (x.1, if tested x.1 then x.2.released else x.2.ageBundle) }
        if ws.isEmpty then c
        else
          let l : Latch := { tok := i.first, slot := 0, code := 0, dist := 1, here := true, occ := false, tile := false, wrs := ws }
          let older := c.lats.takeWhile fun x => !(x.occ && x.dist ≥ 1 && x.slot > 0 && x.tok ≥ i.first)
          { c with lats := older ++ [l] ++ c.lats.drop older.length }
  let c := { c with lats := c.lats.map Latch.nearer }
  { (s.setCtx i.h c) with iss := some { i with gone := true } }

/-- The trap that follows a bundle: what the bundle leaves for the next cycle is in place first (R89, R202, R229). -/
def State.trapAfter (s : State) (i : Iss) (idx : Nat) (t : TrapInfo) : State :=
  let s := s.commitBundle i.h i.first
  s.trapOrStop i.h (s.ctx i.h).pc idx t

/-- The end of an issue that took effect: retirement, then at the last issue the trap that follows the bundle, or the
stage given up by `yield` (R89, R211, R229). -/
def State.finish (s : State) (i : Iss) : State :=
  let c0 := s.ctx i.h
  let s := s.retire i
  if !i.last then s
  else
    match i.following c0 with
    | some t => s.trapAfter i 0 t
    | none =>
      if i.yield then
        (s.modCtx i.h fun c => { c with st := .ready, stamp := s.clk.wall }).modCore (coreOf i.h) fun k => { k with holder := none }
      else s

end Sys2Proof.Machine
end

