-- ==== Sys2Proof/Machine/Fetch.lean ====
section
/-! DEFINITION. Fetching the bytes of bundles from the code section, through translation under the image's owner key
(R165). -/

namespace Sys2Proof.Machine

/-- Code bytes from virtual address `va` on, each translated; a byte never written is a free value; assumption log 3. -/
def State.codeBytes (s : State) (h : Nat) (t : Task) (va : Nat) : Nat → Except Bad (List Byte) × State
  | 0 => (.ok [], s)
  | n + 1 =>
    match s.xlateFor h t.dev t.dctx va t.key false with
    | (.noPage, s1) => (.error (0x0C, [(0x023, BitVec.ofNat 64 va)]), s1)
    | (.denied, s1) => (.error (0x0D, [(0x023, BitVec.ofNat 64 va)]), s1)
    | (.ok pa, s1) =>
      let (bs, s2) := s1.readBytes (s1.hbmPlace t.dev pa t.key) 1
      match s2.codeBytes h t (va + 1) n with
      | (.error e, s3) => (.error e, s3)
      | (.ok l, s3) => (.ok (bs ++ l), s3)

/-- Bytes of the code section of the task of a context; a run not wholly within it raises the illegal-bundle trap
(R165). -/
def State.fetchBytes (s : State) (h : Nat) (a : Word) (n : Nat) : Except Bad (List Byte) × State :=
  match (s.ctx h).task with
  | none => (.error (1, []), s)
  | some t =>
    if a.toNat + n > t.csize then (.error (1, []), s)
    else s.codeBytes h t (t.cbase.toNat + a.toNat) n

/-- The header at a bundle address; one that R172 step 1 refuses raises the illegal-bundle trap. -/
def State.fetchHeader (s : State) (h : Nat) (a : Word) : Except Bad Header × State :=
  match s.fetchBytes h a 4 with
  | (.error e, s1) => (.error e, s1)
  | (.ok bs, s1) =>
    match Header.ofWord (BitVec.ofNat 32 (leNat bs)) with
    | none => (.error (1, []), s1)
    | some x => (.ok x, s1)

/-- The bundle at a bundle address, its header checked before its size is known (R163, R165, R172). -/
def State.fetchBundle (s : State) (h : Nat) (a : Word) : Except Bad Bundle × State :=
  match s.fetchHeader h a with
  | (.error e, s1) => (.error e, s1)
  | (.ok x, s1) =>
    match s1.fetchBytes h a x.size with
    | (.error e, s2) => (.error e, s2)
    | (.ok bs, s2) =>
      match decodeBundle bs with
      | none => (.error (1, []), s2)
      | some b => (.ok b, s2)

/-- A trap charged to the header or the fetch of a bundle (R165, R172). -/
def fetchTrap (e : Bad) : TrapInfo :=
  { cause := e.1, info := 0, slot := 7, asy := false, sregs := e.2, regs := [], mem := [], blk := none }

end Sys2Proof.Machine
end

