-- ==== Sys2Proof/Machine/Fp.lean ====
section
/-! DEFINITION. Floating values, exact arithmetic and the roundings of R41 to R45 and R52: an operand becomes an
exact number, the result is formed exactly (or as a floor with a remainder mark) and rounded once. -/

namespace Sys2Proof.Machine

/-- A floating value: a NaN with its kind and sign, an infinity, or (-1)^neg x m x 2^e. -/
inductive FV where
  | nan (sig neg : Bool)
  | inf (neg : Bool)
  | fin (neg : Bool) (m : Nat) (e : Int)
  deriving DecidableEq, Repr

/-- A binary format: exponent bits, fraction bits and bias (R32, R39). -/
structure FFmt where
  eb   : Nat
  fb   : Nat
  bias : Nat
  deriving DecidableEq, Repr

/-- The four IEEE formats by FMT (R32). -/
def ffmt (f : Nat) : FFmt :=
  if f = 0 then { eb := 11, fb := 52, bias := 1023 } else if f = 1 then { eb := 8, fb := 23, bias := 127 }
  else if f = 2 then { eb := 5, fb := 10, bias := 15 } else { eb := 8, fb := 7, bias := 127 }

/-- The narrow formats by CODE (R39). -/
def nfmt (code : Nat) : FFmt :=
  if code = 0x10 then { eb := 4, fb := 3, bias := 7 } else if code = 0x11 then { eb := 5, fb := 2, bias := 15 }
  else if code = 0x20 then { eb := 3, fb := 2, bias := 3 } else if code = 0x21 then { eb := 2, fb := 3, bias := 1 }
  else { eb := 2, fb := 1, bias := 1 }

/-- Flag bits of fsr (R46). -/
def flNV : Nat := 1
def flDZ : Nat := 2
def flOF : Nat := 4
def flUF : Nat := 8
def flNX : Nat := 16

/-- Flags of two lanes together. -/
def flOr (a b : Nat) : Nat := a ||| b

/-- The finite value of exponent field `ef` and fraction `fr` (R32, R39). -/
def finOf (t : FFmt) (neg : Bool) (ef fr : Nat) : FV :=
  if ef = 0 then .fin neg fr (1 - (t.bias : Int) - t.fb)
  else .fin neg (2 ^ t.fb + fr) ((ef : Int) - t.bias - t.fb)

/-- The value of an IEEE code (R32). -/
def fDecode (t : FFmt) (c : Nat) : FV :=
  let neg := c / 2 ^ (t.eb + t.fb) % 2 = 1
  let ef := c / 2 ^ t.fb % 2 ^ t.eb
  let fr := c % 2 ^ t.fb
  if ef = 2 ^ t.eb - 1 then
    if fr = 0 then .inf neg else .nan (fr / 2 ^ (t.fb - 1) % 2 = 0) neg
  else finOf t neg ef fr

/-- The default NaN (R42). -/
def fNan (t : FFmt) : Nat := (2 ^ t.eb - 1) * 2 ^ t.fb + 2 ^ (t.fb - 1)

/-- The infinity of a sign. -/
def fInf (t : FFmt) (neg : Bool) : Nat := (if neg then 2 ^ (t.eb + t.fb) else 0) + (2 ^ t.eb - 1) * 2 ^ t.fb

/-- The zero of a sign. -/
def fZero (t : FFmt) (neg : Bool) : Nat := if neg then 2 ^ (t.eb + t.fb) else 0

/-- Whether a magnitude (m + delta) with `low` cut bits of `sh` places is rounded up (R41). -/
def roundsUp (rm : Nat) (neg : Bool) (hi low sh : Nat) (sticky : Bool) : Bool :=
  let inexact := low != 0 || sticky
  match rm with
  | 0 => if sh = 0 then false
         else if low > 2 ^ (sh - 1) then true
         else low == 2 ^ (sh - 1) && (sticky || hi % 2 == 1)
  | 1 => false
  | 2 => inexact && !neg
  | _ => inexact && neg

/-- The magnitude m x 2^e rounded to the quantum 2^q: the multiple of the quantum and whether it is inexact. -/
def quantize (rm : Nat) (neg : Bool) (m : Nat) (e q : Int) (sticky : Bool) : Nat × Bool :=
  if q ≤ e then
    let hi := m * 2 ^ (e - q).toNat
    (if roundsUp rm neg hi 0 0 sticky then hi + 1 else hi, sticky)
  else
    let sh := (q - e).toNat
    let hi := m / 2 ^ sh
    let low := m % 2 ^ sh
    (if roundsUp rm neg hi low sh sticky then hi + 1 else hi, low != 0 || sticky)

/-- The exponent of the leading bit of m x 2^e. -/
def topExp (m : Nat) (e : Int) : Int := e + (Nat.log2 m : Nat)

/-- Rounding to a binary format without its top: the magnitude code with an unbounded exponent field, inexactness,
and tininess after rounding (R42). -/
def roundMag (t : FFmt) (rm : Nat) (neg : Bool) (m : Nat) (e : Int) (sticky : Bool) : Nat × Bool × Bool :=
  let emin : Int := 1 - (t.bias : Int)
  let top := topExp m e
  let qmin := emin - t.fb
  let q := max (top - t.fb) qmin
  let (k, ix) := quantize rm neg m e q sticky
  let code := (q - qmin).toNat * 2 ^ t.fb + k
  let tiny := decide (top < emin) &&
    !(decide (top = emin - 1) && (quantize rm neg m e (top - t.fb) sticky).1 == 2 ^ (t.fb + 1))
  (code, ix, tiny)

/-- A non-zero magnitude rounded into an IEEE format, with its flags (R42). -/
def roundTo (t : FFmt) (rm : Nat) (neg : Bool) (m : Nat) (e : Int) (sticky : Bool) : Nat × Nat :=
  let (code, ix, tiny) := roundMag t rm neg m e sticky
  let sgn := if neg then 2 ^ (t.eb + t.fb) else 0
  let infc := (2 ^ t.eb - 1) * 2 ^ t.fb
  if code ≥ infc then
    let toInf := rm = 0 ∨ (rm = 2 ∧ neg = false) ∨ (rm = 3 ∧ neg = true)
    (sgn + (if toInf then infc else infc - 1), flOF + flNX)
  else (sgn + code, (if ix then flNX else 0) + (if tiny && ix then flUF else 0))

/-- The code of an exact value in an IEEE format, rounded once; `z` is the sign an exact zero takes (R42). -/
def fEncode (t : FFmt) (rm : Nat) (v : FV) : Nat × Nat :=
  match v with
  | .nan sig _ => (fNan t, if sig then flNV else 0)
  | .inf n => (fInf t n, 0)
  | .fin n m e => if m = 0 then (fZero t n, 0) else roundTo t rm n m e false

/-- Whether a value is a NaN, and whether a signalling one. -/
def FV.isNan : FV → Bool
  | .nan _ _ => true
  | _ => false
def FV.isSig : FV → Bool
  | .nan s _ => s
  | _ => false

/-- The signed integer of a finite value at a common exponent. -/
def scaled (neg : Bool) (m : Nat) (e q : Int) : Int :=
  let a : Int := (m * 2 ^ (e - q).toNat : Nat)
  if neg then -a else a

/-- The exact sum of two finite values; an exact zero from unlike signs is +0, or -0 toward -infinity (R42). -/
def addFin (rm : Nat) (n1 : Bool) (m1 : Nat) (e1 : Int) (n2 : Bool) (m2 : Nat) (e2 : Int) : FV :=
  if m1 = 0 ∧ m2 = 0 then .fin (if n1 = n2 then n1 else rm == 3) 0 0
  else
    let q := min e1 e2
    let s := scaled n1 m1 e1 q + scaled n2 m2 e2 q
    if s = 0 then .fin (rm == 3) 0 0 else .fin (decide (s < 0)) s.natAbs q

/-- The NaN result of an operation, with NV when an operand signals or the operation is invalid (R42). -/
def nanRes (t : FFmt) (nv : Bool) : Nat × Nat := (fNan t, if nv then flNV else 0)

/-- Exact addition of values, rounded once (R42). -/
def fAdd (t : FFmt) (rm : Nat) (a b : FV) : Nat × Nat :=
  if a.isNan || b.isNan then nanRes t (a.isSig || b.isSig) else
  match a, b with
  | .inf x, .inf y => if x = y then (fInf t x, 0) else nanRes t true
  | .inf x, _ => (fInf t x, 0)
  | _, .inf y => (fInf t y, 0)
  | .fin n1 m1 e1, .fin n2 m2 e2 => fEncode t rm (addFin rm n1 m1 e1 n2 m2 e2)
  | _, _ => nanRes t false

/-- The negation of a value. -/
def FV.neg : FV → FV
  | .nan s n => .nan s (!n)
  | .inf n => .inf (!n)
  | .fin n m e => .fin (!n) m e

/-- The exact product of values; none where it is infinity times zero. -/
def mulFV (a b : FV) : Option FV :=
  match a, b with
  | .inf x, .inf y => some (.inf (x != y))
  | .inf x, .fin n m _ => if m = 0 then none else some (.inf (x != n))
  | .fin n m _, .inf y => if m = 0 then none else some (.inf (n != y))
  | .fin n1 m1 e1, .fin n2 m2 e2 => some (.fin (n1 != n2) (m1 * m2) (e1 + e2))
  | _, _ => some (.nan false false)

/-- Exact multiplication, rounded once (R42). -/
def fMul (t : FFmt) (rm : Nat) (a b : FV) : Nat × Nat :=
  if a.isNan || b.isNan then nanRes t (a.isSig || b.isSig) else
  match mulFV a b with
  | none => nanRes t true
  | some v => fEncode t rm v

/-- Fused multiply and add, rounded once (R52). For infinity times zero plus a quiet NaN IEEE 754-2019 leaves it to the implementation
whether invalid is signalled, and R42 speaks of the NaN operand alone. DESIGN CHOICE: it is signalled; assumption log 122. -/
def fFma (t : FFmt) (rm : Nat) (a b c : FV) : Nat × Nat :=
  match (if a.isNan || b.isNan then some (.nan false false) else mulFV a b) with
  | none => nanRes t true
  | some p =>
    if a.isNan || b.isNan || c.isNan then nanRes t (a.isSig || b.isSig || c.isSig)
    else fAdd t rm p c

/-- Division, correctly rounded (R52). -/
def fDiv (t : FFmt) (rm : Nat) (a b : FV) : Nat × Nat :=
  if a.isNan || b.isNan then nanRes t (a.isSig || b.isSig) else
  match a, b with
  | .inf _, .inf _ => nanRes t true
  | .inf x, .fin n _ _ => (fInf t (x != n), 0)
  | .fin n _ _, .inf y => (fZero t (n != y), 0)
  | .fin n1 m1 e1, .fin n2 m2 e2 =>
    if m2 = 0 then (if m1 = 0 then nanRes t true else (fInf t (n1 != n2), flDZ))
    else if m1 = 0 then (fZero t (n1 != n2), 0)
    else
      let k := t.fb + 4 + Nat.log2 m2 - Nat.log2 m1 + 1
      let num := m1 * 2 ^ k
      roundTo t rm (n1 != n2) (num / m2) (e1 - e2 - k) (num % m2 != 0)
  | _, _ => nanRes t false

/-- The integer square root, one bit at a time from the top. -/
def isqrtGo (n : Nat) : Nat → Nat → Nat
  | 0, r => r
  | k + 1, r =>
    let c := r + 2 ^ k
    isqrtGo n k (if c * c ≤ n then c else r)

/-- The floor of the square root. -/
def isqrt (n : Nat) : Nat := isqrtGo n (Nat.log2 n / 2 + 1) 0

/-- A finite magnitude with an even exponent and at least `bits` bits. -/
def evenUp (m : Nat) (e : Int) (bits : Nat) : Nat × Int :=
  let k := bits - Nat.log2 m
  let k := if (e - k) % 2 = 0 then k else k + 1
  (m * 2 ^ k, e - k)

/-- Square root, correctly rounded (R52). -/
def fSqrt (t : FFmt) (rm : Nat) (a : FV) : Nat × Nat :=
  match a with
  | .nan s _ => nanRes t s
  | .inf n => if n then nanRes t true else (fInf t false, 0)
  | .fin n m e =>
    if m = 0 then (fZero t n, 0) else if n then nanRes t true
    else
      let (m', e') := evenUp m e (2 * t.fb + 8)
      let r := isqrt m'
      roundTo t rm false r (e' / 2) (r * r != m')

/-- Reciprocal square root, correctly rounded (R52, R270). -/
def fRsqrt (t : FFmt) (rm : Nat) (a : FV) : Nat × Nat :=
  match a with
  | .nan s _ => nanRes t s
  | .inf n => if n then nanRes t true else (fZero t false, 0)
  | .fin n m e =>
    if m = 0 then (fInf t n, flDZ) else if n then nanRes t true
    else
      let (m', e') := evenUp m e 0
      let k := Nat.log2 m' / 2 + t.fb + 6
      let r := isqrt (2 ^ (2 * k) / m')
      roundTo t rm false r (-(e' / 2) - k) (r * r * m' != 2 ^ (2 * k))

/-- Fixed-point precision of the series below, in bits. -/
def serBits : Nat := 320

/-- ln 2 in fixed point, as the sum of 1 / (k x 2^k). -/
def ln2Go : Nat → Nat → Nat
  | 0, acc => acc
  | k + 1, acc => ln2Go k (acc + 2 ^ (serBits + 40) / ((k + 1) * 2 ^ (k + 1)))

/-- ln 2 x 2^serBits, within a few units. -/
def ln2 : Nat := ln2Go 380 0 / 2 ^ 40

/-- exp of y x 2^-serBits by its series. -/
def expGo (y : Nat) : Nat → Nat → Nat → Nat → Nat
  | 0, _, _, acc => acc
  | n + 1, k, term, acc =>
    let t := term * y / 2 ^ serBits / k
    expGo y n (k + 1) t (acc + t)

/-- 2^f for a fraction f x 2^-serBits below 1, in fixed point. -/
def exp2Frac (f : Nat) : Nat := expGo (f * ln2 / 2 ^ serBits) 90 1 (2 ^ serBits) (2 ^ serBits)

/-- Power of two, correctly rounded (R52); assumption log 13 on the precision of the series. -/
def fExp2 (t : FFmt) (rm : Nat) (a : FV) : Nat × Nat :=
  match a with
  | .nan s _ => nanRes t s
  | .inf n => (if n then fZero t false else fInf t false, 0)
  | .fin n m e =>
    if m = 0 then roundTo t rm false 1 0 false
    else if topExp m e ≥ 14 then
      (if n then roundTo t rm false 1 (-20000) true else roundTo t rm false (2 ^ 70) 20000 true)
    else if topExp m e < -120 then
      (if n then roundTo t rm false (2 ^ 130 - 1) (-130) true else roundTo t rm false (2 ^ 130) (-130) true)
    else
      let x := if e ≥ 0 then m * 2 ^ e.toNat * 2 ^ serBits else m * 2 ^ serBits / 2 ^ (-e).toNat
      let xi : Int := if n then -(x : Int) else x
      let ip := xi / (2 ^ serBits : Nat)
      let fr := (xi % (2 ^ serBits : Nat)).toNat
      if fr = 0 then roundTo t rm false 1 ip false
      else roundTo t rm false (exp2Frac fr / 2 ^ 40) (ip - (serBits - 40 : Nat)) true

/-- atanh of z x 2^-serBits by its series, from odd term 2k + 1 on. -/
def atanhGo (z2 : Nat) : Nat → Nat → Nat → Nat → Nat
  | 0, _, _, acc => acc
  | n + 1, k, pw, acc => atanhGo z2 n (k + 1) (pw * z2 / 2 ^ serBits) (acc + pw / (2 * k + 1))

/-- log2 of m x 2^-s for a value from 3/4 to 3/2, in fixed point and signed. -/
def log2Near (m s : Nat) : Int :=
  let d : Int := (m : Int) - (2 ^ s : Nat)
  let z := d.natAbs * 2 ^ serBits / (m + 2 ^ s)
  let r : Int := (2 * atanhGo (z * z / 2 ^ serBits) 110 0 z 0 * 2 ^ serBits / ln2 : Nat)
  if d < 0 then -r else r

/-- Base-two logarithm, correctly rounded (R52); assumption log 13. -/
def fLog2 (t : FFmt) (rm : Nat) (a : FV) : Nat × Nat :=
  match a with
  | .nan s _ => nanRes t s
  | .inf n => if n then nanRes t true else (fInf t false, 0)
  | .fin n m e =>
    if m = 0 then (fInf t true, flDZ) else if n then nanRes t true
    else
      let l := Nat.log2 m
      if m = 2 ^ l then
        let r := e + l
        if r = 0 then (fZero t false, 0) else roundTo t rm (decide (r < 0)) r.natAbs 0 false
      else
        let up := decide (2 * m > 3 * 2 ^ l)
        let s := if up then l + 1 else l
        let r := (e + s) * (2 ^ serBits : Nat) + log2Near m s
        roundTo t rm (decide (r < 0)) r.natAbs (-(serBits : Int)) true

/-- Whether a is below b as exact numbers, with -0 below +0 (R270). -/
def fvLess (a b : FV) : Bool :=
  match a, b with
  | .inf x, .inf y => x && !y
  | .inf x, _ => x
  | _, .inf y => !y
  | .fin n1 m1 e1, .fin n2 m2 e2 =>
    if m1 = 0 ∧ m2 = 0 then n1 && !n2
    else let q := min e1 e2; decide (scaled n1 m1 e1 q < scaled n2 m2 e2 q)
  | _, _ => false

/-- Whether a equals b as numbers, with -0 equal to +0 (R276). -/
def fvEq (a b : FV) : Bool :=
  match a, b with
  | .inf x, .inf y => x == y
  | .fin n1 m1 e1, .fin n2 m2 e2 =>
    let q := min e1 e2; decide (scaled n1 m1 e1 q = scaled n2 m2 e2 q)
  | _, _ => false

/-- The log table (R40). -/
def lnsT (f : Nat) : Nat := if f = 0 then 0x8000 else if f = 1 then 0x9838 else if f = 2 then 0xB505 else 0xD745

/-- The realised value of log field `e` of LNS6 as m x 2^x (R40). -/
def lnsVal (e : Nat) : Nat × Int :=
  if e = 0 then (0, 0) else
  let l : Int := (e : Int) - 16
  (lnsT (l % 4).toNat, l / 4 - 15)

/-- The value of a narrow element (R39, R40, R398). -/
def nDecode (code c : Nat) : FV :=
  if code = 0x40 then
    let (m, e) := lnsVal (c % 32)
    .fin (c / 32 % 2 = 1) m e
  else
    let t := nfmt code
    let neg := c / 2 ^ (t.eb + t.fb) % 2 = 1
    let ef := c / 2 ^ t.fb % 2 ^ t.eb
    let fr := c % 2 ^ t.fb
    if code = 0x10 ∧ ef = 15 ∧ fr = 7 then .nan false neg
    else if code = 0x11 ∧ ef = 31 then (if fr = 0 then .inf neg else .nan (fr < 2) neg)
    else finOf t neg ef fr

/-- A value times a block scale 2^(SCALE - 127); SCALE 0xFF makes it a quiet NaN (R45, R398). -/
def scaleBy (sc : Nat) (v : FV) : FV :=
  if sc = 255 then .nan false false else
  match v with
  | .fin n m e => .fin n m (e + sc - 127)
  | v => v

/-- The magnitude code of the largest finite narrow value (R39, R40). -/
def nMax (code : Nat) : Nat :=
  if code = 0x10 then 0x7E else if code = 0x11 then 0x7B else if code = 0x20 then 0x1F else if code = 0x21 then 0x1F
  else if code = 0x40 then 0x1F else 0x7

/-- The sign bit of a narrow code. -/
def nSign (code : Nat) (neg : Bool) : Nat :=
  if neg then (if code = 0x10 ∨ code = 0x11 then 0x80 else if code = 0x30 then 8 else 0x20) else 0

/-- Whether m1 x 2^e1 is at most m2 x 2^e2. -/
def magLe (m1 : Nat) (e1 : Int) (m2 : Nat) (e2 : Int) : Bool :=
  let q := min e1 e2
  decide (scaled false m1 e1 q ≤ scaled false m2 e2 q)

/-- The largest log field up to `k` whose value is at most the magnitude. -/
def lnsBelow (m : Nat) (e : Int) : Nat → Nat
  | 0 => 0
  | k + 1 => let (lm, le) := lnsVal (k + 1); if magLe lm le m e then k + 1 else lnsBelow m e k

/-- A magnitude rounded to a log field, with inexactness (R44). -/
def lnsRound (rm : Nat) (neg : Bool) (m : Nat) (e : Int) : Nat × Bool :=
  let k := lnsBelow m e 32
  let (m1, e1) := lnsVal k
  let (m2, e2) := lnsVal (k + 1)
  let q := min e (min e1 e2)
  let x := scaled false m e q
  let a := scaled false m1 e1 q
  let b := scaled false m2 e2 q
  if x = a then (k, false)
  else if k ≥ 32 then (33, true)
  else
    let up := match rm with
      | 0 => if x - a = b - x then k % 2 == 1 else decide (x - a > b - x)
      | 1 => false
      | 2 => !neg
      | _ => neg
    (if up then k + 1 else k, true)

/-- Conversion into a narrow format, with saturation and flags (R43, R44). -/
def nEncode (code rm : Nat) (v : FV) : Nat × Nat :=
  match v with
  | .nan sig neg =>
    if code = 0x10 then (0x7F, if sig then flNV else 0) else if code = 0x11 then (0x7E, if sig then flNV else 0)
    else (nSign code neg + nMax code, flNV)
  | .inf neg => if code = 0x11 then (nSign code neg + 0x7C, 0) else (nSign code neg + nMax code, flOF)
  | .fin neg m e =>
    if m = 0 then (nSign code neg, 0)
    else if code = 0x40 then
      let (k, ix) := lnsRound rm neg m e
      if k > 31 then (nSign code neg + nMax code, flOF + flNX)
      else (nSign code neg + k, (if ix then flNX else 0) + (if k = 0 then flUF else 0))
    else
      let (mag, ix, tiny) := roundMag (nfmt code) rm neg m e false
      if mag > nMax code then (nSign code neg + nMax code, flOF + flNX)
      else (nSign code neg + mag, (if ix then flNX else 0) + (if tiny && ix then flUF else 0))

/-- A value rounded to an integer in a mode, and whether inexact (R45). -/
def fvToInt (rm : Nat) (neg : Bool) (m : Nat) (e : Int) : Int × Bool :=
  let (k, ix) := quantize rm neg m e (max 0 0) false
  (if neg then -(k : Int) else k, ix)

/-- The least and the greatest value of an integer format (R33). -/
def intMin (f : Nat) : Int := if fmtInt f then -(2 ^ (fmtBits f - 1) : Nat) else 0
def intMax (f : Nat) : Int := if fmtInt f then (2 ^ (fmtBits f - 1) : Nat) - 1 else (2 ^ fmtBits f : Nat) - 1

/-- The number an integer element holds (R33). -/
def intVal (f c : Nat) : Int := if fmtInt f then toSigned (fmtBits f) c else c

/-- Conversion into an integer format, saturating (R45). -/
def iEncode (f rm : Nat) (v : FV) : Nat × Nat :=
  match v with
  | .nan _ _ => (0, flNV)
  | .inf neg => (wrapTo (fmtBits f) (if neg then intMin f else intMax f), flNV)
  | .fin neg m e =>
    let (k, ix) := fvToInt rm neg m e
    if k < intMin f then (wrapTo (fmtBits f) (intMin f), flNV)
    else if k > intMax f then (wrapTo (fmtBits f) (intMax f), flNV)
    else (wrapTo (fmtBits f) k, if ix then flNX else 0)

/-- An integer as an exact value. -/
def fvOfInt (v : Int) : FV := .fin (decide (v < 0)) v.natAbs 0

/-- The class mask of a floating code (R279). -/
def fClass (t : FFmt) (c : Nat) : Nat :=
  match fDecode t c with
  | .nan s _ => if s then 256 else 512
  | .inf n => if n then 1 else 128
  | .fin n m _ =>
    if m = 0 then (if n then 8 else 16)
    else if c / 2 ^ t.fb % 2 ^ t.eb = 0 then (if n then 4 else 32)
    else (if n then 2 else 64)

end Sys2Proof.Machine
end

