-- ==== Sys2Proof/Machine/Flags.lean ====
section
/-! DEFINITION. Every condition and flag computation: compare conditions, predicate tests, the wait classes and the tile
status (R184, R197 to R199, R207, R276, R278, R288). -/

namespace Sys2Proof.Machine

/-- The condition of `cmp` (R184): signed, or natural for codes 6 and 7. -/
def cmpCond (cc : BitVec 3) (b c : Word) : Bool :=
  match cc.toNat with
  | 0 => b == c
  | 1 => b != c
  | 2 => b.slt c
  | 3 => b.sle c
  | 4 => c.slt b
  | 5 => c.sle b
  | 6 => b.ult c
  | _ => c.ule b

/-- The condition of `waitv` (R184). -/
def waitvCond (cc : Nat) (x s : Word) : Bool :=
  match cc with
  | 0 => x == s
  | 1 => x != s
  | 2 => x.slt s
  | 3 => s.sle x
  | 4 => x.ult s
  | _ => s.ule x

/-- The condition of `vcmp` on integers (R276). -/
def ordCond (cc : Nat) (b c : Int) : Bool :=
  match cc with
  | 0 => b == c
  | 1 => b != c
  | 2 => decide (b < c)
  | 3 => decide (b ≤ c)
  | 4 => decide (c < b)
  | _ => decide (c ≤ b)

/-- The condition of `vcmp` on floating values, with its flags (R276). -/
def fvCond (cc : Nat) (a b : FV) : Bool × Nat :=
  let nan := a.isNan || b.isNan
  let nv := if cc ≤ 1 then (if a.isSig || b.isSig then flNV else 0) else (if nan then flNV else 0)
  let eq := fvEq a b
  let lt := fvLess a b && !eq
  let gt := fvLess b a && !eq
  let r :=
    match cc with
    | 0 => !nan && eq
    | 1 => nan || !eq
    | 2 => !nan && lt
    | 3 => !nan && (lt || eq)
    | 4 => !nan && gt
    | _ => !nan && (gt || eq)
  (r, nv)

/-- The truth of a `setp` (R198). -/
def setpTest (x c : Word) (neg : BitVec 1) : Bool := ((x &&& c) != 0) != (neg == 1)

/-- The tile status of one result code of a format: NAN, INF (R288). -/
def tileOf (t : FFmt) (c : Nat) : Nat :=
  match fDecode t c with
  | .nan _ _ => 1
  | .inf _ => 2
  | .fin _ _ _ => 0

/-- OF of the tile status from the rounding flags of a step (R288). -/
def tileFlags (fl : Nat) : Nat := if fl &&& flOF ≠ 0 then 4 else 0

/-- Whether every wait class is at or below its immediate (R208). -/
def countsBelow (ld st cp tl : Nat) (imm : BitVec 24) : Bool :=
  ld ≤ (imm.extractLsb' 0 6).toNat && st ≤ (imm.extractLsb' 6 6).toNat &&
  cp ≤ (imm.extractLsb' 12 6).toNat && tl ≤ (imm.extractLsb' 18 6).toNat

/-- The truth of a set of lanes under `vany` (R278): any, all; none for `uni` where the lanes differ. -/
def vanyAny (l : List Bool) : Bool := l.any id
def vanyAll (l : List Bool) : Bool := l.all id
def vanyUni (l : List Bool) : Option Bool :=
  if l.isEmpty then some false else if l.all id then some true else if l.any id then none else some false

end Sys2Proof.Machine
end

