-- ==== Sys2Proof/Machine/Scalar.lean ====
section
/-! DEFINITION. The S slot (R213 to R224): integer arithmetic, predicates and configuration. -/

namespace Sys2Proof.Machine

/-- A two-source operation: both sources are read at issue, and the result lands after `lat` cycles (R192, R213). -/
def sBinary (lat : Nat) (f : Word → Word → Word) (g : Guard) (d b c : Opnd) (s : State) :
    Host.Outcome State Fault Refusal :=
  slotOp .s g (fun h => do
    let x ← rdScalar h b 1
    let y ← rdScalar h c 2
    let ws ← wrScalar h d (f x y)
    latchM h .s lat ws d.code.toNat) s

/-- A one-source operation. -/
def sUnary (f : Word → Word) (g : Guard) (d b : Opnd) (s : State) : Host.Outcome State Fault Refusal :=
  slotOp .s g (fun h => do
    let x ← rdScalar h b 1
    let ws ← wrScalar h d (f x)
    latchM h .s 1 ws d.code.toNat) s

/-- A division (R214): a zero divisor raises integer divide by zero, precise at issue. -/
def sDivide (f : Word → Word → Word) (g : Guard) (d b c : Opnd) (s : State) : Host.Outcome State Fault Refusal :=
  slotOp .s g (fun h => do
    let x ← rdScalar h b 1
    let y ← rdScalar h c 2
    needM (y != 0) 0x12
    let ws ← wrScalar h d (f x y)
    latchM h .s 20 ws d.code.toNat) s

/-- A shift left by a natural count, 0 when the count is 64 or more (R213). -/
def shlW (x y : Word) : Word := if y.toNat ≥ 64 then 0 else x <<< y.toNat
/-- A shift right with zeros (R213). -/
def shrW (x y : Word) : Word := if y.toNat ≥ 64 then 0 else x >>> y.toNat
/-- A shift right with copies of bit 63, by 63 when the count is 64 or more (R213). -/
def sraW (x y : Word) : Word := x.sshiftRight (min y.toNat 63)
/-- The high half of the exact product, signed or natural (R214). -/
def mulhW (nat : BitVec 1) (x y : Word) : Word :=
  if nat = 1 then BitVec.ofNat 64 (x.toNat * y.toNat / 2 ^ 64) else BitVec.ofInt 64 (x.toInt * y.toInt / (2 ^ 64 : Nat))
/-- Leading zero bits (R215). -/
def clzGo (x : Word) : Nat → Nat
  | 0 => 0
  | n + 1 => if x.getLsbD n then 0 else 1 + clzGo x n
def clzW (x : Word) : Word := BitVec.ofNat 64 (clzGo x 64)
/-- One bits (R215). -/
def popcW (x : Word) : Word := BitVec.ofNat 64 ((List.range 64).filter fun i => x.getLsbD i).length

def execAdd (g : Guard) (d b c : Opnd) (s : State) := sBinary 1 (· + ·) g d b c s
def execSub (g : Guard) (d b c : Opnd) (s : State) := sBinary 1 (· - ·) g d b c s
def execMul (g : Guard) (d b c : Opnd) (s : State) := sBinary 3 (· * ·) g d b c s
def execMulh (g : Guard) (nat : BitVec 1) (d b c : Opnd) (s : State) := sBinary 4 (mulhW nat) g d b c s
def execDivs (g : Guard) (d b c : Opnd) (s : State) := sDivide BitVec.sdiv g d b c s
def execRems (g : Guard) (d b c : Opnd) (s : State) := sDivide BitVec.srem g d b c s
def execDivn (g : Guard) (d b c : Opnd) (s : State) := sDivide BitVec.udiv g d b c s
def execRemn (g : Guard) (d b c : Opnd) (s : State) := sDivide BitVec.umod g d b c s
def execAndS (g : Guard) (d b c : Opnd) (s : State) := sBinary 1 (· &&& ·) g d b c s
def execOrS (g : Guard) (d b c : Opnd) (s : State) := sBinary 1 (· ||| ·) g d b c s
def execXorS (g : Guard) (d b c : Opnd) (s : State) := sBinary 1 (· ^^^ ·) g d b c s
def execShl (g : Guard) (d b c : Opnd) (s : State) := sBinary 1 shlW g d b c s
def execShr (g : Guard) (d b c : Opnd) (s : State) := sBinary 1 shrW g d b c s
def execSra (g : Guard) (d b c : Opnd) (s : State) := sBinary 1 sraW g d b c s
def execMin (g : Guard) (d b c : Opnd) (s : State) := sBinary 1 (fun x y => if y.slt x then y else x) g d b c s
def execMax (g : Guard) (d b c : Opnd) (s : State) := sBinary 1 (fun x y => if x.slt y then y else x) g d b c s
def execMinn (g : Guard) (d b c : Opnd) (s : State) := sBinary 1 (fun x y => if y.ult x then y else x) g d b c s
def execMaxn (g : Guard) (d b c : Opnd) (s : State) := sBinary 1 (fun x y => if x.ult y then y else x) g d b c s
def execClz (g : Guard) (d b : Opnd) (s : State) := sUnary clzW g d b s
def execPopc (g : Guard) (d b : Opnd) (s : State) := sUnary popcW g d b s
def execMov (g : Guard) (d b : Opnd) (s : State) := sUnary id g d b s

/-- `li` (R216): IMM24 sign-extended. -/
def execLi (g : Guard) (d : Opnd) (imm : BitVec 24) (s : State) : Host.Outcome State Fault Refusal :=
  slotOp .s g (fun h => do
    let ws ← wrScalar h d (imm.signExtend 64)
    latchM h .s 1 ws d.code.toNat) s

/-- `lih.m` (R216): bits 47:24 replaced. -/
def execLihM (g : Guard) (d : BitVec 5) (imm : BitVec 24) (s : State) : Host.Outcome State Fault Refusal :=
  slotOp .s g (fun h => do
    let c ← ctxM h
    let x := c.g d
    let ws ← wrScalar h (.g d) (x.extractLsb' 48 16 ++ imm ++ x.extractLsb' 0 24)
    latchM h .s 1 ws d.toNat) s

/-- `lih.h` (R216): bits 63:48 replaced. -/
def execLihH (g : Guard) (d : BitVec 5) (imm : BitVec 16) (s : State) : Host.Outcome State Fault Refusal :=
  slotOp .s g (fun h => do
    let c ← ctxM h
    let ws ← wrScalar h (.g d) (imm ++ (c.g d).extractLsb' 0 48)
    latchM h .s 1 ws d.toNat) s

/-- `sel` (R217): both sources are read, whatever the predicate. -/
def execSel (g : Guard) (d b c : Opnd) (neg : BitVec 1) (p : BitVec 4) (s : State) : Host.Outcome State Fault Refusal :=
  slotOp .s g (fun h => do
    let x ← rdScalar h b 1
    let y ← rdScalar h c 2
    let k ← ctxM h
    let ws ← wrScalar h d (if k.pred p != (neg == 1) then x else y)
    latchM h .s 1 ws d.code.toNat) s

/-- `cmp` (R197): to a scalar destination, cq or a predicate. -/
def execCmp (g : Guard) (cc : BitVec 3) (d : CmpDst) (b c : Opnd) (s : State) : Host.Outcome State Fault Refusal :=
  slotOp .s g (fun h => do
    let x ← rdScalar h b 1
    let y ← rdScalar h c 2
    let t := cmpCond cc x y
    match d with
    | .pred n => latchM h .s 1 [.pred n t]
    | .val o =>
      let ws ← wrScalar h o (if t then 1 else 0)
      latchM h .s 1 ws o.code.toNat) s

/-- `setp` (R198): a mask test of a scalar or of a tile status register as committed. -/
def execSetp (g : Guard) (neg : BitVec 1) (p : BitVec 4) (b : SetpSrc) (c : Opnd) (s : State) :
    Host.Outcome State Fault Refusal :=
  slotOp .s g (fun h => do
    let k ← ctxM h
    let x ← (match b with | .ts n => pure (mget 0 k.sys.ts n.toNat) | .val o => rdScalar h o 1)
    let y ← rdScalar h c 2
    latchM h .s 1 [.pred p (setpTest x y neg)]) s

/-- A predicate operation (R199). -/
def sPred (f : Bool → Bool → Bool) (g : Guard) (pb pa pd : BitVec 4) (s : State) : Host.Outcome State Fault Refusal :=
  slotOp .s g (fun h => do
    let c ← ctxM h
    latchM h .s 1 [.pred pd (f (c.pred pa) (c.pred pb))]) s

def execPand (g : Guard) (pb pa pd : BitVec 4) (s : State) := sPred (· && ·) g pb pa pd s
def execPor (g : Guard) (pb pa pd : BitVec 4) (s : State) := sPred (· || ·) g pb pa pd s
def execPxor (g : Guard) (pb pa pd : BitVec 4) (s : State) := sPred (· != ·) g pb pa pd s
def execPnot (g : Guard) (pa pd : BitVec 4) (s : State) := sPred (fun a _ => !a) g 0 pa pd s

/-- The number of a generator by its port: pa to pd, then pw and px. -/
def portNum (o : Opnd) : Nat :=
  match o with
  | .rp n => n.toNat
  | .wp n => 4 + n.toNat
  | _ => 0

/-- The reserved bits of a parameter set (R180): those of the control word and of the levels, with the levels above
NLV all zero. -/
def parReserved (par : List Word) : Bool :=
  let w := parWord par 0
  fld w 63 34 == 0 && fld w 22 16 == 0 && fld w 7 1 == 0 &&
  (List.range 4).all fun k =>
    let l := parWord par (2 + k)
    if k ≤ parNlv par then fld l 63 50 == 0 else l == 0

/-- `agset` (R180, R218): the parameter set is read and checked at issue, and the generator changes at landing. For ARM 0 the spec does not
say which of the set's checks are still made. DESIGN CHOICE: reserved bits and non-zero levels above NLV still raise the illegal-operand
trap; COUNT, WID and the slot are not looked at; assumption log 125. -/
def execAgset (g : Guard) (port : Opnd) (v : BitVec 5) (s : State) : Host.Outcome State Fault Refusal :=
  slotOp .s g (fun h => do
    let par ← blockWords h v .s 1 6
    let par := par.take 6
    let c ← ctxM h
    needM (parReserved par) 3 1
    if !bitOf (parWord par 0) 0 then latchM h .s 1 [.arm (portNum port) []]
    else
      let b := c.box (parBox par)
      needM ((List.range (parNlv par + 1)).all fun k => fld (parWord par (2 + k)) 31 0 != 0) 3 1
      needM (!b.valid || parWid par ≤ 4 * fmtPer b.fmt) 3 1
      needM b.valid 0x0A 0 [(0x00A, bxfOf 0 0 (parBox par) 0 1)]
      needM (portNum port < 4 || b.acc != 0) 0x0D 0 [(0x00A, bxfOf 0 0 (parBox par) 0 4)]
      let ms := fld (parWord par 0) 15 12
      latchM h .s 1 [.arm (portNum port) (par ++ [if ms = 0 then 0 else c.g (BitVec.ofNat 5 ms)])]) s

/-- `agpos` (R218): POS as it stood at the issue. Only an armed generator has a POS; of another the spec gives none. DESIGN CHOICE: 0;
assumption log 126. -/
def execAgpos (g : Guard) (d port : Opnd) (s : State) : Host.Outcome State Fault Refusal :=
  slotOp .s g (fun h => do
    let c ← ctxM h
    let pos := match mget none c.q.ag (portNum port) with | some x => x.pos | none => 0
    let ws ← wrScalar h d (BitVec.ofNat 64 pos)
    latchM h .s 1 ws d.code.toNat) s

/-- The reserved bits of a view register (R55). -/
def viewMask : Word := 0xFFFC7FFFFFF000FF

/-- `view` (R219): the source into vdN, with no check. -/
def execView (g : Guard) (v : BitVec 5) (b : Opnd) (s : State) : Host.Outcome State Fault Refusal :=
  slotOp .s g (fun h => do
    let x ← rdScalar h b 1
    latchM h .s 1 [.vd v.toNat (x &&& viewMask)]) s

/-- `shape` (R220): the grant clamped to 32 rows and the column cap; A receives rows times columns. -/
def execShape (g : Guard) (mz tz : BitVec 1) (d rows cols : Opnd) (fmt : BitVec 5) (s : State) :
    Host.Outcome State Fault Refusal :=
  slotOp .s g (fun h => do
    needM (fmtOk fmt.toNat) 3 10
    let r ← rdScalar h rows 1
    let k ← rdScalar h cols 2
    let rr := (max 0 (min r.toInt 32)).toNat
    let cc := (max 0 (min k.toInt (colCap fmt.toNat))).toNat
    let sh := atBit mz.toNat 22 ||| atBit tz.toNat 21 ||| atBit fmt.toNat 16 ||| atBit rr 10 ||| atBit cc 0
    let ws ← wrScalar h d (BitVec.ofNat 64 (rr * cc))
    latchM h .s 1 (.sreg 0x001 sh :: ws) d.code.toNat) s

/-- What `bxinfo` reads of a box that holds something (R221): the state of a system box is the target while it
converts (R120). -/
def bxinfoVal (msh m : Word) (b : Desc) (e : PlEnt) (what : Nat) : Word :=
  let st := if e.cip then e.tgt else e.cur
  if what ≤ 3 then BitVec.ofNat 64 (b.ext what)
  else if what = 4 then BitVec.ofNat 64 b.rank else if what = 5 then BitVec.ofNat 64 b.fmt
  else if what = 6 then BitVec.ofNat 64 b.acc else if what = 7 then BitVec.ofNat 64 b.level
  else if what = 8 then 1
  else if b.level ≠ 3 then (if what ≤ 12 then BitVec.ofNat 64 (b.ext (what - 9)) else 0)
  else if what ≤ 12 then BitVec.ofNat 64 (shardDim msh m b.fmt st (b.ext (what - 9)) (what - 9)).2
  else BitVec.ofNat 64 (shardDim msh m b.fmt st (b.ext (what - 13)) (what - 13)).1

/-- `bxinfo` (R221). -/
def execBxinfo (g : Guard) (d : Opnd) (c : BitVec 5) (bx : BitVec 4) (what : BitVec 6) (s : State) :
    Host.Outcome State Fault Refusal :=
  slotOp .s g (fun h => do
    needM (what.toNat ≤ 16) 3 10
    needM (c == 0 || what.toNat ≥ 9) 3 2
    let k ← ctxM h
    let st ← getM
    let b := k.box bx.toNat
    if !b.valid then
      let ws ← wrScalar h d 0
      latchM h .s 1 ws d.code.toNat
    else
      let dc := st.taskDc k
      let m := if c = 0 then dc.mco else k.g c
      needM (c == 0 || b.level == 3) 0x0A 0 [(0x00A, bxfOf 0 0 bx.toNat 0 3)]
      liftM' (if c = 0 then .ok () else meshCheck bx.toNat dc.msh m)
      let e := match k.task with | some t => st.entry t.dev t.dctx b | none => PlEnt.zero
      let ws ← wrScalar h d (bxinfoVal dc.msh m b e what.toNat)
      latchM h .s 1 ws d.code.toNat) s

/-- Whether an operation of the B slot transfers, as the context stands at its issue (R166, R206). -/
def Ctx.transfers (c : Ctx) (op : Instr) : Bool :=
  match op with
  | .brT g _ => c.guard g && c.q.cq.head? == some true
  | .brF g _ => c.guard g && c.q.cq.head? == some false
  | .jmp g _ => c.guard g
  | .jmpi g _ => c.guard g
  | .bsr g _ => c.guard g
  | .ret g => c.guard g
  | .eret g => c.guard g
  | .loop g _ _ _ => c.guard g
  | .loopRot g _ _ _ _ => c.guard g
  | _ => false

/-- Whether an end test at an address tests a level. -/
def Ctx.testsAt (c : Ctx) (a : Word) (l : Nat) : Bool :=
  (endTest c a 0 0 c.levels).2.any fun w => match w with | .loopTest k _ _ _ => k == l | _ => false

/-- Whether the bundle after the one in progress makes an end test of a level: it ends there, as the context stands after one more context
cycle, and its B slot does not transfer. -/
def State.nextTests (s : State) (i : Iss) (l : Nat) : Bool :=
  let c := s.ctx i.h
  let a := match i.tgt with
    | .addr a => a
    | .seq => (endTest c i.addr c.f.pr c.sys.rb c.levels).1.getD (i.addr + BitVec.ofNat 64 i.size)
  let n := ((s.modCtx i.h fun c => { c with lats := c.lats.map Latch.nearer }).commitDue i.h).ctx i.h
  n.testsAt a l && (match (s.fetchBundle i.h a).1 with
    | .ok b => !b.ops.any fun x => match x.2 with | .ok op => n.transfers op | .error _ => false
    | .error _ => false)

/-- A loop register as the issue in progress reads it: a late write is not in place before its end test (R206). -/
def State.loopRead (s : State) (i : Iss) (l f : Nat) : Word :=
  let c := s.ctx i.h
  let x := c.loop l
  let young := x.held.filter (·.age == 0)
  if i.tgt = .seq ∧ c.testsAt i.addr l then x.tested.fieldOf f
  else if !young.isEmpty && s.nextTests i l then (x.before young).fieldOf f
  else x.fieldOf f

/-- A special register as an operation reads it (R206, R223). -/
def State.sregRead (s : State) (h n : Nat) : Option Word :=
  match loopRegOf n, s.iss with
  | some (l, f), some i => some (s.loopRead i l f)
  | _, _ => s.sreg h n

/-- `sget` (R206, R223, R224). -/
def execSget (g : Guard) (d : Opnd) (num : BitVec 12) (s : State) : Host.Outcome State Fault Refusal :=
  slotOp .s g (fun h => do
    let st ← getM
    match st.sregRead h num.toNat with
    | none => trapM 3 10
    | some v =>
      needM (num != 0x042 || st.priv (st.ctx h)) 4
      let ws ← wrScalar h d v
      latchM h .s 1 ws d.code.toNat) s

/-- A call of a context that is live in a merge group (R85, R94). -/
def CallEnt.liveIn (e : CallEnt) (h grp : Nat) : Bool := e.st != .free && !e.dead && e.parent == h && e.grp == grp

/-- The live calls and spawns of a context (R85). -/
def State.liveCalls (s : State) (h : Nat) : List CallEnt :=
  let a := (s.clu (cluOf h)).calls.map (·.2)
  let b := (s.taskDc (s.ctx h)).spawn.map (·.2)
  (a ++ b).filter fun e => e.st != .free && !e.dead && e.parent == h

/-- Whether a write of cgm changes the rule of a group with a live call (R94). -/
def State.cgmBusy (s : State) (h : Nat) (v : Word) : Bool :=
  let c := s.ctx h
  (s.liveCalls h).any fun e => bitOf c.sys.cgm e.grp != bitOf v e.grp

/-- `sset` (R223, R224): unassigned numbers, read-only and privileged registers refused in that order. -/
def execSset (g : Guard) (b : Opnd) (num : BitVec 12) (s : State) : Host.Outcome State Fault Refusal :=
  slotOp .s g (fun h => do
    let st ← getM
    let n := num.toNat
    needM (st.sreg h n).isSome 3 10
    needM (!sregReadOnly n) 2
    needM (!sregPriv n || st.priv (st.ctx h)) 4
    let v ← rdScalar h b 1
    needM (n != 0x001 || fmtOk (fld v 20 16)) 3 1
    needM (n != 0x027 || fld v 3 0 ≤ 8) 3 1
    needM (n != 0x003 || !st.cgmBusy h v) 2
    latchM h .s 1 [.sreg n v]) s

/-- `tsget` (R222). -/
def execTsget (g : Guard) (d : Opnd) (k : BitVec 3) (s : State) : Host.Outcome State Fault Refusal :=
  slotOp .s g (fun h => do
    let c ← ctxM h
    let ws ← wrScalar h d (mget 0 c.sys.ts k.toNat)
    latchM h .s 1 ws d.code.toNat) s

/-- Whether two entries of a pattern that are not dropped share a destination (R281). -/
def patClash : List (Option Nat) → Bool
  | [] => false
  | none :: l => patClash l
  | some d :: l => l.any (· == some d) || patClash l

/-- `xpat` (R222, R281): the view and its entries, then collisions, then the pattern. -/
def execXpat (g : Guard) (v : BitVec 5) (lsz : BitVec 2) (k : BitVec 3) (s : State) : Host.Outcome State Fault Refusal :=
  slotOp .s g (fun h => do
    let w ← viewM h .s v false 1
    let n := 256 / 2 ^ lsz.toNat
    needM (w.fmt == 9 && w.rows * w.cols ≥ n) 3 1
    let c ← ctxM h
    let es := (List.range n).map fun i => c.elem w (i / w.cols) (i % w.cols)
    needM (es.all fun e => nfld e 14 8 == 0 && (nfld e 15 15 == 1 || nfld e 7 0 < n)) 3 1
    let ps := es.map fun e => if nfld e 15 15 = 1 then none else some (nfld e 7 0)
    needM (!patClash ps) 8
    latchM h .s 1 [.pat k.toNat { lsz := lsz.toNat, ent := ps }]) s

end Sys2Proof.Machine
end

