-- ==== Sys2Proof/Machine/Branch.lean ====
section
/-! DEFINITION. The B slot (R194 to R212, R228, R229): branches, loops, waits, barriers, the end of a task, and traps
raised by a program. -/

namespace Sys2Proof.Machine

/-- The issue in progress changed. -/
def issM (f : Iss → Iss) : M Unit := updM fun s => { s with iss := s.iss.map f }

/-- The issue in progress, as an operation that runs in it sees it. -/
def getIssM : M Iss := fun s =>
  match s.iss with
  | some i => .ok (i, s)
  | none => .error (.stall 0)

/-- The next bundle set (R166, R194). -/
def jumpM (a : Word) : M Unit := issM fun i => { i with tgt := .addr a }

/-- A relative target: the bundle address plus 4 times the signed immediate (R194). -/
def relTarget (a : Word) (off : BitVec 24) : Word := a + off.signExtend 64 * 4

/-- `nop.b` (R195). -/
def execNopB (g : Guard) (s : State) : Host.Outcome State Fault Refusal := slotOp .b g (fun _ => pure ()) s

/-- A branch on the head of cq, which it pops (R195). -/
def bBranch (sense : Bool) (g : Guard) (off : BitVec 24) (s : State) : Host.Outcome State Fault Refusal :=
  slotOp .b g (fun h => do
    let c ← ctxM h
    let i ← getIssM
    match c.q.cq with
    | [] => blockM .cqEmpty
    | b :: l =>
      modM h fun c => { c with q := { c.q with cq := l } }
      if b = sense then jumpM (relTarget i.addr off) else pure ()) s

def execBrT (g : Guard) (off : BitVec 24) (s : State) := bBranch true g off s
def execBrF (g : Guard) (off : BitVec 24) (s : State) := bBranch false g off s

/-- `jmp` (R195). -/
def execJmp (g : Guard) (off : BitVec 24) (s : State) : Host.Outcome State Fault Refusal :=
  slotOp .b g (fun _ => do
    let i ← getIssM
    jumpM (relTarget i.addr off)) s

/-- `jmpi` (R195): a value that is no multiple of 4 raises the alignment trap. -/
def execJmpi (g : Guard) (b : Opnd) (s : State) : Host.Outcome State Fault Refusal :=
  slotOp .b g (fun h => do
    let x ← rdScalar h b 1
    needM (x.toNat % 4 == 0) 0x13
    jumpM x) s

/-- `bsr` (R196): lr lands after one cycle. -/
def execBsr (g : Guard) (off : BitVec 24) (s : State) : Host.Outcome State Fault Refusal :=
  slotOp .b g (fun h => do
    let i ← getIssM
    latchM h .b 1 [.sreg 0x00D (i.addr + BitVec.ofNat 64 i.size)]
    jumpM (relTarget i.addr off)) s

/-- `ret` (R196). -/
def execRet (g : Guard) (s : State) : Host.Outcome State Fault Refusal :=
  slotOp .b g (fun h => do
    let c ← ctxM h
    jumpM c.sys.lr) s

/-- The next bundle of a loop that runs no iteration (R202): the one after the end bundle, whose header is read; a
header that cannot be read raises its trap at the end bundle after this one. -/
def skipLoop (h : Nat) (le : Word) : M Unit := fun s =>
  match s.fetchHeader h le with
  | (.ok x, s1) => (jumpM (le + BitVec.ofNat 64 x.size) : M Unit) s1
  | (.error e, s1) => (do
      jumpM le
      issM fun i => { i with after := some (fetchTrap e) } : M Unit) s1

/-- The start of a level (R202): its fields, the stage predicates of a rotating one, and the next bundle. -/
def startLoop (h : Nat) (lvl : BitVec 2) (k lk : Word) (rot : Bool) (imm : BitVec 24) : M Unit := do
  let i ← getIssM
  let ls := i.addr + BitVec.ofNat 64 i.size
  let le := (i.addr + BitVec.ofNat 64 (4 * imm.toNat)) &&& 0xFFFFFFFC
  let l : Loop := { lc := k, ls := ls &&& 0xFFFFFFFC, le := le, lk := lk, rot := rot, ord := 0, held := [] }
  latchM h .b 1 (.loopSet lvl.toNat l :: (if rot then [.stages (if lk = 0 then 0 else 1)] else []))
  if k = 0 then skipLoop h le else jumpM ls

/-- `loop` (R202). -/
def execLoop (g : Guard) (lvl : BitVec 2) (n : Opnd) (imm : BitVec 24) (s : State) : Host.Outcome State Fault Refusal :=
  slotOp .b g (fun h => do
    let i ← getIssM
    let k ← rdScalar h n 0
    needM (4 * imm.toNat ≥ i.size) 3 9
    let c ← ctxM h
    startLoop h lvl k (c.loop lvl.toNat).lk false imm) s

/-- `loop.rot` (R202): n + s − 1 iterations, none for n = 0. -/
def execLoopRot (g : Guard) (lvl : BitVec 2) (n sc : Opnd) (imm : BitVec 24) (s : State) :
    Host.Outcome State Fault Refusal :=
  slotOp .b g (fun h => do
    let i ← getIssM
    let x ← rdScalar h n 0
    let y ← rdScalar h sc 1
    needM (4 * imm.toNat ≥ i.size) 3 9
    needM (1 ≤ y.toNat && y.toNat ≤ 8) 3 1
    needM (x == 0 || x.toNat + y.toNat - 1 < 2 ^ 64) 3 0
    startLoop h lvl (if x = 0 then 0 else x + y - 1) x true imm) s

/-- The trap that takes an asynchronous fault record (R230). -/
def asyncM (r : AFault) : M Unit := fun _ =>
  let rs := [(0x024, r.afw0), (0x025, r.afw1)] ++ (match r.plf with | some p => [(0x00C, p)] | none => [])
  let cause := fld r.afw0 7 0
  let rs := if cause = 0x0C ∨ cause = 0x0D then rs ++ [(0x023, 0)] else rs
  Except.error (.trap { cause := cause, info := 0, slot := 0, asy := true, sregs := rs, regs := [], mem := [], blk := none })

/-- Any pending asynchronous fault taken first (R230): the oldest record goes to afw0 and afw1, and to plf where it
holds one, and the bundle takes no effect. -/
def takeAsync (h : Nat) : M Unit := do
  let c ← ctxM h
  match c.trp.fq with
  | [] => pure ()
  | r :: _ => asyncM r

/-- `wait` (R208). -/
def execWait (g : Guard) (imm : BitVec 24) (s : State) : Host.Outcome State Fault Refusal :=
  slotOp .b g (fun h => do
    takeAsync h
    let c ← ctxM h
    if countsBelow c.wc.ld c.wc.st c.wc.cp c.wc.tl imm then pure () else blockM (.counts imm)) s

/-- The fault that a consumed record raises after its bundle, by STATUS (R89). -/
def recFault (r : BitVec 128) : Option Nat :=
  let st := recStatus r
  if st = 3 ∨ st = 5 then some 0x0C else if st = 4 ∨ st = 6 then some 0x0D else none

/-- The register bytes a record's destination receives its words in (R209): a scalar register takes word 0, a view of
FMT 7 or 11 with two or more elements both. -/
def recDst (h : Nat) (sl : Slot) (d : Opnd) : M (List Nat) := do
  match d with
  | .g n => pure [8 * n.toNat]
  | .w n =>
    let v ← viewM h sl n false 0
    needM ((v.fmt == 7 || v.fmt == 11) && v.rows * v.cols ≥ 2) 3 0
    pure [v.addr 0 0, v.addr (1 / v.cols) (1 % v.cols)]
  | _ => trapM 3 0

/-- A record consumed by `evwait` or `join` (R209, R252): its entry is freed, the destination receives it after one
cycle, and a STATUS of 3 to 6 leaves its fault for the end of the bundle. -/
def takeRecord (h : Nat) (sl : Slot) (d : Opnd) (dst : List Nat) (r : BitVec 128) : M Unit := do
  updM fun s => s.consume h r
  let ws := dst.zipIdx.map fun x => Wr.bytes x.1 (toBytes 8 (r.extractLsb' (64 * x.2) 64).toNat)
  latchM h sl 1 ws d.code.toNat
  match recFault r with
  | none => pure ()
  | some cause =>
    modM h fun c => { c with prog := { c.prog with after := c.prog.after.orElse fun _ => some (cause, sl.num) } }

/-- `evwait` (R209). -/
def execEvwait (g : Guard) (d : Opnd) (s : State) : Host.Outcome State Fault Refusal :=
  slotOp .b g (fun h => do
    takeAsync h
    let dst ← recDst h .b d
    let c ← ctxM h
    match c.q.eq with
    | [] => blockM .eqEmpty
    | r :: l =>
      modM h fun c => { c with q := { c.q with eq := l } }
      takeRecord h .b d dst r) s

/-- The contexts that run members of a gang (R96). -/
def State.gangMembers (s : State) (gang : Nat) : List (Nat × Ctx) :=
  s.hw.filter fun x => match x.2.task with | some t => t.gang.map (·.1) == some gang | none => false

/-- Whether a member may pass barrier `id` (R210): every member that has not ended has arrived as often, and the
accesses of those that wait there are performed at `.clu`. -/
def State.barrierOpen (s : State) (h id : Nat) : Bool :=
  match (s.ctx h).task with
  | some t =>
    match t.gang with
    | some (gang, _) =>
      let k := mget 0 (s.ctx h).bars id / 2 + 1
      (s.gangMembers gang).all fun x =>
        let v := mget 0 x.2.bars id
        let passed := v / 2 ≥ k
        let here := x.1 == h || v ≥ 2 * k - 1
        passed || (here && s.allAt x.1 x.2.q.seq 1)
    | none => true
  | none => true

/-- `bar` (R210): outside a gang of two or more, or at level 2 or 3, it raises the illegal-operation trap (R156). -/
def execBar (g : Guard) (id : BitVec 4) (s : State) : Host.Outcome State Fault Refusal :=
  slotOp .b g (fun h => do
    let c ← ctxM h
    let many := match c.task with
      | some t => t.lvl ≤ 1 && (match t.gang with | some (_, n) => n ≥ 2 | none => false)
      | none => false
    needM many 2
    let s ← getM
    if s.barrierOpen h id.toNat then
      modM h fun c => { c with bars := mput 0 c.bars id.toNat (mget 0 c.bars id.toNat / 2 * 2 + 2) }
    else blockM (.barrier id.toNat)) s

/-- `yield` (R211). -/
def execYieldB (g : Guard) (s : State) : Host.Outcome State Fault Refusal :=
  slotOp .b g (fun _ => issM fun i => { i with yield := true }) s

/-- `cqclr` (R195). -/
def execCqclr (g : Guard) (s : State) : Host.Outcome State Fault Refusal :=
  slotOp .b g (fun h => modM h fun c => { c with q := { c.q with cq := [] } }) s

/-- The issue finished within the operation that ends its bundle. -/
def finishM : M Iss := fun s =>
  match s.iss with
  | some i => .ok (i, s.finish i)
  | none => .error (.stall 0)

/-- Whether a call or spawn of a context has not reached DONE (R89). -/
def State.openCalls (s : State) (h : Nat) : Bool := (s.liveCalls h).any fun e => e.st != .done

/-- A context that has issued `done` blocks while a call of it has not reached DONE (R89): the issue stage goes to the others. -/
def State.awaitCalls (s : State) (h : Nat) : State :=
  if s.openCalls h then
    (s.modCtx h fun c => { c with st := .blocked, why := some .calls, stamp := s.clk.wall }).modCore (coreOf h) fun k => { k with holder := none }
  else s

/-- `done` (R212): after the last issue the context issues no further bundle, and the task ends by TASK_END once R138
and R89 hold. A fault left by a record of this bundle ends the task abnormally, as a pending one does. -/
def execDone (g : Guard) (s : State) : Host.Outcome State Fault Refusal :=
  slotOp .b g (fun h => do
    let c ← ctxM h
    let i ← getIssM
    updM fun s => s.retire i
    updM fun s => (s.endTask h (if (i.following c).isSome then 1 else 0)).awaitCalls h) s

/-- `trap` (R229): the software trap, taken after the bundle. Where a `join` of the bundle has consumed a record whose STATUS raises
a fault after the same bundle (R89), the spec does not say which of the two is taken: DESIGN CHOICE, the software trap; the record's
fault is not raised; assumption log 115. -/
def execTrap (g : Guard) (code : BitVec 24) (s : State) : Host.Outcome State Fault Refusal :=
  slotOp .b g (fun h => do
    modM h fun c => { c with prog := { c.prog with after := none } }
    issM fun i => { i with after := some { cause := 0x20, info := code.toNat, slot := 0, asy := false, sregs := [],
                                           regs := [], mem := [], blk := none } }
    let _ ← finishM) s

/-- `brk` (R229, R376): a debug stop after the bundle where a breakpoint is enabled, else nothing. -/
def execBrk (g : Guard) (code : BitVec 24) (s : State) : Host.Outcome State Fault Refusal :=
  slotOp .b g (fun h => do
    let c ← ctxM h
    let _ ← finishM
    if c.breakArmed then updM fun s => s.debugStop h 3 code.toNat else pure ()) s

/-- `eret` (R228): outside a handler it raises the illegal-operation trap; otherwise, after the bundle, the set-aside
state returns and the next bundle is at tpc. -/
def execEret (g : Guard) (s : State) : Host.Outcome State Fault Refusal :=
  slotOp .b g (fun h => do
    let c ← ctxM h
    needM (bitOf c.trp.tcs 31) 2
    issM fun i => { i with tgt := .addr c.trp.tpc }
    let i ← getIssM
    updM fun s => s.retire i
    modM h Ctx.leaveHandler
    match i.following c with
    | none => pure ()
    | some t => updM fun s => s.trapAfter i (s.ctx h).prog.idx t) s

end Sys2Proof.Machine
end

