-- ==== Sys2Proof/Machine/MemOps.lean ====
section
/-! DEFINITION. The M slot (R232 to R246, R249): loads, stores, block transfers, tags, atomics, remote accesses,
markers, fences, prefetch and waits on a value. -/

namespace Sys2Proof.Machine

/-! Entering the queues (R124, R207, R150). -/

/-- The places of a queue and the highest count of a wait class. -/
def queueDepth : Nat := 32
def classMax : Nat := 63

/-- A load counted, or a stall while its class or queue is full. -/
def countLd (h : Nat) : M Unit := do
  let c ← ctxM h
  if c.wc.ld ≥ classMax || c.q.lq.length ≥ queueDepth then stallM 5
  else modM h fun c => { c with wc := { c.wc with ld := c.wc.ld + 1 } }

/-- A store counted, or a stall while its class or queue is full. -/
def countSt (h : Nat) : M Unit := do
  let c ← ctxM h
  if c.wc.st ≥ classMax || c.q.sq.length ≥ queueDepth then stallM 5
  else modM h fun c => { c with wc := { c.wc with st := c.wc.st + 1 } }

/-- A remote write behind one held at the egress stalls (R139, R150). -/
def heldM (h : Nat) : M Unit := do
  let c ← ctxM h
  let held := c.q.sq.any fun a => match a.kind with | .remote _ _ b => b | _ => false
  if held then stallM 7 else pure ()

/-- The events that move an entry on: one for each piece, or one for an entry of packets alone. -/
def schedAcc (h : Nat) (a : Acc) : M Unit :=
  updM fun s => (List.range (max 1 a.ps.length)).foldl (fun s k => s.sched 1 (.memoryAccessPerform h a.tok k)) s

/-- A load put into the load queue with its latch (R124, R235); `conv` is the placement index whose conversion it waits for (R120). -/
def enqLoad (h : Nat) (ps : List Piece) (kind : AccKind) (acq : Option Nat) (fin : LoadFin) (lat code : Nat)
    (conv : Option Nat := none) : M Unit := do
  countLd h
  let seq ← seqM h
  let tok ← latchAs h .m lat [] code false false
  let a : Acc := { tok := tok, seq := seq, kind := kind, acq := acq, rel := none, conv := conv, ps := ps }
  modM h fun c => { c with q := { c.q with lq := c.q.lq ++ [a], pend := c.q.pend ++ [{ tok := tok, fin := fin }] } }
  schedAcc h a

/-- A store put into the store queue (R124). -/
def enqStore (h : Nat) (ps : List Piece) (kind : AccKind) (rel : Option Nat) : M Unit := do
  countSt h
  let seq ← seqM h
  let s ← getM
  updM State.bump
  let a : Acc := { tok := s.clk.tick, seq := seq, kind := kind, acq := none, rel := rel, conv := none, ps := ps }
  modM h fun c => { c with q := { c.q with sq := c.q.sq ++ [a] } }
  schedAcc h a

/-! Paths, formats and latencies (R233 to R236). -/

/-- The box and the path of an M-slot operation at this issue. -/
def boxM (h : Nat) (path : Path) : M (Desc × RPath) := do
  let p ← pathM h path
  let c ← ctxM h
  pure (c.box p.slot, p)

/-- Check 2 of R234 for a local operation on a scalar element of a raw format. -/
def localRaw (h : Nat) (b : Desc) (p : RPath) : M Unit := do
  let s ← getM
  let c ← ctxM h
  needM (fmtRaw b.fmt && ownMesh s c p) 2

/-- Check 2 of R234 for a local operation of any format. -/
def localAny (h : Nat) (p : RPath) : M Unit := do
  let s ← getM
  let c ← ctxM h
  needM (ownMesh s c p) 2

/-- The load latency of R235 for G granules. -/
def loadLat (lvl gran : Nat) : Nat :=
  let (l, r) := if lvl = 0 then (6, 16) else if lvl = 1 then (24, 1) else (380, 4)
  l + cdiv gran r - 1

/-- The latency of the read side of a local atomic (R235). -/
def atomLat (lvl : Nat) : Nat := if lvl ≤ 1 then 8 else 400

/-- The landing latency of a remote read of G granules (R235). -/
def farLat (gran : Nat) : Nat := 2400 + gran - 1

/-- Whether a load of a format extends the top bit (R236). -/
def extTop (f : Nat) : Bool := fmtInt f

/-- The low bytes of a scalar value. -/
def lowBytes (v : Word) (n : Nat) : List Byte := toBytes n v.toNat

/-! Scalar loads and stores (R237). -/

/-- A scalar load, plain or as an acquire. -/
def mLoad (acq : Option Nat) (g : Guard) (d : BitVec 5) (path : Path) (s : State) : Host.Outcome State Fault Refusal :=
  slotOp .m g (fun h => do
    let (b, p) ← boxM h path
    localRaw h b p
    let l ← accessM h b p 1 1 false true
    let s ← getM
    enqLoad h l.flatten .load acq (.scalar d (fmtBytes b.fmt) (extTop b.fmt)) (loadLat b.level 1) d.toNat (s.convOf (s.ctx h) b)) s

def execLd (g : Guard) (d : BitVec 5) (path : Path) (s : State) := mLoad none g d path s
def execLdAcq (g : Guard) (sc : BitVec 3) (d : BitVec 5) (path : Path) (s : State) := mLoad (some sc.toNat) g d path s

/-- A scalar store, plain or as a release. -/
def mStore (rel : Option Nat) (g : Guard) (a : Opnd) (path : Path) (s : State) : Host.Outcome State Fault Refusal :=
  slotOp .m g (fun h => do
    let v ← rdScalar h a 0
    let (b, p) ← boxM h path
    localRaw h b p
    let l ← accessM h b p 1 1 true true
    let ps := l.flatten.map fun x => { x with data := lowBytes v (fmtBytes b.fmt) }
    enqStore h ps .store rel) s

def execSt (g : Guard) (a : Opnd) (path : Path) (s : State) := mStore none g a path s
def execStRel (g : Guard) (sc : BitVec 3) (a : Opnd) (path : Path) (s : State) := mStore (some sc.toNat) g a path s

/-! View loads and stores (R237). -/

/-- Bytes that a run of a view's row occupies in register space: elements of a raw format, or whole blocks (R36). -/
def runLen (fmt run : Nat) : Nat := if fmtTagged fmt then 64 * cdiv run (fmtPer fmt) else run * fmtBytes fmt

/-- The register runs of the active lanes, row by row. -/
def viewRuns (v : View) (run rows : Nat) : List (Nat × Nat) :=
  (List.range rows).map fun k => (v.gran k 0 * 64, runLen v.fmt run)

/-- The register granules whose every element is an active lane moved to or from one granule of the box: each with
its row and its place in the row. -/
def wholeGrans (fmt : Nat) (c0 : Int) (run rows : Nat) : List (Nat × Nat) :=
  if c0 % (fmtPer fmt : Nat) ≠ 0 then []
  else (List.range rows).flatMap fun k => (List.range (run / fmtPer fmt)).map fun j => (k, j)

/-- The tail lanes of a view under a grant of `run` columns and `rows` rows, as bytes and bit counts (R59). -/
def tailBits (v : View) (run rows : Nat) : List (Nat × Nat) :=
  let per := fmtPer v.fmt
  (List.range v.rows).flatMap fun k =>
    let from' := if k < rows then run else 0
    (List.range v.w).flatMap fun j =>
      let lo := max from' (j * per)
      let hi := min v.cols ((j + 1) * per)
      if lo ≥ hi then []
      else if fmtTagged v.fmt then [(v.gran k (j * per) * 64, (hi - j * per) * fmtBits v.fmt)]
      else [(v.addr k lo, (hi - lo) * fmtBits v.fmt)]

/-- Whether a view access of a tagged class moves whole blocks (R233). -/
def blockAligned (fmt : Nat) (c0 : Int) (run : Nat) : Bool :=
  !fmtTagged fmt || (run % fmtPer fmt == 0 && c0 % (fmtPer fmt : Nat) == 0)

/-- The run and the rows of a view access (R233). -/
def grantOf (c : Ctx) (v : View) : Nat × Nat := (min v.cols (grantCols c), min v.rows (grantRows c))

/-- Whether the grant moves nothing, so that a view access checks nothing (R233). -/
def noGrant (c : Ctx) : Bool := grantCols c == 0 || grantRows c == 0

/-- How a view load lands: register runs, tags, tail lanes zeroed under TP, and the columns of `ldff`. -/
def viewFin (v : View) (c : Ctx) (c0 : Int) (run rows perRow : Nat) (cols : Option Nat) : LoadFin :=
  .view (viewRuns v run rows)
    ((wholeGrans v.fmt c0 run rows).map fun (k, j) => (v.gran k (j * fmtPer v.fmt), k * perRow + j))
    (if bitOf c.sys.sh 21 then tailBits v run rows else []) cols

/-- A view load, plain or as an acquire. -/
def mLoadView (acq : Option Nat) (g : Guard) (w : BitVec 5) (path : Path) (s : State) :
    Host.Outcome State Fault Refusal :=
  slotOp .m g (fun h => do
    let c ← ctxM h
    if noGrant c then pure ()
    else
      let v ← viewM h .m w false 0
      let (b, p) ← boxM h path
      needM (v.fmt == b.fmt) 3 0
      localAny h p
      let (run, rows) := grantOf c v
      let c0 := p.crd.getD 0 0
      let l ← accessM h b p run rows false (blockAligned b.fmt c0 run)
      let per := (l.headD []).length
      let s ← getM
      enqLoad h l.flatten .load acq (viewFin v c c0 run rows per none) (loadLat b.level l.flatten.length) (32 + w.toNat)
        (s.convOf c b)) s

def execLdv (g : Guard) (v : BitVec 5) (path : Path) (s : State) := mLoadView none g v path s
def execLdvAcq (g : Guard) (sc : BitVec 3) (v : BitVec 5) (path : Path) (s : State) :=
  mLoadView (some sc.toNat) g v path s

/-- Pieces given consecutive bytes of a run of data. -/
def fillPieces : List Piece → List Byte → List Piece
  | [], _ => []
  | p :: ps, bs => { p with data := bs.take p.n } :: fillPieces ps (bs.drop p.n)

/-- The pieces of a view store with their data, and the tags of granules written whole (R237). -/
def storePieces (c : Ctx) (v : View) (c0 : Int) (run : Nat) (l : List (List Piece)) : List Piece :=
  (l.zipIdx).flatMap fun (ps, k) =>
    let ps := fillPieces ps (c.rsBytes (v.gran k 0 * 64) (runLen v.fmt run))
    ps.zipIdx.map fun (p, j) =>
      if c0 % (fmtPer v.fmt : Nat) = 0 ∧ p.n = 64 then { p with tag := some (c.rtag (v.gran k (j * fmtPer v.fmt))) } else p

/-- A view store, plain or as a release. -/
def mStoreView (rel : Option Nat) (g : Guard) (w : BitVec 5) (path : Path) (s : State) :
    Host.Outcome State Fault Refusal :=
  slotOp .m g (fun h => do
    let c ← ctxM h
    if noGrant c then pure ()
    else
      let v ← viewM h .m w false 0
      let (b, p) ← boxM h path
      needM (v.fmt == b.fmt) 3 0
      localAny h p
      let (run, rows) := grantOf c v
      let c0 := p.crd.getD 0 0
      let l ← accessM h b p run rows true (blockAligned b.fmt c0 run)
      enqStore h (storePieces c v c0 run l) .store rel) s

def execStv (g : Guard) (v : BitVec 5) (path : Path) (s : State) := mStoreView none g v path s
def execStvRel (g : Guard) (sc : BitVec 3) (v : BitVec 5) (path : Path) (s : State) :=
  mStoreView (some sc.toNat) g v path s

/-! First-fault loads (R238). -/

/-- Whether elements from `off` on, `n` of them, pass checks 3 and 6 of R234. -/
def State.unitOk (s : State) (h : Nat) (b : Desc) (p : RPath) (off n : Nat) : Bool :=
  let q : RPath := { p with crd := (p.crd.getD 0 0 + (off : Int)) :: p.crd.drop 1 }
  match boundsAll s (s.ctx h) b q n 1 false with
  | .error _ => false
  | .ok _ => (match (s.runPieces h b q.crd n false).1 with | .ok _ => true | .error _ => false)

/-- `ldff` (R238). -/
def execLdff (g : Guard) (w : BitVec 5) (path : Path) (s : State) : Host.Outcome State Fault Refusal :=
  slotOp .m g (fun h => do
    let c ← ctxM h
    needM (grantRows c == 1) 3 0
    if grantCols c = 0 then pure ()
    else
      let v ← viewM h .m w false 0
      let (b, p) ← boxM h path
      needM (v.fmt == b.fmt) 3 0
      localAny h p
      let m := min v.cols (grantCols c)
      let c0 := p.crd.getD 0 0
      let unit := if fmtTagged b.fmt then fmtPer b.fmt else 1
      if !blockAligned b.fmt c0 m then
        let _ ← accessM h b p unit 1 false false
      else
        let s ← getM
        let k := unit * ((List.range (m / unit)).takeWhile fun j => s.unitOk h b p (unit * j) unit).length
        let l ← accessM h b p (max unit k) 1 false true
        let cols := if k < m then some k else none
        enqLoad h l.flatten .load none (viewFin v c c0 k 1 (l.headD []).length cols) (loadLat b.level l.flatten.length)
          (32 + w.toNat) (s.convOf c b)) s

/-! Block spill and fill (R239). -/

/-- Rows checked one by one in ascending order: the rows that pass with their pieces, and the first failure. -/
def blkRows (h : Nat) (b : Desc) (p : RPath) (run : Nat) (wr aligned : Bool) :
    List Nat → State → List (Nat × List Piece) × Option (Nat × Stop) × State
  | [], s => ([], none, s)
  | k :: ks, s =>
    match accessM h b { p with crd := p.rowAt k } run 1 wr aligned s with
    | .error e => ([], some (k, e), s)
    | .ok (l, s1) =>
      let (rs, e, s2) := blkRows h b p run wr aligned ks s1
      ((k, l.flatten) :: rs, e, s2)

/-- The row at which a block transfer starts: its progress at this address and index, else 0. -/
def blkStart (c : Ctx) (addr : Word) : Nat :=
  match c.prog.blk with
  | some (a, i, r) => if a = addr.toNat ∧ i = c.prog.idx then r else 0
  | none => 0

/-- The results of block rows that were read before a later row failed: bytes and tags of register granules. -/
def blkWrs (v : View) : List (Nat × List Piece) → List Wr
  | [] => []
  | (k, ps) :: rs =>
    (ps.zipIdx.flatMap fun (p, j) =>
      let gr := v.base + v.stride * k + j
      [Wr.bytes (gr * 64) p.data, Wr.tag gr (p.tag.getD 0)]) ++ blkWrs v rs

/-- Pieces read at once, in order. -/
def State.takeAll (s : State) (c : Ctx) : List (Nat × List Piece) → List (Nat × List Piece) × State
  | [] => ([], s)
  | (k, ps) :: rs =>
    let (qs, s1) := ps.foldl (fun (a : List Piece × State) p => let (q, s') := a.2.takePiece c c.q.seq p; (a.1 ++ [q], s')) ([], s)
    let (l, s2) := s1.takeAll c rs
    ((k, qs) :: l, s2)

/-- The stop of a block transfer at a row: the trap with what the rows before it left (R239). It waits until those
rows can be performed. -/
def blkStop (h : Nat) (addr : Word) (v : View) (wr : Bool) (rs : List (Nat × List Piece)) (k : Nat) (e : Stop) : M Unit := do
  let c ← ctxM h
  let s ← getM
  let a : Acc := { tok := s.clk.tick, seq := c.q.seq, kind := .load, acq := none, rel := none, conv := none, ps := [] }
  let ps := rs.flatMap (·.2)
  let free := ps.all fun p => if wr then s.mayLeave h c a p && s.pathClear h (homeOf p.pl) else s.mayLoad h c a p
  match e with
  | .trap t =>
    if !free then stallM 1
    else if (s.touchAll (ps.map (·.pl))).1 ≠ 0 then lateM (ps.map (·.pl))
    else
      let blk := some (addr.toNat, c.prog.idx, k)
      if wr then fun _ => .error (.trap { t with mem := ps, blk := blk })
      else fun _ => .error (.trap { t with regs := blkWrs v (s.takeAll c rs).1, blk := blk })
  | e => fun _ => .error e

/-- The view, box, path and rows of a block transfer. -/
def blkM (h : Nat) (w : BitVec 5) (path : Path) (wr : Bool) : M (View × Desc × List (Nat × List Piece)) := do
  let v ← viewM h .m w false 0
  let (b, p) ← boxM h path
  localAny h p
  let c ← ctxM h
  let i ← getIssM
  let aligned := (p.crd.getD 0 0) % (fmtPer b.fmt : Nat) == 0
  let rows := (List.range v.rows).drop (blkStart c i.addr)
  let s ← getM
  let (rs, e, s') := blkRows h b p (v.w * fmtPer b.fmt) wr aligned rows s
  match e with
  | none => updM fun _ => s'
  | some (k, e) =>
    if wr then pure () else convStall h b
    blkStop h i.addr v wr (if wr then rs.map fun (k, ps) => (k, blkFill c v k ps) else rs) k e
  pure (v, b, rs)
where
  /-- The pieces of a stored row with their bytes and tags. -/
  blkFill (c : Ctx) (v : View) (k : Nat) (ps : List Piece) : List Piece :=
    ps.zipIdx.map fun (p, j) =>
      let gr := v.base + v.stride * k + j
      { p with data := c.rsBytes (gr * 64) 64, tag := some (c.rtag gr) }

/-- `ldblk` (R239). -/
def execLdblk (g : Guard) (w : BitVec 5) (path : Path) (s : State) : Host.Outcome State Fault Refusal :=
  slotOp .m g (fun h => do
    let (v, b, rs) ← blkM h w path false
    let runs := rs.map fun (k, _) => ((v.base + v.stride * k) * 64, 64 * v.w)
    let tags := rs.zipIdx.flatMap fun ((k, ps), n) =>
      (List.range ps.length).map fun j => (v.base + v.stride * k + j, n * v.w + j)
    let ps := rs.flatMap (·.2)
    let s ← getM
    enqLoad h ps .load none (.view runs tags [] none) (loadLat b.level (max 1 ps.length)) (32 + w.toNat) (s.convOf (s.ctx h) b)) s

/-- `stblk` (R239). -/
def execStblk (g : Guard) (w : BitVec 5) (path : Path) (s : State) : Host.Outcome State Fault Refusal :=
  slotOp .m g (fun h => do
    let (v, _, rs) ← blkM h w path true
    let c ← ctxM h
    enqStore h (rs.flatMap fun (k, ps) => blkM.blkFill c v k ps) .store none) s

/-! Tags (R240). -/

/-- The piece of the granule that holds a path's element, after checks 3, 5 and 6 of R234. -/
def granM (h : Nat) (b : Desc) (p : RPath) (wr : Bool) : M (List Piece) := do
  let _ ← accessM h b p 1 1 wr true
  let c (i : Nat) : Nat := (p.crd.getD i 0).toNat
  runBad fun s => s.piecesOf h b wr [(b.granLoc (c 0) (c 1) (c 2) (c 3), 64)]

/-- `ldtag` (R240). -/
def execLdtag (g : Guard) (d : BitVec 5) (path : Path) (s : State) : Host.Outcome State Fault Refusal :=
  slotOp .m g (fun h => do
    let (b, p) ← boxM h path
    localAny h p
    let ps ← granM h b p false
    let s ← getM
    enqLoad h ps .tagLoad none (.tag d) (loadLat b.level 1) d.toNat (s.convOf (s.ctx h) b)) s

/-- `sttag` (R240): the tag alone. -/
def execSttag (g : Guard) (a : Opnd) (path : Path) (s : State) : Host.Outcome State Fault Refusal :=
  slotOp .m g (fun h => do
    let v ← rdScalar h a 0
    let (b, p) ← boxM h path
    localAny h p
    let ps ← granM h b p true
    enqStore h (ps.map fun x => { x with n := 0, tag := some (v.setWidth 16) }) .tagStore none) s

/-! Atomics (R241). -/

/-- The formats an atomic accepts: `swap` and `cas` every raw format of 4 or 8 bytes, the others integers of those
sizes. -/
def atomFmt (op fmt : Nat) : Bool :=
  fmtRaw fmt && (fmtBytes fmt == 4 || fmtBytes fmt == 8) && (op ≥ 8 || fmtInteger fmt)

/-- What an atomic stores, from the element and its operands (R241). -/
def atomNew (op sz old v cmp : Nat) : Nat :=
  let bits := 8 * sz
  let v := v % 2 ^ bits
  match op with
  | 0 => (old + v) % 2 ^ bits
  | 1 => old &&& v
  | 2 => old ||| v
  | 3 => old ^^^ v
  | 4 => if toSigned bits v < toSigned bits old then v else old
  | 5 => if toSigned bits old < toSigned bits v then v else old
  | 6 => min old v
  | 7 => max old v
  | 8 => v
  | _ => if old = v then cmp % 2 ^ bits else old

/-- The operands of an atomic: the register, and for `cas` the new value in the next one, whose register is even and
not g0 (R241). -/
def atomArgs (h op : Nat) (a : BitVec 5) : M (Word × Word) := do
  needM (op != 9 || (a.toNat % 2 == 0 && a != 0)) 3 0
  let c ← ctxM h
  pure (c.g a, if op = 9 then c.g (a + 1) else 0)

/-- Acquire and release sides by the form (R241): 1 `.acq`, 2 `.rel`, 3 `.ar`. -/
def sideAcq (ord : BitVec 2) (sc : Nat) : Option Nat := if ord.getLsbD 0 then some sc else none
def sideRel (ord : BitVec 2) (sc : Nat) : Option Nat := if ord.getLsbD 1 then some sc else none

/-- An atomic put into both queues with its latch. -/
def enqAtomic (h : Nat) (ps qs : List Piece) (kl ks : AccKind) (acq rel : Option Nat) (fin : LoadFin) (lat code : Nat) :
    M Unit := do
  countLd h
  countSt h
  let seq ← seqM h
  let tok ← latchAs h .m lat [] code false false
  let a : Acc := { tok := tok, seq := seq, kind := kl, acq := acq, rel := none, conv := none, ps := ps }
  let b : Acc := { tok := tok, seq := seq, kind := ks, acq := none, rel := rel, conv := none, ps := qs }
  modM h fun c => { c with q := { c.q with lq := c.q.lq ++ [a], sq := c.q.sq ++ [b],
                                           pend := c.q.pend ++ [{ tok := tok, fin := fin }] } }
  schedAcc h b

/-- A local atomic. -/
def mAtom (op : Nat) (g : Guard) (ord : BitVec 2) (sc : BitVec 3) (a : BitVec 5) (path : Path) (s : State) :
    Host.Outcome State Fault Refusal :=
  slotOp .m g (fun h => do
    let (v, w) ← atomArgs h op a
    let (b, p) ← boxM h path
    let st ← getM
    let c ← ctxM h
    needM (atomFmt op b.fmt && ownMesh st c p) 2
    let l ← accessM h b p 1 1 true true
    let k := AccKind.atomic op v w
    enqAtomic h l.flatten l.flatten k k (sideAcq ord sc.toNat) (sideRel ord sc.toNat)
      (.scalar a (fmtBytes b.fmt) (extTop b.fmt)) (atomLat b.level) a.toNat) s

def execAtomAdd (g : Guard) (ord : BitVec 2) (sc : BitVec 3) (a : BitVec 5) (path : Path) (s : State) := mAtom 0 g ord sc a path s
def execAtomAnd (g : Guard) (ord : BitVec 2) (sc : BitVec 3) (a : BitVec 5) (path : Path) (s : State) := mAtom 1 g ord sc a path s
def execAtomOr (g : Guard) (ord : BitVec 2) (sc : BitVec 3) (a : BitVec 5) (path : Path) (s : State) := mAtom 2 g ord sc a path s
def execAtomXor (g : Guard) (ord : BitVec 2) (sc : BitVec 3) (a : BitVec 5) (path : Path) (s : State) := mAtom 3 g ord sc a path s
def execAtomMin (g : Guard) (ord : BitVec 2) (sc : BitVec 3) (a : BitVec 5) (path : Path) (s : State) := mAtom 4 g ord sc a path s
def execAtomMax (g : Guard) (ord : BitVec 2) (sc : BitVec 3) (a : BitVec 5) (path : Path) (s : State) := mAtom 5 g ord sc a path s
def execAtomMinn (g : Guard) (ord : BitVec 2) (sc : BitVec 3) (a : BitVec 5) (path : Path) (s : State) := mAtom 6 g ord sc a path s
def execAtomMaxn (g : Guard) (ord : BitVec 2) (sc : BitVec 3) (a : BitVec 5) (path : Path) (s : State) := mAtom 7 g ord sc a path s
def execAtomSwap (g : Guard) (ord : BitVec 2) (sc : BitVec 3) (a : BitVec 5) (path : Path) (s : State) := mAtom 8 g ord sc a path s
def execAtomCas (g : Guard) (ord : BitVec 2) (sc : BitVec 3) (a : BitVec 5) (path : Path) (s : State) := mAtom 9 g ord sc a path s

/-! Remote access (R242, R243, R246). -/

/-- The conditions of R242: a level-3 task, a system box and a mesh selector. -/
def farCheck (h : Nat) (b : Desc) (p : RPath) (fmtOk : Bool) : M Unit := do
  let c ← ctxM h
  needM (fmtOk && c.lvl == 3 && b.level == 3 && p.mesh.isSome) 2

/-- Checks 3 and 4 of R234 against the shard at the named coordinate (R243). -/
def farBounds (h : Nat) (b : Desc) (p : RPath) (run rows : Nat) (wr aligned : Bool) : M Unit := do
  let c ← ctxM h
  let s ← getM
  liftM' (boundsAll s c b p run rows wr false)
  needM aligned 0x13

/-- The peer and the device of a mesh coordinate, from the mesh table (R102, R346). -/
def DCtx.peerOf (d : DCtx) (m : Word) : Nat × Nat :=
  let e := mget 0 d.mtab (meshIndex d.msh m)
  (nfld e 10 0, nfld e 13 11)

/-- The peer of a path's coordinate; one that is not present raises the peer-absent trap (R243). -/
def peerM (h : Nat) (m : Word) : M (Nat × Nat) := do
  let s ← getM
  let c ← ctxM h
  let q := (s.taskDc c).peerOf m
  needM (s.peerUp q.1) 0x0F
  pure q

/-- A packet of a context toward a device, with the fields of R335 that do not depend on its type. -/
def farPkt (s : State) (h ty : Nat) (peer : Nat × Nat) (b : Desc) (va : Nat) : Pkt :=
  let c := s.ctx h
  let (d, x) := match c.task with | some t => (t.dev, t.dctx) | none => (0, 0)
  { Pkt.zero with ty := ty, src := s.net.fpeer, ssub := d, dst := peer.1, dsub := peer.2, ctx := x, key := b.key, va := va }

/-- The pieces that stand for the bytes of a remote access, row by row, each within a granule. -/
def farPieces (s : State) (h : Nat) (peer : Nat × Nat) (b : Desc) (p : RPath) (run rows : Nat) : List (List Piece) :=
  (List.range rows).map fun k =>
    let (loc, n) := runBytes b (p.rowAt k) run
    s.pktPieces (s.ctx h) { Pkt.zero with dst := peer.1, dsub := peer.2, va := loc, len := n, key := b.key }

/-- The request packets of a remote read, one for each row, each naming by OPA the first piece its data fill. -/
def readPkts (s : State) (h : Nat) (peer : Nat × Nat) (b : Desc) (p : RPath) (run rows perRow : Nat) : List Pkt :=
  (List.range rows).map fun k =>
    let (loc, n) := runBytes b (p.rowAt k) run
    { farPkt s h 2 peer b loc with len := n, opa := BitVec.ofNat 64 (k * perRow) }

/-- `ldr` (R242). -/
def execLdr (g : Guard) (acq : BitVec 1) (d : Opnd) (path : Path) (s : State) : Host.Outcome State Fault Refusal :=
  slotOp .m g (fun h => do
    let c ← ctxM h
    let aq : Option Nat := if acq = 1 then some 4 else none
    match d with
    | .w n =>
      if noGrant c then pure ()
      else
        let v ← viewM h .m n false 0
        let (b, p) ← boxM h path
        needM (v.fmt == b.fmt) 3 0
        farCheck h b p true
        let (run, rows) := grantOf c v
        let c0 := p.crd.getD 0 0
        farBounds h b p run rows false (blockAligned b.fmt c0 run)
        let peer ← peerM h (p.mesh.getD 0)
        let st ← getM
        let l := farPieces st h peer b p run rows
        let per := (l.headD []).length
        enqLoad h l.flatten (.remote (readPkts st h peer b p run rows per) b.place false) aq
          (viewFin v c c0 run rows per none) (farLat l.flatten.length) d.code.toNat
    | .g n =>
      let (b, p) ← boxM h path
      farCheck h b p (fmtRaw b.fmt)
      farBounds h b p 1 1 false true
      let peer ← peerM h (p.mesh.getD 0)
      let st ← getM
      let l := farPieces st h peer b p 1 1
      enqLoad h l.flatten (.remote (readPkts st h peer b p 1 1 1) b.place false) aq
        (.scalar n (fmtBytes b.fmt) (extTop b.fmt)) (farLat 1) d.code.toNat
    | _ => trapM 3 0) s

/-- The write packets of a view, one for each row (R139, R237). -/
def viewPkts (s : State) (h : Nat) (peer : Nat × Nat) (b : Desc) (p : RPath) (v : View) (run rows : Nat) : List Pkt :=
  let c := s.ctx h
  let c0 := p.crd.getD 0 0
  (List.range rows).map fun k =>
    let (loc, n) := runBytes b (p.rowAt k) run
    let tags := (cutGran loc n (n / 64 + 2)).zipIdx.map fun (x, j) =>
      if c0 % (fmtPer v.fmt : Nat) = 0 ∧ x.2 = 64 then some (c.rtag (v.gran k (j * fmtPer v.fmt))) else none
    { farPkt s h 1 peer b loc with len := n, data := c.rsBytes (v.gran k 0 * 64) (runLen v.fmt run), tags := tags }

/-- The write packet of one element. -/
def scalarPkt (s : State) (h ty : Nat) (peer : Nat × Nat) (b : Desc) (p : RPath) (v : Word) : Pkt :=
  let (loc, n) := runBytes b p.crd 1
  { farPkt s h ty peer b loc with len := n, data := lowBytes v n, tags := [none] }

/-- `str` (R242). -/
def execStr (g : Guard) (rel : BitVec 1) (a : Opnd) (path : Path) (s : State) : Host.Outcome State Fault Refusal :=
  slotOp .m g (fun h => do
    let c ← ctxM h
    let rl : Option Nat := if rel = 1 then some 4 else none
    match a with
    | .w n =>
      if noGrant c then pure ()
      else
        let v ← viewM h .m n false 0
        let (b, p) ← boxM h path
        needM (v.fmt == b.fmt) 3 0
        farCheck h b p true
        let (run, rows) := grantOf c v
        farBounds h b p run rows true (blockAligned b.fmt (p.crd.getD 0 0) run)
        let peer ← peerM h (p.mesh.getD 0)
        heldM h
        let st ← getM
        enqStore h [] (.remote (viewPkts st h peer b p v run rows) b.place false) rl
    | a =>
      let x ← rdScalar h a 0
      let (b, p) ← boxM h path
      farCheck h b p (fmtRaw b.fmt)
      farBounds h b p 1 1 true true
      let peer ← peerM h (p.mesh.getD 0)
      heldM h
      let st ← getM
      enqStore h [] (.remote [scalarPkt st h 1 peer b p x] b.place false) rl) s

/-- A remote atomic. -/
def mAtomr (op : Nat) (g : Guard) (ord : BitVec 2) (a : BitVec 5) (path : Path) (s : State) :
    Host.Outcome State Fault Refusal :=
  slotOp .m g (fun h => do
    let (v, w) ← atomArgs h op a
    let (b, p) ← boxM h path
    farCheck h b p (atomFmt op b.fmt)
    farBounds h b p 1 1 true true
    let peer ← peerM h (p.mesh.getD 0)
    heldM h
    let st ← getM
    let k := { scalarPkt st h 4 peer b p v with opa := v, opb := w, op := op }
    enqAtomic h (farPieces st h peer b p 1 1).flatten [] (.remote [] b.place false) (.remote [k] b.place false)
      (sideAcq ord 4) (sideRel ord 4) (.scalar a (fmtBytes b.fmt) (extTop b.fmt)) (farLat 1) a.toNat) s

def execAtomrAdd (g : Guard) (ord : BitVec 2) (a : BitVec 5) (path : Path) (s : State) := mAtomr 0 g ord a path s
def execAtomrAnd (g : Guard) (ord : BitVec 2) (a : BitVec 5) (path : Path) (s : State) := mAtomr 1 g ord a path s
def execAtomrOr (g : Guard) (ord : BitVec 2) (a : BitVec 5) (path : Path) (s : State) := mAtomr 2 g ord a path s
def execAtomrXor (g : Guard) (ord : BitVec 2) (a : BitVec 5) (path : Path) (s : State) := mAtomr 3 g ord a path s
def execAtomrMin (g : Guard) (ord : BitVec 2) (a : BitVec 5) (path : Path) (s : State) := mAtomr 4 g ord a path s
def execAtomrMax (g : Guard) (ord : BitVec 2) (a : BitVec 5) (path : Path) (s : State) := mAtomr 5 g ord a path s
def execAtomrMinn (g : Guard) (ord : BitVec 2) (a : BitVec 5) (path : Path) (s : State) := mAtomr 6 g ord a path s
def execAtomrMaxn (g : Guard) (ord : BitVec 2) (a : BitVec 5) (path : Path) (s : State) := mAtomr 7 g ord a path s
def execAtomrSwap (g : Guard) (ord : BitVec 2) (a : BitVec 5) (path : Path) (s : State) := mAtomr 8 g ord a path s
def execAtomrCas (g : Guard) (ord : BitVec 2) (a : BitVec 5) (path : Path) (s : State) := mAtomr 9 g ord a path s

/-- `rfence` (R246): the fence packet of R139, its flag an integer of 4 or 8 bytes. It takes a place in both queues (R124). -/
def execRfence (g : Guard) (a : Opnd) (path : Path) (s : State) : Host.Outcome State Fault Refusal :=
  slotOp .m g (fun h => do
    let x ← rdScalar h a 0
    let (b, p) ← boxM h path
    farCheck h b p (fmtInteger b.fmt && fmtBytes b.fmt ≥ 4)
    farBounds h b p 1 1 true true
    let peer ← peerM h (p.mesh.getD 0)
    heldM h
    let c ← ctxM h
    if c.q.lq.length ≥ queueDepth then stallM 5 else pure ()
    let st ← getM
    let l : Acc := { tok := st.clk.tick, seq := c.q.seq, kind := .remote [] b.place false, acq := none, rel := none, conv := none,
                     ps := (farPieces st h peer b p 1 1).flatten }
    enqStore h [] (.remote [scalarPkt st h 6 peer b p x] b.place false) none
    modM h fun c => { c with q := { c.q with lq := c.q.lq ++ [l] } }) s

/-! Markers, fences, prefetch (R127, R132, R133, R245). -/

/-- The fetched runs of the read ports discarded, to be fetched again after the marker of place `seq` at scope `sc`
(R133). -/
def Ctx.dropFetched (c : Ctx) (seq sc : Nat) : Ctx :=
  let go (m : SMap (Option Gen)) (n : Nat) : SMap (Option Gen) :=
    match mget none m n with
    | none => m
    | some x => mput none m n (some { x with fetched := [], fidx := x.idx, fover := x.past, hold := some (seq, sc) })
  { c with q := { c.q with ag := [0, 1, 2, 3].foldl go c.q.ag } }

/-- A marker put into both queues, or a stall while one is full; its place is the answer. -/
def markM (h : Nat) (rel : Option Nat) : M Nat := do
  let c ← ctxM h
  if c.q.lq.length ≥ queueDepth || c.q.sq.length ≥ queueDepth then stallM 5
  else
    let seq ← seqM h
    let s ← getM
    updM State.bump
    let a : Acc := { tok := s.clk.tick, seq := seq, kind := .align, acq := none, rel := rel, conv := none, ps := [] }
    modM h fun c => ({ c with q := { c.q with lq := c.q.lq ++ [a], sq := c.q.sq ++ [a] } }).sweep
    pure seq

/-- `align` (R127, R133): a marker in both queues. -/
def execAlign (g : Guard) (s : State) : Host.Outcome State Fault Refusal :=
  slotOp .m g (fun h => do
    let seq ← markM h none
    modM h fun c => c.dropFetched seq 0) s

/-- Whether everything a context issued before a place is performed at a scope, but for pushes that have not landed: these land by
the context's own cycles, which a stall does not advance (R148). -/
def State.fenceOpen (s : State) (h : Nat) (seq sc : Nat) : Bool :=
  let c := s.ctx h
  c.loadsBefore seq && (c.stores.all fun a => a.seq ≥ seq || a.isAlign || a.unlanded || a.at sc) && (sc < 4 || !s.farLeft h seq)

/-- `fence` (R132): the context stalls until everything it issued before is performed at the scope. Where a push has not landed, a
mark in both queues orders it before what follows; assumption log 116. -/
def execFence (g : Guard) (sc : BitVec 3) (s : State) : Host.Outcome State Fault Refusal :=
  slotOp .m g (fun h => do
    let s ← getM
    let c ← ctxM h
    if s.fenceOpen h c.q.seq sc.toNat then
      let seq ← (if c.storesBefore c.q.seq sc.toNat then seqM h else markM h (some sc.toNat))
      modM h fun c => c.dropFetched seq sc.toNat
    else stallM 6) s

/-- TRANSLATION_WALK_DONE (R65, R68): a walk asked for ahead of its use ends, and the cluster keeps the leaf it found; one that
meets a fault is dropped. -/
def execTranslationWalkDone (cl d c va : Nat) (s : State) : Host.Outcome State Fault Refusal :=
  if c = 0 ∨ va ≥ 2 ^ 48 ∨ (tlbFind (s.clu cl).tlb d c va).isSome then .next s
  else
    match s.walk d va (s.dc d c).ptb.toNat 3 with
    | none => .next s
    | some (e, l) =>
      let t : TlbEnt := { dev := d, dctx := c, va := va / leafSize l * leafSize l, size := leafSize l, ent := e }
      .next (s.modClu cl fun k => k.keepLeaf t)

/-- `pf` (R245): checks 1 to 3 of R234, and a translation warmed; a failure of it is dropped. -/
def execPf (g : Guard) (path : Path) (s : State) : Host.Outcome State Fault Refusal :=
  slotOp .m g (fun h => do
    let (b, p) ← boxM h path
    localAny h p
    let c ← ctxM h
    let s ← getM
    liftM' (boundsAll s c b p (fmtPer b.fmt) 1 false)
    let k (i : Nat) : Nat := (p.crd.getD i 0).toNat
    match c.task with
    | some t =>
      if b.level ≥ 2 then
        updM fun s => s.sched 1 (.translationWalkDone (cluOf h) t.dev t.dctx (b.granLoc (k 0) (k 1) (k 2) (k 3)))
      else pure ()
    | none => pure ()) s

/-! Waiting on a value (R249). -/

/-- The value of a watched element, extended under R236. -/
def extendTo (bs : List Byte) (sg : Bool) : Word :=
  if sg then wordOf (toSigned (8 * bs.length) (ofBytes bs)) else BitVec.ofNat 64 (ofBytes bs)

/-- The watched element read through the load queue, where its order allows the read now (R124, R249). -/
def State.watchRead (s : State) (h : Nat) (ps : List Piece) : Option (List Byte × State) :=
  let c := s.ctx h
  let a : Acc := { tok := 0, seq := c.q.seq, kind := .load, acq := none, rel := none, conv := none, ps := ps }
  if ps.all fun p => s.mayLoad h c a p then
    some (ps.foldl (fun (r : List Byte × State) p =>
      let (q, s') := r.2.takePiece c c.q.seq p
      (r.1 ++ q.data, s')) ([], s))
  else none

/-- A `waitv`, plain or with its reads as acquires. A read that its queue holds back, or that meets an array in retention, is a late
item (R77). -/
def mWaitv (g : Guard) (cc : BitVec 3) (a : Opnd) (path : Path) (s : State) : Host.Outcome State Fault Refusal :=
  slotOp .m g (fun h => do
    let x ← rdScalar h a 0
    let (b, p) ← boxM h path
    let st ← getM
    let c ← ctxM h
    needM (fmtInteger b.fmt && fmtBytes b.fmt ≥ 4 && ownMesh st c p) 2
    let l ← accessM h b p 1 1 false true
    convStall h b
    let ps := l.flatten
    let st ← getM
    match st.watchRead h ps with
    | none => stallM 1
    | some (bs, st') =>
      let pls := ps.map (·.pl)
      if (st.touchAll pls).1 ≠ 0 then lateM pls
      else if waitvCond cc.toNat (extendTo bs (extTop b.fmt)) x then updM fun _ => (st'.touchAll pls).2
      else blockM (.value cc.toNat x ps (extTop b.fmt))) s

def execWaitv (g : Guard) (cc : BitVec 3) (a : Opnd) (path : Path) (s : State) := mWaitv g cc a path s
def execWaitvAcq (g : Guard) (_sc cc : BitVec 3) (a : Opnd) (path : Path) (s : State) := mWaitv g cc a path s

end Sys2Proof.Machine
end

