-- ==== Sys2Proof/Machine/Timed.lean ====
section
/-! DEFINITION. Timed events of a span (R262 to R264, R328, R329): its members and coordinator, the arming of an event on
every member, acknowledgements, and the time log. -/

namespace Sys2Proof.Machine

/-- 20 µs, 100 µs and 1 ms in ns. -/
def ns20 : Nat := 20000
def ns100 : Nat := 100000
def ns1000 : Nat := 1000000

/-- A wall time in ns as a number of wall cycles, at 1.1 GHz (R159, R2). -/
def nsCycles (n : Nat) : Nat := cdiv (n * 11) 10

/-- The wall cycles until `now` is about to reach a timestamp; an event due then looks at `now` in every cycle. -/
def State.until (s : State) (dev : Nat) (t : Word) : Nat := nsCycles (t.toNat - (s.now dev).toNat) - 2

/-- Whether `now` has reached a timestamp. -/
def State.reached (s : State) (dev : Nat) (t : Word) : Bool := t.toNat ≤ (s.now dev).toNat

/-- Bytes written in the space of the management context of a device, under owner key 0 (R65, R322). -/
def State.physWrite (s : State) (dev pa : Nat) (bs : List Byte) : State := s.virtWrite dev 0 pa 0 bs

/-- Words as bytes. -/
def wordBytes (ws : List Word) : List Byte := ws.flatMap fun w => toBytes 8 w.toNat

/-- A time record written, then the count (R329). -/
def State.timeLog (s : State) (dev dctx kind num : Nat) (t act : Word) : State :=
  let d := s.dc dev dctx
  let w0 := atBit kind 56 ||| atBit (s.tb dev).mode 54 ||| atBit s.net.fpeer 43 ||| atBit (num % 2 ^ 32) 0
  let w3 := atBit ((s.tb dev).unc % 2 ^ 32) 32 ||| atBit (wrapTo 32 (s.tb dev).off) 0
  let s := s.physWrite dev (d.tlog.toNat + 32 + 32 * (d.tlcnt % 2047)) (wordBytes [w0, t, act, w3])
  let s := s.physWrite dev d.tlog.toNat (toBytes 8 (d.tlcnt + 1))
  s.modDc dev dctx fun d => { d with tlcnt := d.tlcnt + 1 }

/-! Members (R102, R319, R346). -/

/-- The key of a member of a span: its peer number and SUB. -/
def memberKey (peer sub : Nat) : Nat := peer * 8 + sub

/-- The members of a device context's mesh, in group-index order, as peer and SUB. -/
def DCtx.members (d : DCtx) : List (Nat × Nat) :=
  (List.range (axisSize d.msh 0 * axisSize d.msh 1 * axisSize d.msh 2)).map fun i =>
    let e := mget 0 d.mtab i
    (nfld e 10 0, nfld e 13 11)

/-- The device that coordinates the span: the first member of the peer that COORD names, else its device 0; assumption
log 16. -/
def DCtx.coordinator (d : DCtx) : Nat × Nat := (d.members.find? fun m => m.1 == d.coord).getD (d.coord, 0)

/-- Whether a device of this package coordinates the span of a device context. -/
def State.coordinates (s : State) (dev dctx : Nat) : Bool := (s.dc dev dctx).coordinator == (s.net.fpeer, dev)

/-- A message of the span, on virtual channel 0. -/
def State.tell (s : State) (dev dctx ty : Nat) (dst : Nat × Nat) (msg : FluxMsg) : State :=
  s.send { Pkt.zero with ty := ty, src := s.net.fpeer, ssub := dev, dst := dst.1, dsub := dst.2, ctx := dctx, flux := msg }

/-- A message to every other member, and to the coordinator where it is no member. -/
def State.tellAll (s : State) (dev dctx ty : Nat) (msg : FluxMsg) : State :=
  let d := s.dc dev dctx
  let all := if d.members.contains d.coordinator then d.members else d.coordinator :: d.members
  (all.filter fun m => m != (s.net.fpeer, dev)).foldl (fun s m => s.tell dev dctx ty m msg) s

/-! Arming and acknowledgement (R328). -/

/-- The event by which a timed event of a kind comes about: a halt for a pre-emption or a checkpoint, a start for a launch
or a resumption, and for a refused checkpoint its record. -/
def Timed.event (e : Timed) (dev dctx : Nat) : Instr :=
  if e.kind = 1 ∨ e.kind = 4 then .timedStart dev dctx e.num
  else if e.kind = 6 then .checkpointComplete dev dctx e.num
  else .timedHalt dev dctx e.num

/-- A timed event armed on this device; the coordinator looks for stragglers 20 µs after its timestamp. -/
def State.armTimed (s : State) (dev dctx : Nat) (e : Timed) : State :=
  let s := s.modDc dev dctx fun d => { d with timed := d.timed ++ [e], evnum := max d.evnum e.num }
  let s := s.sched (if e.kind = 6 then 1 else s.until dev e.t) (e.event dev dctx)
  if s.coordinates dev dctx ∧ e.kind ≠ 6 then s.sched (s.until dev (e.t + BitVec.ofNat 64 ns20) + 4) .stragglerTimeout else s

/-- A timed event armed on every member of the span. -/
def State.armSpan (s : State) (dev dctx : Nat) (e : Timed) : State :=
  (s.armTimed dev dctx e).tellAll dev dctx 14 (.arm e.kind e.t e.num)

/-- A timed event with a kind, a timestamp and a number, nothing of it done. -/
def Timed.new (kind : Nat) (t : Word) (num : Nat) : Timed :=
  { kind := kind, t := t, num := num, who := [], ent := none, qent := none, done := false, acks := [], asker := 0, strag := 0 }

/-- A timed event of a device context changed, by kind and timestamp. -/
def State.modTimed (s : State) (dev dctx kind : Nat) (t : Word) (f : Timed → Timed) : State :=
  s.modDc dev dctx fun d => { d with timed := d.timed.map fun e => if e.kind = kind ∧ e.t = t then f e else e }

def State.findTimed (s : State) (dev dctx kind : Nat) (t : Word) : Option Timed :=
  (s.dc dev dctx).timed.find? fun e => e.kind == kind && e.t == t

/-- Whether every member has acknowledged. -/
def DCtx.allAcked (d : DCtx) (e : Timed) : Bool := d.members.all fun m => e.acks.contains (memberKey m.1 m.2)

/-- What marks the acknowledgement of a second step: the swap that follows a pre-emption (kind 10, R313), the stream that
follows a checkpoint (kind 9, R365). -/
def secondStep : Nat := 2 ^ 20

/-- Whether every member has acknowledged the second step. -/
def DCtx.allDone (d : DCtx) (e : Timed) : Bool := d.members.all fun m => e.acks.contains (memberKey m.1 m.2 + secondStep)

/-- An acknowledgement kept; the late one that completes an event the coordinator waited for leaves a straggler's record. -/
def State.gotAck (s : State) (dev dctx key kind : Nat) (t : Word) : State :=
  let (kind, key) := if kind = 10 then (2, key + secondStep) else if kind = 9 then (3, key + secondStep) else (kind, key)
  let s := s.modTimed dev dctx kind t fun e => if e.acks.contains key then e else { e with acks := e.acks ++ [key] }
  match s.findTimed dev dctx kind t with
  | some e =>
    if e.strag = 1 ∧ (s.dc dev dctx).allAcked e then
      (s.modTimed dev dctx kind t fun e => { e with strag := 2 }).timeLog dev dctx 5 e.num t (s.now dev)
    else s
  | none => s

/-- What a member tells of a timed event it has carried out: the coordinator, and the member that asked for it. -/
def State.ackTimed (s : State) (dev dctx : Nat) (e : Timed) : State :=
  let me := memberKey s.net.fpeer dev
  let s := s.gotAck dev dctx me e.kind e.t
  let c := (s.dc dev dctx).coordinator
  let s := if c = (s.net.fpeer, dev) then s else s.tell dev dctx 258 c (.ack e.kind e.t)
  if e.asker = 0 ∨ e.asker - 1 = memberKey c.1 c.2 then s
  else s.tell dev dctx 258 ((e.asker - 1) / 8, (e.asker - 1) % 8) (.ack e.kind e.t)

/-- A checkpoint called for the whole span (R262, R365, R367, R370). -/
def State.callCkpt (s : State) (dev dctx : Nat) (t : Word) : State :=
  s.armSpan dev dctx (Timed.new 3 t ((s.dc dev dctx).evnum + 1))

end Sys2Proof.Machine
end

