-- ==== Sys2Proof/Machine/Tasks.lean ====
section
/-! DEFINITION. The T slot (R79 to R97, R250 to R264): calls, joins and spawns, engine copies, collectives, placement
declarations and timed requests. -/

namespace Sys2Proof.Machine

/-! Call frames (R80, R81). -/

/-- Four 16-bit fields of a word. -/
def quad (w : Word) : List Nat := [fld w 15 0, fld w 31 16, fld w 47 32, fld w 63 48]

/-- A selection of a frame. -/
def selOf (ws : List Word) (k : Nat) : Sel :=
  let ctl := ws.getD (4 + 3 * k) 0
  { pslot := fld ctl 7 4, cslot := fld ctl 3 0, acc := fld ctl 9 8, org := quad (ws.getD (2 + 3 * k) 0),
    ext := quad (ws.getD (3 + 3 * k) 0), fmt := fld ctl 15 11, rank := fld ctl 17 16 + 1, gdim := fld ctl 35 34,
    gstep := fld ctl 33 18 }

/-- Whether the control word of a selection is legal (R81, R83 check 1). -/
def selOk (ws : List Word) (gang : Bool) (k : Nat) : Bool :=
  let ctl := ws.getD (4 + 3 * k) 0
  let x := selOf ws k
  fld ctl 63 36 == 0 && !bitOf ctl 10 && x.ext.all (· != 0) && (gang || x.gstep == 0) &&
  (if x.acc = 3 then x.pslot == 0 && x.org.all (· == 0) && fmtOk x.fmt && (x.ext.drop x.rank).all (· == 1)
   else x.fmt == 0 && fld ctl 17 16 == 0)

/-- Whether a number stands twice in a list. -/
def twice : List Nat → Bool
  | [] => false
  | x :: l => l.contains x || twice l

/-- A frame read and checked (R83 check 1). -/
def frameM (h : Nat) (v : BitVec 5) (gang : Bool) : M (Word × Word × List Sel) := do
  let ws ← blockWords h v .t 1 2
  let w0 := ws.getD 0 0
  let n := fld w0 20 16
  needM (fld w0 63 25 == 0 && n ≤ 16 && ws.length ≥ 2 + 3 * n) 3 1
  needM ((List.range n).all (selOk ws gang)) 3 1
  let sels := (List.range n).map (selOf ws)
  needM (!twice (sels.map (·.cslot))) 3 1
  pure (w0, ws.getD 1 0, sels)

/-- A selection with the origin of member `m` (R96). -/
def Sel.orgOf (x : Sel) (m : Nat) : List Nat := x.org.set x.gdim (x.org.getD x.gdim 0 + m * x.gstep)

/-! The image's task table (R300, R301). -/

/-- The words of a task-table entry; none where the image has no such entry or it cannot be read. -/
def State.taskWords (s : State) (dev dctx : Nat) (image : Word) (key entry : Nat) : Option (List Word) :=
  match (s.virtRead dev dctx (image.toNat + 16) key 8).1 with
  | none => none
  | some b =>
    let w := BitVec.ofNat 64 (ofBytes b)
    if entry ≥ fld w 63 32 then none
    else
      match (s.virtRead dev dctx (image.toNat + fld w 31 0 + 336 * entry) key 336).1 with
      | none => none
      | some bs => some ((List.range 42).map fun k => BitVec.ofNat 64 (ofBytes ((bs.drop (8 * k)).take 8)))

/-- The declaration of a box slot in a task-table entry (R300): ACCESS, rank and FMT where declared. -/
def boxDecl (ws : List Word) (slot : Nat) : Option (Nat × Nat × Nat) :=
  let w := ws.getD (4 + slot / 4) 0
  let x := fld w (16 * (slot % 4) + 15) (16 * (slot % 4))
  if nfld x 15 15 = 1 then some (nfld x 12 11, nfld x 10 9 + 1, nfld x 8 4) else none

/-! Windows of boxes (R26, R29, R83 check 3). -/

/-- A window inside extents, in dimension order; for d0 the last element, for the others the first outside (R28). -/
def windowCheck (slot fmt : Nat) (exts org ext : List Nat) : Except Bad Unit :=
  let e0 := roundExt fmt (exts.getD 0 0)
  if org.getD 0 0 + ext.getD 0 0 > e0 then .error (boundBad (org.getD 0 0 + ext.getD 0 0 - 1 : Nat) e0 slot 0 0)
  else
    let bad (i : Nat) : Bool := org.getD i 0 + ext.getD i 0 > exts.getD i 0
    let err (i : Nat) : Except Bad Unit := .error (boundBad (max (org.getD i 0) (exts.getD i 0) : Nat) (exts.getD i 0) slot i 0)
    if bad 1 then err 1 else if bad 2 then err 2 else if bad 3 then err 3 else .ok ()

/-- A window of a slot's box, at a mesh coordinate where one is named; `rd` marks one that is only read (R120). -/
def slotWindow (s : State) (c : Ctx) (slot : Nat) (mesh : Option Word) (org ext : List Nat) (rd : Bool) : Except Bad Unit := do
  let b := c.box slot
  pathCheck s c b { slot := slot, crd := [], mesh := mesh }
  windowCheck slot b.fmt (s.extsFor c b mesh rd) org ext

/-- The alignment of a window of a slot's box of a tagged class, against the extent that its bounds are checked with (R26, R83 check 5,
R255 check 4). -/
def slotAligned (s : State) (c : Ctx) (slot : Nat) (mesh : Option Word) (org ext : List Nat) (rd : Bool) : Bool :=
  let b := c.box slot
  let n := fmtPer b.fmt
  let o := org.getD 0 0
  let e := ext.getD 0 0
  !fmtTagged b.fmt || (o % n == 0 && (e % n == 0 || o + e == (s.extsFor c b mesh rd).getD 0 0))

/-! Overlaps (R91 to R95). -/

/-- The least shared element of two windows. -/
def meetAt (o e o' e' : List Nat) : Option (List Nat) :=
  let lo := (List.range 4).map fun k => max (o.getD k 0) (o'.getD k 0)
  if (List.range 4).all fun k => lo.getD k 0 < min (o.getD k 0 + e.getD k 0) (o'.getD k 0 + e'.getD k 0) then some lo else none

/-- A call put among calls in call order. -/
def putCall (e : CallEnt × Nat) : List (CallEnt × Nat) → List (CallEnt × Nat)
  | [] => [e]
  | x :: l => if e.1.order < x.1.order then e :: x :: l else x :: putCall e l

/-- The live calls of a context in a table, oldest first, with their entry numbers (R85). -/
def liveOf (m : SMap CallEnt) (h : Nat) : List (CallEnt × Nat) :=
  (m.filter fun x => x.2.st != .free && !x.2.dead && x.2.parent == h).foldl (fun l x => putCall (x.2, x.1) l) []

/-- One pair that overlaps: selection, rank of the other call, its selection, and ovf. -/
abbrev Hit := Nat × Nat × Nat × Word

/-- The out and inout selections with their numbers. -/
def outSels (l : List Sel) : List (Nat × Sel) := (l.zipIdx.filter fun x => x.1.acc == 1 || x.1.acc == 2).map fun x => (x.2, x.1)

/-- The overlaps of one member's selections with one party of rank `rk`: a member of a live call, or an earlier member (R96). -/
def hitsWith (mine : List (Nat × Sel)) (m : Nat) (theirs : List (Nat × Sel)) (m' rk handle cause : Nat) : List Hit :=
  mine.flatMap fun (i, x) => theirs.filterMap fun (j, y) =>
    if x.pslot ≠ y.pslot then none
    else
      (meetAt (x.orgOf m) x.ext (y.orgOf m') y.ext).map fun lo =>
        (i, rk, j, atBit handle 48 ||| atBit x.pslot 44 ||| atBit i 40 ||| atBit j 36 ||| atBit cause 32 |||
          atBit (lo.getD 1 0 % 65536) 16 ||| atBit (lo.getD 0 0 % 65536) 0)

/-- The overlap that ovf reports: the lowest selection, then the oldest call, then the lowest other selection. -/
def firstHit : List Hit → Option Hit
  | [] => none
  | x :: l =>
    match firstHit l with
    | none => some x
    | some y =>
      if y.1 < x.1 ∨ (y.1 = x.1 ∧ (y.2.1 < x.2.1 ∨ (y.2.1 = x.2.1 ∧ y.2.2.1 < x.2.2.1))) then some y else some x

/-- The faults of overlap of a call of group `grp` with `n` members (R91 to R96). -/
def overlapOf (cgm : Word) (grp n : Nat) (sels : List Sel) (live : List (CallEnt × Nat)) (spawn : Bool) : Option Word :=
  let mine := outSels sels
  let order := bitOf cgm grp
  let hits := (List.range n).flatMap fun m =>
    (live.zipIdx.flatMap fun (e, rk) =>
      let cause := if e.1.grp = grp then 0 else 1
      if cause = 0 ∧ order then []
      else (List.range e.1.nmem).flatMap fun m' =>
        hitsWith mine m (outSels e.1.sels) m' (64 * rk + m') ((handleOf spawn e.1.gen e.2) % 65536) cause) ++
    (if order then [] else (List.range m).flatMap fun m' => hitsWith mine m mine m' (64 * live.length + m') 0 2)
  (firstHit hits).map fun x => x.2.2.2

/-! Children's boxes (R82, R83 check 6). -/

/-- The format and the rank of a child's box (R82). -/
def childFmt (x : Sel) (parent : Desc) : Nat := if x.acc = 3 then x.fmt else parent.fmt
def childRank (x : Sel) (parent : Desc) : Nat := if x.acc = 3 then x.rank else parent.rank

/-- The strides of a child's box in compact layout (R82). -/
def childStrides (x : Sel) (parent : Desc) : Nat × Nat × Nat :=
  let rank := childRank x parent
  let s1 := if rank ≥ 2 then cdiv (x.ext.getD 0 0) (fmtPer (childFmt x parent)) else 0
  let s2 := if rank ≥ 3 then s1 * x.ext.getD 1 0 else 0
  (s1, s2, if rank ≥ 4 then s2 * x.ext.getD 2 0 else 0)

/-- Whether a child's box can have a well-formed descriptor: its strides fit their fields (R15). -/
def childFits (x : Sel) (parent : Desc) : Bool :=
  let (s1, s2, s3) := childStrides x parent
  s1 < 2 ^ 32 && s2 < 2 ^ 32 && s3 < 2 ^ 32

/-- The descriptor of a child's box at a base (R82). -/
def childDesc (lvl : Nat) (x : Sel) (parent : Desc) (base : Nat) (inherit : Bool) : Desc :=
  let fmt := childFmt x parent
  let rank := childRank x parent
  let e (i : Nat) : Nat := x.ext.getD i 0
  let (s1, s2, s3) := childStrides x parent
  { w0 := BitVec.ofNat 64 base,
    w1 := atBit (e 0) 0 ||| atBit (e 1) 16 ||| atBit (e 2) 32 ||| atBit (e 3) 48,
    w2 := atBit (s1 % 2 ^ 32) 0 ||| atBit (s2 % 2 ^ 32) 32,
    w3 := atBit (s3 % 2 ^ 32) 0 ||| atBit 1 33 ||| atBit fmt 34 ||| atBit (rank - 1) 39 ||| atBit lvl 41 ||| atBit x.acc 43 |||
          (if inherit then atBit parent.key 55 ||| atBit (if parent.mirror then 1 else 0) 63 else 0) }

/-- The bytes of a child's box in compact layout. -/
def childBytes (x : Sel) (parent : Desc) : Nat :=
  64 * cdiv (x.ext.getD 0 0) (fmtPer (childFmt x parent)) * x.ext.getD 1 0 * x.ext.getD 2 0 * x.ext.getD 3 0

/-- The parent descriptor of a selection: none for a scratch one. -/
def selParent (c : Ctx) (x : Sel) : Desc := if x.acc = 3 then Desc.none else c.box x.pslot

/-- Whether a selection matches the slot that the child's task declares, in access kind, format class and rank (R83 check 2); where
its parent slot is empty there is no class and no rank to compare, and check 3 follows. -/
def selMatches (c : Ctx) (ws : List Word) (x : Sel) : Bool :=
  let b := selParent c x
  match boxDecl ws x.cslot with
  | some (acc, rank, fmt) => acc == x.acc && ((x.acc != 3 && !b.valid) || (rank == childRank x b && fmt == childFmt x b))
  | none => false

/-- The checks 2 to 7 of R83, in order. The spec does not say which window's failure is recorded where several fail a check: DESIGN
CHOICE, selections in frame order, and of each the gang members in ascending order; assumption log 117. -/
def callChecks (s : State) (h : Nat) (lvl n : Nat) (gangOk spawn : Bool) (w0 : Word) (sels : List Sel)
    (ent : Option (List Word)) : Except Bad Unit := do
  let c := s.ctx h
  let ill : Except Bad Unit := .error (2, [])
  match ent with
  | none => ill
  | some ws =>
    if fld (ws.getD 0 0) 1 0 ≠ lvl - 1 then ill
    if !(sels.all (selMatches c ws)) then ill
    if !gangOk then ill
    sels.forM fun x => if x.acc = 3 then .ok () else
      (List.range n).forM fun m => slotWindow s c x.pslot none (x.orgOf m) x.ext (x.acc == 0)
    sels.forM fun x =>
      if (x.acc = 1 ∨ x.acc = 2) ∧ (c.box x.pslot).acc = 0 then .error (0x0D, [(0x00A, bxfOf 0 0 x.pslot 0 4)]) else .ok ()
    if !(sels.all fun x => x.acc == 3 || (List.range n).all fun m => slotAligned s c x.pslot none (x.orgOf m) x.ext (x.acc == 0)) then
      .error (0x13, [])
    let size := (sels.map fun x => childBytes x (selParent c x)).foldl (· + ·) 0
    let d := s.taskDc c
    if lvl = 1 ∧ size > d.own then ill
    if lvl = 2 ∧ size * n > 64 * d.psplit then ill
    if !(sels.all fun x => childFits x (selParent c x)) ∨ (lvl = 3 ∧ size > 2 ^ 48) then ill
    let live := if spawn then liveOf (d.spawn) h else liveOf (s.clu (cluOf h)).calls h
    match overlapOf c.sys.cgm (fld w0 24 21) n sels live spawn with
    | some v => .error (0x0B, [(0x00B, v)])
    | none => .ok ()

/-- The lowest free entry of a table of 256. -/
def freeEntry (m : SMap CallEnt) : Option Nat :=
  (List.range 256).find? fun i => match mfind m i with | some e => e.st == .free | none => true

/-- The generation after `g`: 1 to 255, skipping 0 (R84). -/
def nextGen (g : Nat) : Nat := g % 255 + 1

/-- A new live entry (R84). -/
def newCall (old : CallEnt) (h kind n seq order : Nat) (w0 w1 : Word) (sels : List Sel) (start : Option Word) : CallEnt :=
  { CallEnt.zero with
    st := .wait, gen := nextGen old.gen, parent := h, kind := kind, grp := fld w0 24 21, after := (quad w1).filter (· != 0),
    task := fld w0 15 0, sels := sels, nmem := n, seq := seq, order := order, start := start }

/-- A system tensor whose entry is converting refuses the write of a call or a copy (R120, R255 check 5). -/
def convWriteM (h : Nat) (b : Desc) : M Unit := do
  if b.level = 3 then
    let s ← getM
    let c ← ctxM h
    let e := match c.task with | some t => s.entry t.dev t.dctx b | none => PlEnt.zero
    if e.cip then convCheck h b true else pure ()
  else pure ()

/-- The table of a context's calls: its cluster's number, or 80 plus the key of its device context for spawns. -/
def spawnTab (t : Task) : Nat := 80 + t.dev * 16 + t.dctx

/-- A call, a gang call, a spawn or a timed launch issued (R83, R84, R253, R263). -/
def callM (h : Nat) (d v : BitVec 5) (kind : Nat) (n : Option Word) (start : Option Word) : M Unit := do
  let c ← ctxM h
  let spawn := kind ≥ 3
  needM (if spawn then c.lvl == 3 else c.lvl == 1 || c.lvl == 2) 2
  let (w0, w1, sels) ← frameM h v n.isSome
  let cnt := match n with | some x => x.toNat | none => 1
  let gangOk := match n with | some x => decide (2 ≤ x.toNat ∧ x.toNat ≤ 64) | none => true
  let s ← getM
  match c.task with
  | none => trapM 2
  | some t =>
    let ent := s.taskWords t.dev t.dctx t.image t.key (fld w0 15 0)
    liftM' (callChecks s h c.lvl (if gangOk then cnt else 1) gangOk spawn w0 sels ent)
    sels.forM fun x => if x.acc = 1 ∨ x.acc = 2 then convWriteM h (c.box x.pslot) else pure ()
    let m := if spawn then (s.dc t.dev t.dctx).spawn else (s.clu (cluOf h)).calls
    match freeEntry m with
    | none => blockM (if spawn then .spawnTable else .callTable)
    | some i =>
      let old := (mfind m i).getD CallEnt.zero
      let e := newCall old h kind cnt c.q.seq s.clk.tick w0 w1 sels start
      updM State.bump
      updM fun s =>
        if spawn then s.modDc t.dev t.dctx fun x => { x with spawn := mins x.spawn i e }
        else s.modClu (cluOf h) fun x => { x with calls := mins x.calls i e }
      let tab := if spawn then spawnTab t else cluOf h
      updM fun s => s.sched 1 (.callLeaveWait tab i)
      updM fun s => match start with
        | some x => s.armTimed t.dev t.dctx { Timed.new 1 x ((s.dc t.dev t.dctx).evnum + 1) with ent := some i, strag := 3 }
        | none => s
      latchM h .t 1 [.bytes (8 * d.toNat) (toBytes 8 (handleOf spawn e.gen i))] d.toNat

/-- `call` (R83). -/
def execCall (g : Guard) (d v : BitVec 5) (s : State) : Host.Outcome State Fault Refusal :=
  slotOp .t g (fun h => callM h d v 1 none none) s

/-- `call.gang` (R96). -/
def execCallGang (g : Guard) (d v : BitVec 5) (n : Opnd) (s : State) : Host.Outcome State Fault Refusal :=
  slotOp .t g (fun h => do
    let x ← rdScalar h n 2
    callM h d v 2 (some x) none) s

/-- `spawn` (R253). -/
def execSpawn (g : Guard) (d v : BitVec 5) (s : State) : Host.Outcome State Fault Refusal :=
  slotOp .t g (fun h => callM h d v 3 none none) s

/-- `tlaunch` (R263). -/
def execTlaunch (g : Guard) (d v : BitVec 5) (t : Opnd) (s : State) : Host.Outcome State Fault Refusal :=
  slotOp .t g (fun h => do
    let x ← rdScalar h t 2
    callM h d v 4 none (some x)) s

/-! Joins (R252). -/

/-- Whether a handle names a live call, spawn or timed launch of a context (R85, R252). -/
def State.handleLive (s : State) (h : Nat) (w : Word) : Bool :=
  let find (m : SMap CallEnt) : Bool :=
    match mfind m (w.toNat % 256) with
    | some e => e.st != .free && !e.dead && e.parent == h && e.gen == w.toNat / 256 % 256
    | none => false
  if w.toNat < 65536 then find (s.clu (cluOf h)).calls
  else if w.toNat < 131072 then find (s.taskDc (s.ctx h)).spawn
  else false

/-- Whether a record of the event queue names a handle. -/
def recNames (w : Word) (r : BitVec 128) : Bool :=
  recHandle r == w.toNat % 65536 && (if w.toNat < 65536 then recKind r ≤ 2 else recKind r == 3 || recKind r == 4)

/-- The first element that meets a test, and the list without it. -/
def takeFirst {α : Type} (f : α → Bool) : List α → Option (α × List α)
  | [] => none
  | x :: l => if f x then some (x, l) else (takeFirst f l).map fun (y, m) => (y, x :: m)

/-- `join` (R252). -/
def execJoin (g : Guard) (d hd : Opnd) (s : State) : Host.Outcome State Fault Refusal :=
  slotOp .t g (fun h => do
    takeAsync h
    let w ← rdScalar h hd 1
    let dst ← recDst h .t d
    let s ← getM
    needM (s.handleLive h w) 2
    let c ← ctxM h
    match takeFirst (recNames w) c.q.eq with
    | none => blockM (.handle w)
    | some (r, l) =>
      modM h fun c => { c with q := { c.q with eq := l } }
      takeRecord h .t d dst r) s

/-! Engine copies (R250, R254 to R257). -/

/-- The flags of a command are legal (R250). -/
def flagsOk (fl : EFlags) : Bool := (fl.acq == 0 || fl.asc.toNat ≤ 4) && (fl.rel == 0 || fl.rsc.toNat ≤ 4)

/-- The acquire a command starts under (R134): its flag, else the last marker that still stands. -/
def Ctx.cmdAcq (c : Ctx) (acq : Option Nat) : Option (Nat × Nat) :=
  match acq with
  | some sc => some (c.q.seq, sc)
  | none => ((c.q.lq ++ c.q.sq).filter Acc.isAlign).foldl (fun (r : Option (Nat × Nat)) a =>
      match r with
      | some (q, sc) => some (max q a.seq, sc)
      | none => some (a.seq, 0)) none

/-- The scope of an acquire, and of a release, that a command carries (R250). -/
def flAcq (fl : EFlags) : Option Nat := if fl.acq = 1 then some fl.asc.toNat else none
def flRel (fl : EFlags) : Option Nat := if fl.rel = 1 then some fl.rsc.toNat else none

/-- Where a location of a box lies for a task on a core of a cluster (R18). -/
def State.locOf (s : State) (core clu dev dctx : Nat) (b : Desc) (loc : Nat) : Loc :=
  if b.level = 0 then .place (.sp (core * 2 ^ 18 + loc))
  else if b.level = 1 then .place (.sp (poolAddr clu (s.dc dev dctx).own loc))
  else .virt dev dctx loc b.key

/-- Cutting two runs of bytes where either meets a granule boundary: source, destination and length. -/
def cutBoth (src dst n : Nat) : Nat → List (Nat × Nat × Nat)
  | 0 => []
  | k + 1 =>
    if n = 0 then []
    else
      let m := min n (min (64 - src % 64) (64 - dst % 64))
      (src, dst, m) :: cutBoth (src + m) (dst + m) (n - m) k

/-- The moves of one row: each at most a granule; a destination granule written whole takes the tag of the source
granule of its first element, and, with `own`, so does one written from its start (R37, R86, R87, R255). -/
def rowMoves (srcAt dstAt : Nat → Loc) (src dst n : Nat) (own : Bool) : List Move :=
  (cutBoth src dst n (2 * (n / 64) + 4)).map fun (a, b, m) =>
    { src := some (srcAt a), data := [], dst := dstAt b, n := m, tag := b % 64 == 0 && (own || b + 64 ≤ dst + n) }

/-- Bytes of a constant laid on one row; granules take tag 0 where they are written whole or `own` is set. -/
def rowFill (dstAt : Nat → Loc) (dst n : Nat) (pat : Nat → Byte) (own : Bool) : List Move :=
  (cutGran dst n (n / 64 + 2)).map fun (b, m) =>
    { src := none, data := (List.range m).map fun k => pat (b - dst + k), dst := dstAt b, n := m,
      tag := own || (b % 64 == 0 && m == 64) }

/-- The coordinates d1 to d3 of a window's rows, in ascending (c3, c2, c1) order, relative to its origin. -/
def windowRows (ext : List Nat) : List (Nat × Nat × Nat) :=
  (List.range (ext.getD 3 0)).flatMap fun k => (List.range (ext.getD 2 0)).flatMap fun j =>
    (List.range (ext.getD 1 0)).map fun i => (i, j, k)

/-- The coordinates of a window's row in its box. -/
def rowCrd (org : List Nat) (r : Nat × Nat × Nat) : List Int :=
  [(org.getD 0 0 : Int), (org.getD 1 0 + r.1 : Nat), (org.getD 2 0 + r.2.1 : Nat), (org.getD 3 0 + r.2.2 : Nat)]

/-- A copy block (R254). -/
structure CopyBlk where
  noflag : Bool
  fslot  : Nat
  sslot  : Nat
  dslot  : Nat
  dorg   : List Nat
  sorg   : List Nat
  ext    : List Nat
  dco    : Word
  forg   : List Nat
  fval   : Word

/-- A copy block read and checked (R254, R255 check 1). -/
def copyBlk (h : Nat) (v : BitVec 5) (far fill : Bool) : M CopyBlk := do
  let ws ← blockWords h v .t 0 (if far then 7 else 4)
  let w (k : Nat) : Word := ws.getD k 0
  needM (fld (w 0) 63 13 == 0 && (far || fld (w 0) 12 8 == 0) && (!fill || (fld (w 0) 7 4 == 0 && w 2 == 0))) 3 0
  needM ((quad (w 3)).all (· != 0)) 3 0
  pure { noflag := bitOf (w 0) 12, fslot := fld (w 0) 11 8, sslot := fld (w 0) 7 4, dslot := fld (w 0) 3 0,
         dorg := quad (w 1), sorg := quad (w 2), ext := quad (w 3), dco := w 4, forg := quad (w 5), fval := w 6 }

/-- Translation and permission of every granule that the rows of a local window reach (R255 check 6). A failure met by
the T slot leaves tinf 0 (R226). -/
def windowPages (h : Nat) (b : Desc) (rows : List (List Int)) (run : Nat) (wr : Bool) : M Unit :=
  rows.forM fun crd => fun s =>
    match s.runPieces h b crd run wr with
    | (.ok _, s') => .ok ((), s')
    | (.error (c, _), _) => (trapM c 0 [(0x023, 0)] : M Unit) s

/-- A command started and counted in cp (R207, R250). -/
def startCmd (h : Nat) (rows : List (List Move)) (flag : Option Pkt) (fl : EFlags) (place : Nat × Nat := (0, 0)) : M Unit := do
  let c ← ctxM h
  if c.wc.cp ≥ classMax then stallM 5
  else
    let s ← getM
    let id := s.clk.tick
    match c.task with
    | none => pure ()
    | some t =>
      updM State.bump
      let cmd : Cmd := { kind := .copy h, rows := rows, got := [], flag := flag, wait := 0, acq := c.cmdAcq (flAcq fl), rel := flRel fl,
                         susp := none, deny := false, dev := t.dev, dctx := t.dctx, mem := 0, place := place }
      updM fun s => { s with cmds := mins s.cmds id cmd }
      modM h fun c => { c with wc := { c.wc with cp := c.wc.cp + 1 }, q := { c.q with seq := c.q.seq + 1 } }
      updM fun s => s.sched 1 (.memoryAccessPerform h id 0)

/-- The location function of a box for a context. -/
def ctxLoc (s : State) (h : Nat) (b : Desc) (loc : Nat) : Loc :=
  match (s.ctx h).task with
  | some t => s.locOf (coreOf h) (cluOf h) t.dev t.dctx b loc
  | none => .place (.sp 0)

/-- The box of a slot, empty slots included. -/
def slotBox (h n : Nat) : M Desc := do
  let c ← ctxM h
  pure (c.box n)

/-- The checks 3 to 6 of R255 for a local copy of the rows given, and the command. The spec does not say which window's failure is
recorded where both fail a check: DESIGN CHOICE, the destination's; assumption log 117. -/
def localCopy (h : Nat) (k : CopyBlk) (srcRows : List (List Int)) (srcOk : Except Bad Unit) (fl : EFlags) : M Unit := do
  let s ← getM
  let c ← ctxM h
  let d ← slotBox h k.dslot
  let b ← slotBox h k.sslot
  liftM' (slotWindow s c k.dslot none k.dorg k.ext false)
  liftM' srcOk
  needM (d.acc != 0) 0x0D 0 [(0x00A, bxfOf 0 0 k.dslot 0 4)]
  needM (slotAligned s c k.dslot none k.dorg k.ext false && slotAligned s c k.sslot none k.sorg k.ext true) 0x13
  convWriteM h d
  let dstRows := (windowRows k.ext).map (rowCrd k.dorg)
  let run := k.ext.getD 0 0
  windowPages h d dstRows run true
  windowPages h b srcRows run false
  let s ← getM
  let rows := (dstRows.zip srcRows).map fun (x, y) =>
    let (dl, n) := runBytes d x run
    let (sl, _) := runBytes b y run
    rowMoves (ctxLoc s h b) (ctxLoc s h d) sl dl n false
  startCmd h rows none fl

/-- `cpy` (R255). -/
def execCpy (g : Guard) (v : BitVec 5) (fl : EFlags) (s : State) : Host.Outcome State Fault Refusal :=
  slotOp .t g (fun h => do
    let k ← copyBlk h v false false
    needM (flagsOk fl) 3 10
    let d ← slotBox h k.dslot
    let b ← slotBox h k.sslot
    needM (d.fmt == b.fmt) 2
    let s ← getM
    let c ← ctxM h
    localCopy h k ((windowRows k.ext).map (rowCrd k.sorg)) (slotWindow s c k.sslot none k.sorg k.ext true) fl) s

/-- `cpyg` (R256): each destination row takes the source row its index names. -/
def execCpyg (g : Guard) (v x : BitVec 5) (fl : EFlags) (s : State) : Host.Outcome State Fault Refusal :=
  slotOp .t g (fun h => do
    let k ← copyBlk h v false false
    needM (flagsOk fl) 3 10
    let w ← viewM h .t x false 1
    let n := k.ext.getD 1 0
    needM ((w.fmt == 6 || w.fmt == 10) && w.cols ≥ n) 3 1
    needM (k.ext.getD 2 0 == 1 && k.ext.getD 3 0 == 1) 3 0
    let d ← slotBox h k.dslot
    let b ← slotBox h k.sslot
    needM (d.fmt == b.fmt && b.rank ≥ 2) 2
    let c ← ctxM h
    let s ← getM
    let rows := (List.range n).map fun i =>
      let ix : Int := if w.fmt = 6 then toSigned 32 (c.elem w 0 i) else (c.elem w 0 i : Nat)
      [(k.sorg.getD 0 0 : Int), (k.sorg.getD 1 0 : Int) + ix, (k.sorg.getD 2 0 : Int), (k.sorg.getD 3 0 : Int)]
    let ok : Except Bad Unit := do
      pathCheck s c b { slot := k.sslot, crd := [], mesh := none }
      rows.forM fun r => crdCheck k.sslot b.fmt (s.extsFor c b none true) r (k.ext.getD 0 0)
    localCopy h k rows ok fl) s

/-- `fill` (R256). -/
def execFill (g : Guard) (v : BitVec 5) (b : Opnd) (fl : EFlags) (s : State) : Host.Outcome State Fault Refusal :=
  slotOp .t g (fun h => do
    let x ← rdScalar h b 1
    let k ← copyBlk h v false true
    needM (flagsOk fl) 3 10
    let d ← slotBox h k.dslot
    needM (fmtRaw d.fmt) 2
    let s ← getM
    let c ← ctxM h
    liftM' (slotWindow s c k.dslot none k.dorg k.ext false)
    needM (d.acc != 0) 0x0D 0 [(0x00A, bxfOf 0 0 k.dslot 0 4)]
    convWriteM h d
    let dstRows := (windowRows k.ext).map (rowCrd k.dorg)
    let run := k.ext.getD 0 0
    windowPages h d dstRows run true
    let s ← getM
    let z := fmtBytes d.fmt
    let rows := dstRows.map fun r =>
      let (dl, n) := runBytes d r run
      rowFill (ctxLoc s h d) dl n (fun i => BitVec.ofNat 8 (x.toNat / 256 ^ (i % z))) false
    startCmd h rows none fl) s

/-- A list cut into runs of at most `n`. -/
def chunksOf {α : Type} (n : Nat) : List α → Nat → List (List α)
  | _, 0 => []
  | [], _ => []
  | l, k + 1 => l.take n :: chunksOf n (l.drop n) k

/-- `cpyr` (R257): rows of the window leave as write packets of at most 30 granules, and the flag follows. -/
def execCpyr (g : Guard) (v : BitVec 5) (fl : EFlags) (s : State) : Host.Outcome State Fault Refusal :=
  slotOp .t g (fun h => do
    let k ← copyBlk h v true false
    needM (flagsOk fl) 3 10
    let d ← slotBox h k.dslot
    let b ← slotBox h k.sslot
    let f ← slotBox h k.fslot
    let c ← ctxM h
    needM (d.fmt == b.fmt && b.level == 3 && d.level == 3 && c.lvl == 3) 2
    needM (k.noflag || (f.level == 3 && fmtInteger f.fmt && fmtBytes f.fmt ≥ 4)) 2
    let s ← getM
    liftM' (slotWindow s c k.dslot (some k.dco) k.dorg k.ext false)
    liftM' (slotWindow s c k.sslot none k.sorg k.ext true)
    liftM' (if k.noflag then .ok () else slotWindow s c k.fslot (some k.dco) k.forg [1, 1, 1, 1] false)
    needM (d.acc != 0) 0x0D 0 [(0x00A, bxfOf 0 0 k.dslot 0 4)]
    needM (k.noflag || f.acc != 0) 0x0D 0 [(0x00A, bxfOf 0 0 k.fslot 0 4)]
    needM (slotAligned s c k.dslot (some k.dco) k.dorg k.ext false && slotAligned s c k.sslot none k.sorg k.ext true) 0x13
    let peer ← peerM h k.dco
    let srcRows := (windowRows k.ext).map (rowCrd k.sorg)
    let run := k.ext.getD 0 0
    windowPages h b srcRows run false
    let s ← getM
    let rows := (((windowRows k.ext).map (rowCrd k.dorg)).zip srcRows).flatMap fun (x, y) =>
      let (dl, n) := runBytes d x run
      let (sl, _) := runBytes b y run
      let ms := rowMoves (ctxLoc s h b) (fun a => Loc.far peer.1 peer.2 a d.key) sl dl n false
      chunksOf 30 ms (ms.length + 1)
    let fp := scalarPkt s h (if flRel fl = some 4 then 6 else 1) peer f
      { slot := k.fslot, crd := k.forg.map Int.ofNat, mesh := none } k.fval
    startCmd h rows (if k.noflag then none else some fp) fl (d.place, f.place)) s

/-! Collectives (R258, R259). -/

/-- The coordinates of a mesh that agree with one outside the axes of a mask, in group-index order (R103). -/
def groupCoords (msh m : Word) (axes : List Nat) : List Word :=
  let n (a : Nat) : Nat := if axes.contains a then axisSize msh a else 1
  let v (a i : Nat) : Nat := if axes.contains a then i else axis m a
  (List.range (n 0)).flatMap fun i => (List.range (n 1)).flatMap fun j => (List.range (n 2)).map fun k =>
    meshWord (v 0 i) (v 1 j) (v 2 k)

/-- The peers of a group, in group-index order. -/
def DCtx.groupPeers (d : DCtx) (axes : List Nat) : List (Nat × Nat) := (groupCoords d.msh d.mco axes).map d.peerOf

/-- The lengths of the source and destination runs (R258). -/
def collSrc (k n g : Nat) : Nat := if k ≥ 2 then g * n else n
def collDst (k n g : Nat) : Nat := if k = 1 ∨ k = 3 then g * n else n

/-- Elements as bytes, each in as many as its format takes. -/
def fluxBytes (fmt : Nat) (l : List (Nat × Tag)) : List Byte := l.flatMap fun x => toBytes (cdiv (fmtBits fmt) 8) x.1

/-- A packet of a flux engine toward a member: elements of a format with the tags of their granules. -/
def fluxPkt (s : State) (dev dctx : Nat) (peer : Nat × Nat) (seq : Nat) (msg : FluxMsg) (fmt : Nat) (data : List (Nat × Tag)) : Pkt :=
  { Pkt.zero with ty := 12, src := s.net.fpeer, ssub := dev, dst := peer.1, dsub := peer.2, ctx := dctx, seq := seq,
                  data := fluxBytes fmt data, tags := data.map fun x => some x.2, flux := msg }

/-- A collective taken up by the flux engine (R259): its call count advances, and its first packets go to every other
member. -/
def State.startColl (s : State) (x : Coll) : State :=
  let id := s.clk.tick
  let s := s.bump.modDc x.dev x.dctx fun d =>
    let w := (mfind d.chan x.chan).getD (0, 0)
    { d with chan := mins d.chan x.chan (w.1, BitVec.ofNat 64 x.count) }
  let s := { s with colls := mins s.colls id x }
  let s := x.peers.zipIdx.foldl (fun s p =>
    if p.2 = x.me then s
    else s.send (fluxPkt s x.dev x.dctx p.1 x.count (.collFirst x.chan x.k x.n x.chunk) x.src.fmt [])) s
  s.sched 1 (.collStart id)

/-- A collective read from its block and checked (R258; R102 for its members, assumption log 22): the words, the channel as its index in the channel table, and
the boxes through a function of the slot. -/
def collOf (s : State) (dev dctx : Nat) (box : Nat → Desc) (k : Nat) (w : Nat → Word) (chan : Nat) : Except Bad Coll := do
  let d := s.dc dev dctx
  let (c0, c1) := (mfind d.chan chan).getD (0, 0)
  let n := fld (w 3) 15 0
  let chunk := fld (w 3) 47 32
  let src := box (fld (w 0) 11 8)
  let inpl := bitOf (w 0) 4
  let dslot := if inpl then fld (w 0) 11 8 else fld (w 0) 15 12
  let dst := box dslot
  let ctr := box (fld (w 0) 19 16)
  let ill : Except Bad Unit := .error (3, [])
  if fld (w 0) 63 20 ≠ 0 ∨ fld (w 0) 7 5 ≠ 0 ∨ fld (w 3) 63 48 ≠ 0 ∨ fld (w 3) 31 16 ≠ 0 then ill
  if n = 0 ∨ chunk = 0 ∨ chunk % fmtPer src.fmt ≠ 0 ∨ (inpl ∧ k ≠ 0) then ill
  if !bitOf c0 63 ∨ fld c0 62 61 ≠ 3 then ill
  if src.fmt ≠ dst.fmt ∨ ctr.fmt ≠ 11 ∨ ((k = 0 ∨ k = 2) ∧ fmtTagged src.fmt) then .error (2, [])
  let axes := maskAxes (fld c0 34 32)
  if (d.groupPeers axes).any fun q => !s.peerUp q.1 then .error (0x0F, [])
  pure { h := none, q := none, dev := dev, dctx := dctx, chan := chan, k := k, n := n, chunk := chunk,
         ord := if bitOf (w 0) 3 then 1 else 0, count := c1.toNat + 1, me := groupIndex d.msh d.mco axes,
         g := groupSize d.msh axes, src := src, sorg := quad (w 1), dst := dst,
         dorg := if inpl then quad (w 1) else quad (w 2), ctr := ctr, corg := quad (w 4), peers := d.groupPeers axes,
         acq := none, firsts := [], parts := [], susp := none, refused := false, final := 0, going := false }

/-- The windows of a collective's runs: slot, origin, extent and whether it is written (R258). -/
def collRuns (x : Coll) (w0 : Word) : List (Nat × List Nat × List Nat × Bool) :=
  let dslot := if bitOf w0 4 then fld w0 11 8 else fld w0 15 12
  [(dslot, x.dorg, [collDst x.k x.n x.g, 1, 1, 1], true), (fld w0 11 8, x.sorg, [collSrc x.k x.n x.g, 1, 1, 1], false),
   (fld w0 19 16, x.corg, [cdiv (collDst x.k x.n x.g) x.chunk, 1, 1, 1], true)]

/-- A collective issued by a context. -/
def mColl (k : Nat) (g : Guard) (v : BitVec 5) (fl : EFlags) (s : State) : Host.Outcome State Fault Refusal :=
  slotOp .t g (fun h => do
    let c ← ctxM h
    needM (c.lvl ≥ 2) 2
    let ws ← blockWords h v .t 0 5
    needM (flagsOk fl) 3 10
    let w (i : Nat) : Word := ws.getD i 0
    match c.task, c.chan (fld (w 0) 2 0) with
    | some t, some ch =>
      let s ← getM
      let x ← liftM' (collOf s t.dev t.dctx c.box k w ch)
      (collRuns x (w 0)).forM fun (sl, o, e, wr) => liftM' (slotWindow s c sl none o e !wr)
      (collRuns x (w 0)).forM fun (sl, _, _, wr) => needM (!wr || (c.box sl).acc != 0) 0x0D 0 [(0x00A, bxfOf 0 0 sl 0 4)]
      (collRuns x (w 0)).forM fun (sl, o, e, wr) => needM (slotAligned s c sl none o e !wr) 0x13
      (collRuns x (w 0)).forM fun (sl, _, _, wr) => if wr then convWriteM h (c.box sl) else pure ()
      (collRuns x (w 0)).forM fun (sl, o, e, wr) => windowPages h (c.box sl) [rowCrd o (0, 0, 0)] (e.getD 0 0) wr
      if c.wc.cp ≥ classMax then stallM 5
      else
        modM h fun c => { c with wc := { c.wc with cp := c.wc.cp + 1 }, q := { c.q with seq := c.q.seq + 1 } }
        updM fun s => s.startColl { x with h := some h, acq := (s.ctx h).cmdAcq (flAcq fl) }
    | _, _ => trapM 3 0) s

def execCollAllreduce (g : Guard) (v : BitVec 5) (fl : EFlags) (s : State) := mColl 0 g v fl s
def execCollAllgather (g : Guard) (v : BitVec 5) (fl : EFlags) (s : State) := mColl 1 g v fl s
def execCollReducescatter (g : Guard) (v : BitVec 5) (fl : EFlags) (s : State) := mColl 2 g v fl s
def execCollAlltoall (g : Guard) (v : BitVec 5) (fl : EFlags) (s : State) := mColl 3 g v fl s

/-! Placement from the T slot (R109, R261). -/

/-- The entry of a slot's box, which must be a system box. -/
def placeM (h : Nat) (bx : BitVec 4) : M (Desc × Task × PlEnt) := do
  let c ← ctxM h
  let b := c.box bx.toNat
  needM (b.level == 3) 2
  let s ← getM
  match c.task with
  | none => trapM 2
  | some t => pure (b, t, s.entry t.dev t.dctx b)

/-- `place.q` (R261). -/
def execPlaceQ (g : Guard) (d : BitVec 5) (bx : BitVec 4) (s : State) : Host.Outcome State Fault Refusal :=
  slotOp .t g (fun h => do
    let (_, _, e) ← placeM h bx
    latchM h .t 1 [.bytes (8 * d.toNat) (toBytes 8 e.w0.toNat)] d.toNat) s

/-- A malformed axis state (R107). -/
def axisBad (x : Nat) : Bool := x / 4 == 3 || (x / 4 != 0 && x % 4 != 0)

/-- Whether an axis is declared (R100). -/
def axisDeclared (msh : Word) (a : Nat) : Bool := a < fld msh 35 34

/-- `place.d` (R109). -/
def execPlaceD (g : Guard) (a : Opnd) (bx : BitVec 4) (s : State) : Host.Outcome State Fault Refusal :=
  slotOp .t g (fun h => do
    let v ← rdScalar h a 0
    let (b, t, e) ← placeM h bx
    let s ← getM
    let msh := (s.dc t.dev t.dctx).msh
    let cur := fld v 11 0
    needM ((v &&& 0xDFFFFFFFFFFFF000) == 0) 3 0
    needM ([0, 1, 2].all fun k =>
      let x := axisState cur k
      !axisBad x && (x / 4 != 0 || x < b.rank) && (axisDeclared msh k || x == 4)) 3 0
    needM (!fmtTagged b.fmt || [0, 1, 2].all fun k => axisState cur k != 8) 2
    let (q, m) := match e.conv with | some k => (k.seq, k.mask) | none => (fld e.w1 63 32, 0)
    needM (!e.cip) 0x10 0 [(0x00C, plfOf q 0 m 2 b.place)]
    let w0 := atBit 1 63 ||| (v &&& 0x2000000000000FFF) ||| atBit ((e.ver + 1) % 65536) 32
    updM fun s => s.modDc t.dev t.dctx fun d => { d with place := mins d.place b.place { e with w0 := w0 } }) s

/-! Timed requests (R262, R264, R328). -/

/-- `ckpt` (R262, R370): the first request for a time arms the checkpoint, later ones join it. -/
def execCkpt (g : Guard) (d : BitVec 5) (t : Opnd) (s : State) : Host.Outcome State Fault Refusal :=
  slotOp .t g (fun h => do
    let x ← rdScalar h t 1
    let c ← ctxM h
    needM (c.lvl == 3) 2
    if c.wc.cp ≥ classMax then stallM 5
    else
      let s ← getM
      match c.task with
      | none => pure ()
      | some k =>
        let dc := s.dc k.dev k.dctx
        let when' := if x.toNat < (s.now k.dev).toNat + ns20 then s.now k.dev + BitVec.ofNat 64 ns20 else x
        let refused := fld (mget 0 dc.ckcfg 0) 47 12 == 0 || fld (mget 0 dc.ckcfg 1) 47 12 == 0
        let num ← (match dc.timed.find? fun e => e.kind == 3 && e.t == when' && !e.done with
          | some e => do
            updM fun s => s.modDc k.dev k.dctx fun z =>
              { z with timed := z.timed.map fun y => if y = e then { y with who := y.who ++ [h] } else y }
            pure e.num
          | none => do
            let e := { Timed.new (if refused then 6 else 3) when' (dc.evnum + 1) with who := [h] }
            updM fun s => if refused then s.armTimed k.dev k.dctx e else s.armSpan k.dev k.dctx e
            pure e.num)
        modM h fun c => { c with wc := { c.wc with cp := c.wc.cp + 1 } }
        latchM h .t 1 [.bytes (8 * d.toNat) (toBytes 8 num)] d.toNat) s

/-- `tpre` (R264). -/
def execTpre (g : Guard) (t : Opnd) (s : State) : Host.Outcome State Fault Refusal :=
  slotOp .t g (fun h => do
    let x ← rdScalar h t 1
    let c ← ctxM h
    let s ← getM
    needM (s.priv c) 4
    match c.task with
    | none => pure ()
    | some k =>
      updM fun s => s.armSpan k.dev k.dctx (Timed.new 2 x ((s.dc k.dev k.dctx).evnum + 1))) s

end Sys2Proof.Machine
end

