-- ==== Sys2Proof/Machine/Place.lean ====
section
/-! DEFINITION. Demanding loads and shard stores (R110 to R116, R247, R248): the checks of a demand, the start of a
conversion on a device, `ldp` and `stp`. -/

namespace Sys2Proof.Machine

/-! Demands (R110, R111). -/

/-- A target state: the demand's fields on the masked axes, the current ones elsewhere (R110). -/
def fullTarget (cur mask tgt : Nat) : Nat :=
  (List.range 3).foldl (fun r a => r + 16 ^ a * (if mask / 2 ^ a % 2 = 1 then axisState tgt a else axisState cur a)) 0

/-- The fields of the masked axes alone. -/
def maskedTarget (mask tgt : Nat) : Nat := fullTarget 0 mask tgt

/-- Check 1 of R111 of a demand word. -/
def demandWordOk (msh : Word) (rank : Nat) (w : Word) : Bool :=
  fld w 63 15 == 0 && fld w 14 12 != 0 &&
  (maskAxes (fld w 14 12)).all fun a =>
    let x := axisState (fld w 11 0) a
    axisDeclared msh a && !axisBad x && (x / 4 != 0 || x < rank)

/-- Check 2 of R111 of a demand on an entry. -/
def demandLegal (b : Desc) (e : PlEnt) (mask tgt : Nat) : Bool :=
  b.level == 3 && e.valid &&
  (maskAxes mask).all fun a => axisState tgt a != 8 || (axisState e.cur a == 8 && !fmtTagged b.fmt)

/-- Whether a conversion carries anything between members: a change from R to S moves nothing, unless it splits a dimension
further that another masked axis shards (R114). -/
def convTraffic (cur mask tgt : Nat) : Bool :=
  (maskAxes mask).any fun a =>
    let x := axisState cur a
    x != 4 && (x != axisState tgt a || (maskAxes mask).any fun b => axisState cur b == 4 && axisState tgt b == x)

/-- plf of a demand that differs from the one in progress (R111 check 3). -/
def demandPlf (e : PlEnt) (place : Nat) : Word :=
  match e.conv with
  | some k => plfOf k.seq 0 k.mask 1 place
  | none => plfOf (fld e.w1 63 32) 0 0 1 place

/-- The checks 1 to 3 of R111; the full target is the answer. -/
def demandCheck (msh : Word) (b : Desc) (e : PlEnt) (w : Word) (own : Bool) : Except Bad Nat :=
  let mask := fld w 14 12
  let full := fullTarget e.cur mask (fld w 11 0)
  if !demandWordOk msh b.rank w then .error (3, [])
  else if !(demandLegal b e mask (fld w 11 0) && own) then .error (2, [])
  else if e.cip && !((match e.conv with | some k => k.mask == mask | none => false) && full == e.tgt) then
    .error (0x10, [(0x00C, demandPlf e b.place)])
  else .ok full

/-- Whether every member that a demand would exchange anything with is a peer of the partition (R102, R332); assumption log
22. -/
def State.membersUp (s : State) (d : DCtx) (e : PlEnt) (mask full : Nat) : Bool :=
  e.cip || !convTraffic e.cur mask full || (d.groupPeers (maskAxes mask)).all fun q => s.peerUp q.1

/-- A conversion started on a device (R111, R113): the sequence number taken, CIP, TGT and SEQ written, and the first
packet sent to every other member where the conversion carries anything. -/
def State.startConv (s : State) (dev dctx : Nat) (b : Desc) (mask full : Nat) (w : Waiter) : State :=
  let d := s.dc dev dctx
  let e := s.entry dev dctx b
  let q := (mget 0 d.seqc mask + 1) % 2 ^ 32
  let axes := maskAxes mask
  let me := groupIndex d.msh d.mco axes
  let f : First := { seq := q, place := b.place, mask := mask, tgt := maskedTarget mask full, cur := e.cur, ord := e.ord }
  let k : Conv := { mask := mask, tgt := full, seq := q, desc := b, firsts := mins [] me f, wait := [w], going := false,
                    parts := [], susp := none, refused := false, hit := [] }
  let e' : PlEnt := { w0 := putFld e.w0 59 48 full ||| atBit 1 62, w1 := putFld e.w1 63 32 q, conv := some k }
  let s := s.modDc dev dctx fun d => { d with seqc := mput 0 d.seqc mask q, place := mins d.place b.place e' }
  let s := (d.groupPeers axes).zipIdx.foldl (fun s p =>
    if p.2 = me ∨ !convTraffic e.cur mask full then s
    else s.send (fluxPkt s dev dctx p.1 q (.convFirst b.place mask f.tgt e.cur e.ord) b.fmt [])) s
  s.sched 1 (.conversionStart dev dctx b.place)

/-- A demand taken up: it joins the conversion in progress, or starts one (R111). -/
def State.demand (s : State) (dev dctx : Nat) (b : Desc) (mask full : Nat) (w : Waiter) : State :=
  let e := s.entry dev dctx b
  match e.conv with
  | some k => s.modDc dev dctx fun d => { d with place := mins d.place b.place { e with conv := some { k with wait := k.wait ++ [w] } } }
  | none => s.startConv dev dctx b mask full w

/-- A load that waits for a conversion, put into the load queue; its number is the answer. -/
def enqConv (h : Nat) (ps : List Piece) (fin : LoadFin) (lat code : Nat) : M Nat := do
  countLd h
  let seq ← seqM h
  let tok ← latchAs h .m lat [] code false false
  let a : Acc := { tok := tok, seq := seq, kind := .load, acq := some 4, rel := none, conv := none, ps := ps }
  modM h fun c => { c with q := { c.q with lq := c.q.lq ++ [a], pend := c.q.pend ++ [{ tok := tok, fin := fin }] } }
  pure tok

/-- The pieces of one element of any format, and how it lands (R236, R247): a tagged code comes from its granule. -/
def codePieces (h : Nat) (d : BitVec 5) (b : Desc) (p : RPath) : M (List Piece × LoadFin) := do
  if fmtTagged b.fmt then
    let c (i : Nat) : Nat := (p.crd.getD i 0).toNat
    let ps ← runBad fun s => s.piecesOf h b false [(b.granLoc (c 0) (c 1) (c 2) (c 3), 64)]
    pure (ps, .code d (elemBit b.fmt (c 0 % fmtPer b.fmt)) (fmtBits b.fmt))
  else
    let ps ← runBad fun s => s.runPieces h b p.crd 1 false
    pure (ps, .scalar d (fmtBytes b.fmt) (extTop b.fmt))

/-- `ldp` (R247). -/
def execLdp (g : Guard) (d : BitVec 5) (path : Path) (s : State) : Host.Outcome State Fault Refusal :=
  slotOp .m g (fun h => do
    needM (d != 0) 3 0
    let c ← ctxM h
    let w := c.g d
    let (b, p) ← boxM h path
    let s ← getM
    match c.task with
    | none => trapM 2
    | some t =>
      let dc := s.dc t.dev t.dctx
      let e := s.entry t.dev t.dctx b
      let full ← liftM' (demandCheck dc.msh b e w (ownMesh s c p))
      liftM' (pathCheck s c b p)
      liftM' (crdCheck p.slot b.fmt (shardExts dc.msh dc.mco b full) p.crd 1)
      needM (s.membersUp dc e (fld w 14 12) full) 0x0F
      let (ps, fin) ← codePieces h d b p
      if full = e.cur ∧ !e.cip then enqLoad h ps .load none fin (loadLat b.level 1) d.toNat
      else
        let tok ← enqConv h ps fin (loadLat b.level 1) d.toNat
        updM fun s => s.demand t.dev t.dctx b (fld w 14 12) full (.ldp h tok)) s

/-- The peers that hold a replica of a tensor: the group over the axes whose state is R, without this device (R248). -/
def DCtx.replicas (d : DCtx) (cur : Nat) : List (Nat × Nat) :=
  let axes := [0, 1, 2].filter fun a => axisState cur a == 4
  let me := groupIndex d.msh d.mco axes
  ((d.groupPeers axes).zipIdx.filter fun x => x.2 != me).map (·.1)

/-- The packets and pieces of an `stp` enter the store queue as one entry. -/
def stpEnq (h : Nat) (b : Desc) (ps : List Piece) (pk : State → Nat × Nat → List Pkt) : M Unit := do
  let s ← getM
  let c ← ctxM h
  let e := match c.task with | some t => s.entry t.dev t.dctx b | none => PlEnt.zero
  let peers := (s.taskDc c).replicas e.cur
  needM (peers.all fun q => s.peerUp q.1) 0x0F
  heldM h
  if peers.isEmpty then enqStore h ps .store none
  else
    enqStore h ps (.remote (peers.flatMap (pk s)) b.place false) none

/-- The conditions of R248 on the box of an `stp`. -/
def stpCheck (h : Nat) (b : Desc) (p : RPath) (fmtOk : Bool) : M Unit := do
  needM (p.mesh.isNone) 3 8
  let s ← getM
  let c ← ctxM h
  let e := match c.task with | some t => s.entry t.dev t.dctx b | none => PlEnt.zero
  needM (fmtOk && b.level == 3 && e.valid) 2

/-- `stp` (R248). -/
def execStp (g : Guard) (a : Opnd) (path : Path) (s : State) : Host.Outcome State Fault Refusal :=
  slotOp .m g (fun h => do
    let c ← ctxM h
    match a with
    | .w n =>
      if noGrant c then pure ()
      else
        let v ← viewM h .m n false 0
        let (b, p) ← boxM h path
        needM (v.fmt == b.fmt) 3 0
        stpCheck h b p true
        let (run, rows) := grantOf c v
        let c0 := p.crd.getD 0 0
        let l ← accessM h b p run rows true (blockAligned b.fmt c0 run)
        stpEnq h b (storePieces c v c0 run l) fun s q => viewPkts s h q b p v run rows
    | a =>
      let x ← rdScalar h a 0
      let (b, p) ← boxM h path
      stpCheck h b p (fmtRaw b.fmt)
      let l ← accessM h b p 1 1 true true
      stpEnq h b (l.flatten.map fun y => { y with data := lowBytes x (fmtBytes b.fmt) }) fun s q => [scalarPkt s h 1 q b p x]) s

end Sys2Proof.Machine
end

