-- ==== Sys2Proof/Machine/Vector.lean ====
section
/-! DEFINITION. The V slot (R265 to R279): the checks and lanes of the swage, and every vector operation. -/

namespace Sys2Proof.Machine

/-! Sources and destinations (R265, R266, R268). -/

/-- What the checks read of a source before anything is popped: its format, none where it fits every format, its
extent, whether it is one row, and whether it must hold the active columns. -/
structure Meta where
  fmt    : Option Nat
  rows   : Nat
  cols   : Nat
  strict : Bool

/-- The format of a bypass row; one that no result has left fits every format. -/
def rowFmt (r : Row) : Option Nat := if r.fmt = 32 then none else some r.fmt

/-- The shape of a source operand (R265). -/
def metaM (h : Nat) (sl : Slot) (o : Opnd) (stepped : Bool) (field : Nat) : M Meta := do
  let c ← ctxM h
  match o with
  | .w n => let v ← viewM h sl n stepped field; pure { fmt := some v.fmt, rows := v.rows, cols := v.cols, strict := false }
  | .rp n =>
    match mget none c.q.ag n.toNat with
    | none => trapM 3 field
    | some g =>
      needM (!g.past) 3 field
      pure { fmt := some (c.box (parBox g.par)).fmt, rows := 1, cols := parWid g.par, strict := false }
  | .vb n =>
    let r := if n = 0 then c.byp.vb0 else c.byp.vb1
    pure { fmt := rowFmt r, rows := 1, cols := (srcOfRow r 0).cols, strict := r.fmt != 32 }
  | .xb => pure { fmt := rowFmt c.byp.xb, rows := 1, cols := (srcOfRow c.byp.xb 0).cols, strict := c.byp.xb.fmt != 32 }
  | .ch n =>
    let r ← chanM h n field
    needM (r.kind == 1 || r.kind == 2) 3 field
    pure { fmt := some r.fmt, rows := 1, cols := r.cols, strict := true }
  | _ => pure { fmt := none, rows := 1, cols := 512, strict := false }

/-- A source of an operation of a format and a number of active columns passes check 1 of R268. -/
def Meta.fits (x : Meta) (fmt cols : Nat) : Bool :=
  (match x.fmt with | none => true | some f => f == fmt) && (!x.strict || x.cols ≥ cols)

/-- A channel source that holds no element blocks the issue before anything is late (R151, R174). -/
def itemsM (h : Nat) (os : List Opnd) : M Unit :=
  os.forM fun o =>
    match o with
    | .ch n => do
      let r ← chanM h n 0
      let s ← getM
      if ((mfind (s.dc r.dev r.dctx).chq r.idx).getD []).isEmpty then blockM (.chEmpty n.toNat) else pure ()
    | _ => pure ()

/-- A small integer as one element of a format (R176). -/
def immBits (fmt : Nat) (v : Int) : Nat :=
  if fmtFloat fmt then (fEncode (ffmt fmt) 0 (fvOfInt v)).1 else wrapTo (fmtBits fmt) v

/-- A source of lanes read at issue: a row source, or a scalar that stands for one element (R176). -/
def lanesM (h : Nat) (sl : Slot) (o : Opnd) (stepped : Bool) (field fmt : Nat) : M Src := do
  match o with
  | .g _ => let x ← rdScalar h o field; pure (srcOfScalar fmt (x.toNat % 2 ^ fmtBits fmt))
  | .sb _ => let x ← rdScalar h o field; pure (srcOfScalar fmt (x.toNat % 2 ^ fmtBits fmt))
  | .imm n => pure (srcOfScalar fmt (immBits fmt (immVal n)))
  | o => rowSrc h sl o stepped field fmt

/-- Whether a lane lies inside a source. -/
def Src.inside (x : Src) (row col : Nat) : Bool := col < x.cols && (x.one || row < x.rows)

/-- The active lanes and the mask of an operation (R266): active rows and columns, the enabled lanes, MP and TP. -/
structure Grid where
  rows : Nat
  cols : Nat
  en   : Nat → Nat → Bool
  mp   : Bool
  tp   : Bool

/-- The grid of an operation over an extent. -/
def gridM (h : Nat) (m : VMask) (rows cols : Nat) : M Grid := do
  let en ← maskM h m
  let c ← ctxM h
  pure { rows := min rows (grantRows c), cols := min cols (grantCols c), en := en, mp := bitOf c.sys.sh 22,
         tp := bitOf c.sys.sh 21 }

/-- A channel destination holds the active columns (R265). -/
def dstFits (h : Nat) (o : Opnd) (cols : Nat) : M Unit := do
  match o with
  | .ch n => let r ← chanM h n 0; needM ((r.kind == 0 || r.kind == 2) && r.cols ≥ cols) 3 0
  | _ => pure ()

/-- The checks of every source of an operation against its format and active columns (R268 check 1). -/
def fitAll (ms : List Meta) (fmt cols field : Nat) : M Unit :=
  ms.zipIdx.forM fun x => needM (x.1.fits fmt cols) 3 (field + x.2)

/-- The shapes of the sources from operand `field` on. -/
def metasM (h : Nat) (sl : Slot) (st : BitVec 4) (field : Nat) : List Opnd → M (List Meta)
  | [] => pure []
  | o :: os => do
    let x ← metaM h sl o (flagAt st field) field
    let l ← metasM h sl st (field + 1) os
    pure (x :: l)

/-- The lanes of the sources from operand `field` on, read in operand order (R174). -/
def srcsM (h : Nat) (sl : Slot) (st : BitVec 4) (fmt field : Nat) : List Opnd → M (List Src)
  | [] => pure []
  | o :: os => do
    let x ← lanesM h sl o (flagAt st field) field fmt
    let l ← srcsM h sl st fmt (field + 1) os
    pure (x :: l)

/-! Results (R37, R266, R267, R269, R273). -/

/-- The swage taken for a number of rows, a late resource while it is occupied (R267). -/
def swageM (h rows : Nat) : M Unit := do
  let s ← getM
  if s.clk.wall < (s.core (coreOf h)).vfree then stallM 9
  else updM fun s => s.modCore (coreOf h) fun k => { k with vfree := s.clk.wall + rows }

/-- Free bytes, where a result row has lanes that receive nothing; assumption log 2. -/
def freeBytesM : Nat → M (List Byte)
  | 0 => pure []
  | n + 1 => do
    let s ← getM
    updM State.draw
    let l ← freeBytesM n
    pure (Config.freeByte s.clk.frees :: l)

/-- The bytes of a pushed row; lanes that receive nothing are free. -/
def rowOfLanes (sz : Nat) : List Lane → M (List Byte)
  | [] => pure []
  | .val v :: l => do
    let r ← rowOfLanes sz l
    pure (toBytes sz v ++ r)
  | .keep :: l => do
    let x ← freeBytesM sz
    let r ← rowOfLanes sz l
    pure (x ++ r)

/-- The lanes of row `r` of a raw result: values where enabled, zeros where the policies zero (R59, R266). -/
def rawLanes (x : Grid) (d : Dst) (f : Nat → Nat → Nat × Nat) (r : Nat) : List Lane :=
  (List.range d.cols).map fun k =>
    if r < x.rows ∧ k < x.cols then (if x.en r k then .val (f r k).1 else if x.mp then .val 0 else .keep)
    else if x.tp then .val 0 else .keep

/-- The flags of the enabled lanes (R269). -/
def gridFlags (x : Grid) (f : Nat → Nat → Nat × Nat) : Nat :=
  (List.range x.rows).foldl (fun a r => (List.range x.cols).foldl (fun a k => if x.en r k then flOr a (f r k).2 else a) a) 0

/-- The writes of the rows of a result (R265): through a view, a push to a port or a channel, or row 0, column 0 to a
scalar register. `byp` makes the bypass part of a row in register space, `bypRow` of a row pushed to a port, and `bypCh` the
bypass parts of a row pushed to a channel (R175). A channel element is written whole, its tail lanes by TP (R59, R266). -/
def rowsWrs (h : Nat) (o : Opnd) (d : Dst) (rows cols : Nat) (lanes : Nat → List Lane) (byp : Nat → Nat → Nat → Wr)
    (bypRow : Row → Wr) (bypCh : Row → List Wr) : M (List Wr) := do
  let sz := fmtBytes d.fmt
  match o with
  | .wp n =>
    let l := (lanes 0).take cols
    let ws ← pushPortM h n l [0, 0, 0, 0] sz
    let bs ← rowOfLanes sz l
    pure (ws ++ [bypRow { fmt := d.fmt, bytes := bs, tags := [0, 0, 0, 0] }])
  | .g n =>
    (match (lanes 0).head? with
     | some (.val v) => pure [.bytes (8 * n.toNat) (toBytes 8 v)]
     | _ => pure [])
  | .ch n =>
    let r ← reserveCh h n 0
    let l := (lanes 0).take r.cols
    let bs ← rowOfLanes sz (l ++ List.replicate (r.cols - l.length) Lane.keep)
    let tok ← pushM h (8 + n.toNat) (.chPush n.toNat none) []
    pure (.pushCh n.toNat tok { fmt := d.fmt, bytes := bs, tags := [] } ::
      bypCh { fmt := d.fmt, bytes := bs.take (cols * sz), tags := [0, 0, 0, 0] })
  | _ =>
    match d.view with
    | none => pure []
    | some v =>
      pure (((List.range d.rows).flatMap fun r => viewWrs v r (lanes r)) ++
            [byp ((v.base + v.stride * (rows - 1)) * 64) (cols * sz) d.fmt])

/-- The flags of a result as its last part (R269). -/
def flagWrs (fl : Nat) : List Wr := if fl = 0 then [] else [.fsr (BitVec.ofNat 64 fl)]

/-- A raw result of the swage: nothing where no row is active (R267). -/
def putRaw (h : Nat) (o : Opnd) (d : Dst) (x : Grid) (lat : Nat) (f : Nat → Nat → Nat × Nat) : M Unit := do
  if x.rows = 0 then pure ()
  else
    let ws ← rowsWrs h o d x.rows x.cols (rawLanes x d f) Wr.vbAt Wr.vb fun _ => []
    swageM h x.rows
    latchM h .v (lat + x.rows - 1) (ws ++ flagWrs (gridFlags x f)) o.code.toNat

/-- The format mismatch of a block whose tag lies outside its class (R38, R268 check 3). -/
def tagsOk (x : Src) (rows cols : Nat) : Bool :=
  !fmtTagged x.fmt || (List.range rows).all fun r =>
    (List.range (cdiv (min cols x.cols) (fmtPer x.fmt))).all fun b =>
      !(x.one || r < x.rows) || codeInClass x.fmt (tagCode (x.tag r b))

/-- The elements of a block packed into a granule (R36, R273). -/
def packBlock (fmt : Nat) (codes : List Nat) : List Byte :=
  toBytes 64 ((codes.zipIdx.map fun x => x.1 % 2 ^ fmtBits fmt * 2 ^ elemBit fmt x.2).foldl (· + ·) 0)

/-- One block of a tagged result: its elements, its tag and its flags. -/
abbrev Block := List Nat × Tag × Nat

/-- A tagged result through a view: every block that holds an active lane is written whole (R273). -/
def putTagged (h : Nat) (o : Opnd) (d : Dst) (x : Grid) (lat : Nat) (blk : Nat → Nat → Block) : M Unit := do
  match d.view with
  | none => trapM 3 0
  | some v =>
    if x.rows = 0 then pure ()
    else
      let n := cdiv x.cols (fmtPer d.fmt)
      let all := (List.range x.rows).map fun r => (List.range n).map fun j => blk r j
      let ws := all.zipIdx.flatMap fun (l, r) => l.zipIdx.flatMap fun (b, j) =>
        let gr := v.base + v.stride * r + j
        [Wr.bytes (gr * 64) (packBlock d.fmt b.1), Wr.tag gr b.2.1]
      let fl := all.flatten.foldl (fun a b => flOr a b.2.2) 0
      swageM h x.rows
      latchM h .v (lat + x.rows - 1)
        (ws ++ [.vbAt ((v.base + v.stride * (x.rows - 1)) * 64) (64 * n) d.fmt] ++ flagWrs fl) o.code.toNat

/-! The element-wise mould (R270, R271). -/

/-- An operation whose sources have the format of its destination: `ok` tells the formats it is defined on, `lat` its
latency by format, and `f` the result and flags of a lane. -/
def vLanewise (ok : Nat → Bool) (lat : Nat → Nat) (f : Nat → List Nat → Nat × Nat) (g : Guard) (d : Opnd) (srcs : List Opnd)
    (m : VMask) (s : State) : Host.Outcome State Fault Refusal :=
  slotOp .v g (fun h => do
    let dst ← dstM h .v d (flagAt m.st 0)
    let ms ← metasM h .v m.st 1 srcs
    let x ← gridM h m dst.rows dst.cols
    fitAll ms dst.fmt x.cols 1
    dstFits h d x.cols
    needM (ok dst.fmt) 2
    itemsM h srcs
    let ls ← srcsM h .v m.st dst.fmt 1 srcs
    putRaw h d dst x (lat dst.fmt) fun r k => f dst.fmt (ls.map fun l => l.at r k)) s

/-- The latencies of R267. -/
def lat4 (_ : Nat) : Nat := 4
def latFn (f : Nat) : Nat := if f = 0 then 18 else 12
def latDiv (f : Nat) : Nat := if f = 0 then 24 else 16
def latRed (f : Nat) : Nat := if f = 0 then 10 else 8

/-- The formats of R270: F and I; F alone. -/
def fmtFI (f : Nat) : Bool := fmtRaw f

/-- A floating lane result. -/
def fLane (op : FFmt → List FV → Nat × Nat) (f : Nat) (l : List Nat) : Nat × Nat :=
  op (ffmt f) (l.map (fDecode (ffmt f)))

/-- A lane result, floating or integer; integers wrap and set no flag (R270). -/
def fiLane (op : FFmt → List FV → Nat × Nat) (int : List Int → Int) (f : Nat) (l : List Nat) : Nat × Nat :=
  if fmtFloat f then fLane op f l else (wrapTo (fmtBits f) (int (l.map (intVal f))), 0)

/-- The first three operands of a lane. -/
def op1 (l : List FV) : FV := l.getD 0 (.fin false 0 0)
def op2 (l : List FV) : FV := l.getD 1 (.fin false 0 0)
def op3 (l : List FV) : FV := l.getD 2 (.fin false 0 0)

def execVadd (g : Guard) (rm : BitVec 2) (d b c : Opnd) (m : VMask) (s : State) : Host.Outcome State Fault Refusal :=
  vLanewise fmtFI lat4 (fiLane (fun t l => fAdd t rm.toNat (op1 l) (op2 l)) fun l => l.getD 0 0 + l.getD 1 0) g d [b, c] m s
def execVsub (g : Guard) (rm : BitVec 2) (d b c : Opnd) (m : VMask) (s : State) : Host.Outcome State Fault Refusal :=
  vLanewise fmtFI lat4 (fiLane (fun t l => fAdd t rm.toNat (op1 l) (op2 l).neg) fun l => l.getD 0 0 - l.getD 1 0) g d [b, c] m s
def execVmul (g : Guard) (rm : BitVec 2) (d b c : Opnd) (m : VMask) (s : State) : Host.Outcome State Fault Refusal :=
  vLanewise fmtFI lat4 (fiLane (fun t l => fMul t rm.toNat (op1 l) (op2 l)) fun l => l.getD 0 0 * l.getD 1 0) g d [b, c] m s
def execVfma (g : Guard) (rm : BitVec 2) (d b c e : Opnd) (m : VMask) (s : State) : Host.Outcome State Fault Refusal :=
  vLanewise fmtFloat lat4 (fLane fun t l => fFma t rm.toNat (op1 l) (op2 l) (op3 l)) g d [b, c, e] m s
def execVfms (g : Guard) (rm : BitVec 2) (d b c e : Opnd) (m : VMask) (s : State) : Host.Outcome State Fault Refusal :=
  vLanewise fmtFloat lat4 (fLane fun t l => fFma t rm.toNat (op1 l) (op2 l) (op3 l).neg) g d [b, c, e] m s

/-- The smaller or larger floating value as its code, -0 below +0; a NaN gives the default NaN (R270). -/
def fPick (larger : Bool) (f : Nat) (x y : Nat) : Nat × Nat :=
  let t := ffmt f
  let a := fDecode t x
  let b := fDecode t y
  if a.isNan || b.isNan then nanRes t (a.isSig || b.isSig)
  else (if fvLess a b != larger then x else y, 0)

/-- `vmin` and `vmax` of a lane (R270). -/
def pickLane (larger : Bool) (f : Nat) (l : List Nat) : Nat × Nat :=
  let x := l.getD 0 0
  let y := l.getD 1 0
  if fmtFloat f then fPick larger f x y
  else (if decide (intVal f x < intVal f y) != larger then x else y, 0)

def execVmin (g : Guard) (d b c : Opnd) (m : VMask) (s : State) : Host.Outcome State Fault Refusal :=
  vLanewise fmtFI lat4 (pickLane false) g d [b, c] m s
def execVmax (g : Guard) (d b c : Opnd) (m : VMask) (s : State) : Host.Outcome State Fault Refusal :=
  vLanewise fmtFI lat4 (pickLane true) g d [b, c] m s
def execVdiv (g : Guard) (rm : BitVec 2) (d b c : Opnd) (m : VMask) (s : State) : Host.Outcome State Fault Refusal :=
  vLanewise fmtFloat latDiv (fLane fun t l => fDiv t rm.toNat (op1 l) (op2 l)) g d [b, c] m s

/-- The sign bit of a format. -/
def signBit (f : Nat) : Nat := 2 ^ (fmtBits f - 1)

/-- `vabs` and `vneg` act on the sign bit of a float alone (R270). -/
def absLane (f : Nat) (l : List Nat) : Nat × Nat :=
  let x := l.getD 0 0
  if fmtFloat f then (x % signBit f, 0) else (wrapTo (fmtBits f) (intVal f x).natAbs, 0)
def negLane (f : Nat) (l : List Nat) : Nat × Nat :=
  let x := l.getD 0 0
  if fmtFloat f then (x ^^^ signBit f, 0) else (wrapTo (fmtBits f) (-(intVal f x)), 0)

def execVabs (g : Guard) (d b : Opnd) (m : VMask) (s : State) : Host.Outcome State Fault Refusal :=
  vLanewise fmtFI lat4 absLane g d [b] m s
def execVneg (g : Guard) (d b : Opnd) (m : VMask) (s : State) : Host.Outcome State Fault Refusal :=
  vLanewise fmtFI lat4 negLane g d [b] m s
def execVrcp (g : Guard) (rm : BitVec 2) (d b : Opnd) (m : VMask) (s : State) : Host.Outcome State Fault Refusal :=
  vLanewise fmtFloat latFn (fLane fun t l => fDiv t rm.toNat (.fin false 1 0) (op1 l)) g d [b] m s
def execVsqrt (g : Guard) (rm : BitVec 2) (d b : Opnd) (m : VMask) (s : State) : Host.Outcome State Fault Refusal :=
  vLanewise fmtFloat latFn (fLane fun t l => fSqrt t rm.toNat (op1 l)) g d [b] m s
def execVrsqrt (g : Guard) (rm : BitVec 2) (d b : Opnd) (m : VMask) (s : State) : Host.Outcome State Fault Refusal :=
  vLanewise fmtFloat latFn (fLane fun t l => fRsqrt t rm.toNat (op1 l)) g d [b] m s
def execVexp2 (g : Guard) (rm : BitVec 2) (d b : Opnd) (m : VMask) (s : State) : Host.Outcome State Fault Refusal :=
  vLanewise fmtFloat latFn (fLane fun t l => fExp2 t rm.toNat (op1 l)) g d [b] m s
def execVlog2 (g : Guard) (rm : BitVec 2) (d b : Opnd) (m : VMask) (s : State) : Host.Outcome State Fault Refusal :=
  vLanewise fmtFloat latFn (fLane fun t l => fLog2 t rm.toNat (op1 l)) g d [b] m s

/-! Logic and shifts (R271). -/

/-- A lane result on bits. -/
def bitLane (op : Nat → Nat → Nat → Nat) (f : Nat) (l : List Nat) : Nat × Nat :=
  (op (fmtBits f) (l.getD 0 0) (l.getD 1 0) % 2 ^ fmtBits f, 0)

def execVand (g : Guard) (d b c : Opnd) (m : VMask) (s : State) : Host.Outcome State Fault Refusal :=
  vLanewise fmtRaw lat4 (bitLane fun _ x y => x &&& y) g d [b, c] m s
def execVor (g : Guard) (d b c : Opnd) (m : VMask) (s : State) : Host.Outcome State Fault Refusal :=
  vLanewise fmtRaw lat4 (bitLane fun _ x y => x ||| y) g d [b, c] m s
def execVxor (g : Guard) (d b c : Opnd) (m : VMask) (s : State) : Host.Outcome State Fault Refusal :=
  vLanewise fmtRaw lat4 (bitLane fun _ x y => x ^^^ y) g d [b, c] m s
def execVnot (g : Guard) (d b : Opnd) (m : VMask) (s : State) : Host.Outcome State Fault Refusal :=
  vLanewise fmtRaw lat4 (bitLane fun n x _ => 2 ^ n - 1 - x) g d [b] m s
def execVshl (g : Guard) (d b c : Opnd) (m : VMask) (s : State) : Host.Outcome State Fault Refusal :=
  vLanewise fmtInteger lat4 (bitLane fun n x y => if y ≥ n then 0 else x * 2 ^ y) g d [b, c] m s
def execVshr (g : Guard) (d b c : Opnd) (m : VMask) (s : State) : Host.Outcome State Fault Refusal :=
  vLanewise fmtInteger lat4 (bitLane fun n x y => if y ≥ n then 0 else x / 2 ^ y) g d [b, c] m s
def execVsra (g : Guard) (d b c : Opnd) (m : VMask) (s : State) : Host.Outcome State Fault Refusal :=
  vLanewise fmtInteger lat4 (bitLane fun n x y => wrapTo n (toSigned n x / (2 ^ min y (n - 1) : Nat))) g d [b, c] m s

/-! Conversions (R272 to R274). -/

/-- The element of a tagged source at a lane as a value (R40, R45, R272); +0 outside its extent (R266). -/
def tagVal (x : Src) (r k : Nat) : FV :=
  if x.inside r k then
    let t := x.tag (if x.one then 0 else r) (k / fmtPer x.fmt)
    scaleBy (tagScale t) (nDecode (tagCode t) (x.at r k))
  else .fin false 0 0

/-- The value of a source element of any format. -/
def srcVal (x : Src) (r k : Nat) : FV :=
  if fmtTagged x.fmt then tagVal x r k
  else if fmtFloat x.fmt then fDecode (ffmt x.fmt) (x.at r k)
  else fvOfInt (intVal x.fmt (x.at r k))

/-- One converted element of a raw destination (R272). -/
def cvtRaw (rm : Nat) (f : Nat) (x : Src) (r k : Nat) : Nat × Nat :=
  if fmtFloat f then fEncode (ffmt f) rm (srcVal x r k)
  else if fmtInteger x.fmt then (wrapTo (fmtBits f) (intVal x.fmt (x.at r k)), 0)
  else iEncode f rm (srcVal x r k)

/-- Whether `vcvt` is defined from one format to another (R272). -/
def cvtOk (src dst : Nat) : Bool :=
  if fmtFloat src then true else if fmtInteger src then fmtRaw dst else fmtFloat dst

/-- A block of a conversion: `conv` gives the code and flags of a lane. -/
def cvtBlock (x : Grid) (fmt : Nat) (tag : Tag) (conv : Nat → Nat → Nat × Nat) (r j : Nat) : Block :=
  let l := (List.range (fmtPer fmt)).map fun k =>
    let col := j * fmtPer fmt + k
    if col < x.cols ∧ x.en r col then conv r col else (0, 0)
  (l.map (·.1), tag, l.foldl (fun a y => flOr a y.2) 0)

/-- CSEL names a code of the destination's class, or is 0 for a raw destination (R272). -/
def cselOk (fmt : Nat) (csel : Nat) : Bool :=
  if fmtTagged fmt then (match cselCode csel with | some k => codeInClass fmt k | none => false) else csel == 0

/-- `vcvt` (R272, R273). -/
def execVcvt (g : Guard) (rm : BitVec 2) (d b : Opnd) (csel : BitVec 3) (m : VMask) (s : State) :
    Host.Outcome State Fault Refusal :=
  slotOp .v g (fun h => do
    let dst ← dstM h .v d (flagAt m.st 0)
    let q ← metaM h .v b (flagAt m.st 1) 1
    let x ← gridM h m dst.rows dst.cols
    let sf := q.fmt.getD 0
    needM (!q.strict || q.cols ≥ x.cols) 3 1
    needM (!fmtTagged dst.fmt || dst.view.isSome) 3 0
    dstFits h d x.cols
    needM (cselOk dst.fmt csel.toNat) 3 10
    needM (cvtOk sf dst.fmt) 2
    itemsM h [b]
    let y ← rowSrc h .v b (flagAt m.st 1) 1 sf
    needM (tagsOk y x.rows x.cols) 9
    if fmtTagged dst.fmt then
      let code := (cselCode csel.toNat).getD 0
      putTagged h d dst x 6 (cvtBlock x dst.fmt (mkTag 127 code) fun r k => nEncode code rm.toNat (srcVal y r k))
    else putRaw h d dst x 6 fun r k => cvtRaw rm.toNat dst.fmt y r k) s

/-- MAXF of a code (R274) as m x 2^e. -/
def maxF (code : Nat) : Nat × Int :=
  match nDecode code (nMax code) with
  | .fin _ m e => (m, e)
  | _ => (1, 0)

/-- The largest magnitude of a list of values; none where infinity is among them. -/
def maxMag : List FV → Option (Nat × Int)
  | [] => some (0, 0)
  | v :: l =>
    match v, maxMag l with
    | .fin _ m e, some (m', e') => if magLe m e m' e' then some (m', e') else some (m, e)
    | _, _ => none

/-- The scale exponent of a block (R274). -/
def packScale (code : Nat) (vs : List FV) : Int :=
  match maxMag vs with
  | none => 127
  | some (m, e) =>
    if m = 0 then 0
    else
      let (mm, me) := maxF code
      let s := topExp m e - topExp mm me
      let s := if magLe m e mm (me + s) then s else s + 1
      max (-127) (min 127 s)

/-- One block of `vpack` (R274). -/
def packOf (x : Grid) (fmt code rm : Nat) (y : Src) (r j : Nat) : Block :=
  let n := fmtPer fmt
  let cols := (List.range n).map fun k => j * n + k
  let act := cols.filter fun k => k < x.cols && x.en r k
  let vs := act.map fun k => srcVal y r k
  if vs.any FV.isNan then (List.replicate n 0, mkTag 255 code, flNV)
  else
    let sc := packScale code vs
    let l := cols.map fun k =>
      if k < x.cols ∧ x.en r k then
        nEncode code rm (match srcVal y r k with | .fin neg mm e => FV.fin neg mm (e - sc) | v => v)
      else (0, 0)
    (l.map (·.1), mkTag (127 + sc).toNat code, l.foldl (fun a z => flOr a z.2) 0)

/-- `vpack` (R274). -/
def execVpack (g : Guard) (rm : BitVec 2) (d b : Opnd) (csel : BitVec 3) (m : VMask) (s : State) :
    Host.Outcome State Fault Refusal :=
  slotOp .v g (fun h => do
    let dst ← dstM h .v d (flagAt m.st 0)
    let q ← metaM h .v b (flagAt m.st 1) 1
    let x ← gridM h m dst.rows dst.cols
    let sf := q.fmt.getD 0
    needM (!q.strict || q.cols ≥ x.cols) 3 1
    needM (!fmtTagged dst.fmt || dst.view.isSome) 3 0
    needM (cselOk dst.fmt csel.toNat) 3 10
    needM (fmtFloat sf && fmtTagged dst.fmt) 2
    itemsM h [b]
    let y ← rowSrc h .v b (flagAt m.st 1) 1 sf
    putTagged h d dst x 6 (packOf x dst.fmt ((cselCode csel.toNat).getD 0) rm.toNat y)) s

/-! Reductions (R275, R51). -/

/-- The sum of floating lanes in ascending order, rounded at each step (R51). -/
def sumGo (t : FFmt) (rm : Nat) : List Nat → Nat → Nat → Nat × Nat
  | [], acc, fl => (acc, fl)
  | x :: l, acc, fl =>
    let (v, f) := fAdd t rm (fDecode t acc) (fDecode t x)
    sumGo t rm l v (flOr fl f)

/-- `vsum` of the enabled lanes of a row. -/
def sumRow (rm f : Nat) (l : List Nat) : Nat × Nat :=
  if fmtFloat f then (match l with | [] => (0, 0) | x :: l => sumGo (ffmt f) rm l x 0)
  else (wrapTo (fmtBits f) ((l.map (intVal f)).foldl (· + ·) 0), 0)

/-- `vmaxr` of the enabled lanes of a row: the least value for none, the default NaN where a NaN is among them. -/
def maxRow (f : Nat) (l : List Nat) : Nat × Nat :=
  match l with
  | [] => (if fmtFloat f then fInf (ffmt f) true else wrapTo (fmtBits f) (intMin f), 0)
  | x :: l =>
    if fmtFloat f then
      let vs := (x :: l).map (fDecode (ffmt f))
      if vs.any FV.isNan then nanRes (ffmt f) (vs.any FV.isSig)
      else (l.foldl (fun a y => (fPick true f a y).1) x, 0)
    else (l.foldl (fun a y => (pickLane true f [a, y]).1) x, 0)

/-- A row reduction (R275): each active row of the destination receives its result in column 0. -/
def vReduce (red : Nat → List Nat → Nat × Nat) (g : Guard) (d b : Opnd) (m : VMask) (s : State) :
    Host.Outcome State Fault Refusal :=
  slotOp .v g (fun h => do
    let dst ← dstM h .v d (flagAt m.st 0)
    let q ← metaM h .v b (flagAt m.st 1) 1
    let x ← gridM h m dst.rows q.cols
    let f := q.fmt.getD dst.fmt
    needM (match d with | .wp _ => false | .g _ => true | _ => dst.fmt == f) 3 0
    dstFits h d 1
    needM (fmtRaw f) 2
    itemsM h [b]
    let y ← rowSrc h .v b (flagAt m.st 1) 1 f
    let res (r : Nat) : Nat × Nat :=
      red f (((List.range x.cols).filter (x.en r)).map fun k => y.at r k)
    if x.rows = 0 then pure ()
    else
      let lanes (r : Nat) : List Lane := if r < x.rows then [.val (res r).1] else []
      let ws ← rowsWrs h d { dst with fmt := f } x.rows 1 lanes Wr.vbAt Wr.vb fun _ => []
      swageM h x.rows
      let fl := (List.range x.rows).foldl (fun a r => flOr a (res r).2) 0
      latchM h .v (latRed f + x.rows - 1) (ws ++ flagWrs fl) d.code.toNat) s

def execVsum (g : Guard) (rm : BitVec 2) (d b : Opnd) (m : VMask) (s : State) : Host.Outcome State Fault Refusal :=
  vReduce (sumRow rm.toNat) g d b m s
def execVmaxr (g : Guard) (d b : Opnd) (m : VMask) (s : State) : Host.Outcome State Fault Refusal :=
  vReduce maxRow g d b m s

/-! Compares, selects and tests (R276 to R278). -/

/-- `vcmp` (R276). -/
def execVcmp (g : Guard) (cc : BitVec 3) (d b c : Opnd) (m : VMask) (s : State) : Host.Outcome State Fault Refusal :=
  slotOp .v g (fun h => do
    let dst ← dstM h .v d (flagAt m.st 0)
    let q ← metaM h .v b (flagAt m.st 1) 1
    let p ← metaM h .v c (flagAt m.st 2) 2
    let x ← gridM h m dst.rows dst.cols
    let f := q.fmt.getD (p.fmt.getD dst.fmt)
    needM (q.fits f x.cols) 3 1
    needM (p.fits f x.cols) 3 2
    needM (fmtRaw dst.fmt && fmtBits dst.fmt == fmtBits f) 3 0
    dstFits h d x.cols
    needM (fmtRaw f) 2
    itemsM h [b, c]
    let y ← rowSrc h .v b (flagAt m.st 1) 1 f
    let z ← lanesM h .v c (flagAt m.st 2) 2 f
    putRaw h d dst x 4 fun r k =>
      let (t, fl) :=
        if fmtFloat f then fvCond cc.toNat (fDecode (ffmt f) (y.at r k)) (fDecode (ffmt f) (z.at r k))
        else (ordCond cc.toNat (intVal f (y.at r k)) (intVal f (z.at r k)), 0)
      (if t then 2 ^ fmtBits dst.fmt - 1 else 0, fl)) s

/-- `vsel` (R277): the selector is a view of any raw format. -/
def execVsel (g : Guard) (d : Opnd) (q : BitVec 5) (c e : Opnd) (m : VMask) (s : State) : Host.Outcome State Fault Refusal :=
  slotOp .v g (fun h => do
    let dst ← dstM h .v d (flagAt m.st 0)
    let v ← viewM h .v q (flagAt m.st 1) 1
    let ms ← metasM h .v m.st 2 [c, e]
    let x ← gridM h m dst.rows dst.cols
    needM (fmtRaw v.fmt) 3 1
    fitAll ms dst.fmt x.cols 2
    dstFits h d x.cols
    needM (fmtRaw dst.fmt) 2
    itemsM h [c, e]
    let k0 ← ctxM h
    let ls ← srcsM h .v m.st dst.fmt 2 [c, e]
    let sel := srcOfView k0 v
    putRaw h d dst x 4 fun r k =>
      (((ls.map fun l => l.at r k).getD (if sel.at r k != 0 then 0 else 1) 0), 0)) s

/-- `vany` (R278): the test over the enabled lanes, pushed to cq; a KIND that names no test fails check 1 of R268. -/
def vAny (ok : Bool) (test : List Bool → Option Bool) (g : Guard) (b : Opnd) (m : VMask) (s : State) : Host.Outcome State Fault Refusal :=
  slotOp .v g (fun h => do
    let q ← metaM h .v b (flagAt m.st 1) 1
    let x ← gridM h m q.rows q.cols
    needM ok 3 10
    itemsM h [b]
    let y ← rowSrc h .v b (flagAt m.st 1) 1 (q.fmt.getD 0)
    let lanes := (List.range x.rows).flatMap fun r => ((List.range x.cols).filter (x.en r)).map fun k => y.at r k != 0
    match test lanes with
    | none => trapM 7
    | some t =>
      reserveCq h
      if x.rows ≠ 0 then swageM h x.rows
      latchM h .v (4 + x.rows - 1) [.pushCq t] 0x59) s

def execVanyAny (g : Guard) (b : Opnd) (m : VMask) (s : State) : Host.Outcome State Fault Refusal :=
  vAny true (fun l => some (vanyAny l)) g b m s
def execVanyAll (g : Guard) (b : Opnd) (m : VMask) (s : State) : Host.Outcome State Fault Refusal :=
  vAny true (fun l => some (vanyAll l)) g b m s
def execVanyUni (g : Guard) (b : Opnd) (m : VMask) (s : State) : Host.Outcome State Fault Refusal :=
  vAny (!m.st.getLsbD 3) vanyUni g b m s

/-! Movement and generators (R279). -/

/-- A free tag, where a copied block has no source granule; assumption log 2. -/
def freeTagM : M Tag := do
  let s ← getM
  updM State.draw
  pure (Config.freeTag s.clk.frees)

/-- Whole blocks of a tagged row copied with their tags, where a lane of the block is enabled (R279). -/
def movBlocks (v : View) (x : Grid) (y : Src) (r : Nat) : List Nat → M (List Wr)
  | [] => pure []
  | j :: js => do
    let n := fmtPer v.fmt
    let on := (List.range n).any fun k => x.en r (j * n + k)
    let rest ← movBlocks v x y r js
    if !on then pure rest
    else
      let gr := v.base + v.stride * r + j
      let row := if y.one then 0 else r
      let here := y.inside r (j * n)
      let t ← (if here then pure (y.tag row j) else freeTagM)
      let bs := if here then ((y.img row).drop (64 * j)).take 64 else List.replicate 64 0
      pure ([.bytes (gr * 64) bs, .tag gr t] ++ rest)

/-- The rows of a tagged `vmov`. -/
def movRows (v : View) (x : Grid) (y : Src) : List Nat → M (List Wr)
  | [] => pure []
  | r :: rs => do
    let a ← movBlocks v x y r (List.range (x.cols / fmtPer v.fmt))
    let b ← movRows v x y rs
    pure (a ++ b)

/-- `vmov` of a tagged format (R279). -/
def movTagged (h : Nat) (d b : Opnd) (m : VMask) (dst : Dst) (x : Grid) : M Unit := do
  let c ← ctxM h
  match dst.view with
  | none => trapM 3 0
  | some v =>
    needM (match b with | .g _ => false | .sb _ => false | .imm _ => false | _ => true) 3 1
    needM (x.cols % fmtPer dst.fmt == 0 && grantCols c % fmtPer dst.fmt == 0) 3 0
    itemsM h [b]
    let y ← rowSrc h .v b (flagAt m.st 1) 1 dst.fmt
    if x.rows = 0 then pure ()
    else
      let ws ← movRows v x y (List.range x.rows)
      swageM h x.rows
      latchM h .v (4 + x.rows - 1)
        (ws ++ [.vbAt ((v.base + v.stride * (x.rows - 1)) * 64) (64 * (x.cols / fmtPer v.fmt)) v.fmt]) d.code.toNat

/-- `vmov` (R279). -/
def execVmov (g : Guard) (d b : Opnd) (m : VMask) (s : State) : Host.Outcome State Fault Refusal :=
  slotOp .v g (fun h => do
    let dst ← dstM h .v d (flagAt m.st 0)
    let q ← metaM h .v b (flagAt m.st 1) 1
    let x ← gridM h m dst.rows dst.cols
    needM (q.fits dst.fmt x.cols) 3 1
    dstFits h d x.cols
    if fmtTagged dst.fmt then movTagged h d b m dst x
    else
      itemsM h [b]
      let y ← lanesM h .v b (flagAt m.st 1) 1 dst.fmt
      putRaw h d dst x 4 fun r k => (y.at r k, 0)) s

/-- `vbcast` (R279): column `k` of B in every enabled lane. -/
def execVbcast (g : Guard) (d b k : Opnd) (m : VMask) (s : State) : Host.Outcome State Fault Refusal :=
  slotOp .v g (fun h => do
    let dst ← dstM h .v d (flagAt m.st 0)
    let q ← metaM h .v b (flagAt m.st 1) 1
    let x ← gridM h m dst.rows dst.cols
    let n ← rdScalar h k 2
    needM (match q.fmt with | none => true | some f => f == dst.fmt) 3 1
    needM (n.toNat < q.cols) 3 2
    dstFits h d x.cols
    needM (fmtRaw dst.fmt) 2
    itemsM h [b]
    let y ← rowSrc h .v b (flagAt m.st 1) 1 dst.fmt
    putRaw h d dst x 4 fun r _ => (y.at r n.toNat, 0)) s

/-- `viota` (R279): b + col x c, exact and rounded once in a floating format. -/
def execViota (g : Guard) (d b c : Opnd) (m : VMask) (s : State) : Host.Outcome State Fault Refusal :=
  slotOp .v g (fun h => do
    let dst ← dstM h .v d (flagAt m.st 0)
    let x ← gridM h m dst.rows dst.cols
    dstFits h d x.cols
    needM (fmtRaw dst.fmt) 2
    let y ← lanesM h .v b false 1 dst.fmt
    let z ← lanesM h .v c false 2 dst.fmt
    let f := dst.fmt
    putRaw h d dst x 4 fun _ k =>
      if fmtFloat f then fFma (ffmt f) 0 (.fin false k 0) (fDecode (ffmt f) (z.at 0 0)) (fDecode (ffmt f) (y.at 0 0))
      else (wrapTo (fmtBits f) (intVal f (y.at 0 0) + k * intVal f (z.at 0 0)), 0)) s

/-- `vclass` (R279). -/
def execVclass (g : Guard) (d b : Opnd) (m : VMask) (s : State) : Host.Outcome State Fault Refusal :=
  slotOp .v g (fun h => do
    let dst ← dstM h .v d (flagAt m.st 0)
    let q ← metaM h .v b (flagAt m.st 1) 1
    let x ← gridM h m dst.rows dst.cols
    let f := q.fmt.getD (if fmtBits dst.fmt = 64 then 0 else if fmtBits dst.fmt = 32 then 1 else 2)
    needM (!q.strict || q.cols ≥ x.cols) 3 1
    needM (fmtInteger dst.fmt && fmtBits dst.fmt == fmtBits f) 3 0
    dstFits h d x.cols
    needM (fmtFloat f) 2
    itemsM h [b]
    let y ← rowSrc h .v b (flagAt m.st 1) 1 f
    putRaw h d dst x 4 fun r k => (fClass (ffmt f) (y.at r k), 0)) s

end Sys2Proof.Machine
end

