-- ==== Sys2Proof/Machine/Cross.lean ====
section
/-! DEFINITION. The X slot (R280 to R284): the lane crossbar. -/

namespace Sys2Proof.Machine

/-- The crossbar taken for a number of rows, a late resource while it is occupied (R280). -/
def crossM (h rows : Nat) : M Unit := do
  let s ← getM
  if s.clk.wall < (s.core (coreOf h)).xfree then stallM 9
  else updM fun s => s.modCore (coreOf h) fun k => { k with xfree := s.clk.wall + rows }

/-- No mask: the crossbar takes none. -/
def noMask : VMask := { mneg := 0, mv := 0, men := 0, st := 0 }

/-- The result of a crossbar operation: every active lane is written (R280). -/
def putX (h : Nat) (o : Opnd) (d : Dst) (x : Grid) (f : Nat → Nat → Nat) : M Unit := do
  if x.rows = 0 then pure ()
  else
    let ws ← rowsWrs h o d x.rows x.cols (rawLanes x d fun r k => (f r k, 0)) Wr.xbAt Wr.xb fun r => [.xb r]
    crossM h x.rows
    latchM h .x (3 + x.rows - 1) ws o.code.toNat

/-- A crossbar operation over row sources of the format of its destination. -/
def xMove (g : Guard) (d : Opnd) (srcs : List (Nat × Opnd)) (sf : BitVec 4)
    (f : Grid → Nat → List Src → Nat → Nat → Nat) (extra : Nat → M Nat) (s : State) : Host.Outcome State Fault Refusal :=
  slotOp .x g (fun h => do
    let dst ← dstM h .x d (flagAt sf 0)
    let x ← gridM h noMask dst.rows dst.cols
    srcs.forM fun (i, o) => do
      let q ← metaM h .x o (flagAt sf i) i
      needM (q.fits dst.fmt x.cols) 3 i
    dstFits h d x.cols
    let k ← extra h
    needM (fmtRaw dst.fmt) 2
    itemsM h (srcs.map (·.2))
    let ls ← srcs.mapM fun (i, o) => rowSrc h .x o (flagAt sf i) i dst.fmt
    putX h d dst x (f x k ls)) s

/-- No count operand. -/
def noCount (_ : Nat) : M Nat := pure 0

/-- The first and the second source of a lane. -/
def laneOf (ls : List Src) (i r k : Nat) : Nat := match ls[i]? with | some x => x.at r k | none => 0

/-- `xperm` (R282): the row image through a pattern. -/
def permRow (p : Pattern) (img : List Byte) : List Byte :=
  let z := 2 ^ p.lsz
  let img := (img ++ List.replicate 256 0).take 256
  p.ent.zipIdx.foldl (fun out e =>
    match e.1 with
    | none => out
    | some t => out.take (t * z) ++ (img.drop (e.2 * z)).take z ++ out.drop (t * z + z)) (List.replicate 256 0)

/-- `xperm` (R282). -/
def execXperm (g : Guard) (k : BitVec 3) (d b : Opnd) (sf : BitVec 4) (s : State) : Host.Outcome State Fault Refusal :=
  slotOp .x g (fun h => do
    let dst ← dstM h .x d (flagAt sf 0)
    let q ← metaM h .x b (flagAt sf 1) 1
    let x ← gridM h noMask dst.rows dst.cols
    let c ← ctxM h
    needM (fmtRaw (q.fmt.getD dst.fmt)) 3 1
    dstFits h d x.cols
    match mget none c.f.xp k.toNat with
    | none => trapM 3 0
    | some p =>
      needM (fmtRaw dst.fmt) 2
      itemsM h [b]
      let y ← rowSrc h .x b (flagAt sf 1) 1 dst.fmt
      let z := fmtBytes dst.fmt
      putX h d dst x fun r col =>
        ofBytes (((permRow p (if y.inside r 0 then y.img r else [])).drop (col * z)).take z)) s

/-- The source column of a rotation, or of a clamped shift (R283). -/
def rotCol (clamp : Bool) (l col : Nat) (k : Int) : Nat :=
  let j := (col : Int) - k
  if clamp then (max 0 (min ((l : Int) - 1) j)).toNat else (j % (l : Int)).toNat

/-- `xrot` and `xrot.c` (R283). -/
def xRot (clamp : Bool) (g : Guard) (d k b : Opnd) (sf : BitVec 4) (s : State) : Host.Outcome State Fault Refusal :=
  slotOp .x g (fun h => do
    let dst ← dstM h .x d (flagAt sf 0)
    let x ← gridM h noMask dst.rows dst.cols
    let w ← rdScalar h k 1
    let q ← metaM h .x b (flagAt sf 2) 2
    needM (q.fits dst.fmt x.cols) 3 2
    dstFits h d x.cols
    needM (fmtRaw dst.fmt) 2
    itemsM h [b]
    let y ← rowSrc h .x b (flagAt sf 2) 2 dst.fmt
    putX h d dst x fun r col => y.at r (rotCol clamp x.cols col w.toInt)) s

def execXrot (g : Guard) (d k b : Opnd) (sf : BitVec 4) (s : State) : Host.Outcome State Fault Refusal := xRot false g d k b sf s
def execXrotC (g : Guard) (d k b : Opnd) (sf : BitVec 4) (s : State) : Host.Outcome State Fault Refusal := xRot true g d k b sf s

/-- `xtrn` (R284). -/
def execXtrn (g : Guard) (d b : Opnd) (sf : BitVec 4) (s : State) : Host.Outcome State Fault Refusal :=
  xMove g d [(1, b)] sf (fun _ _ ls r k => laneOf ls 0 k r) noCount s

/-- `xbcast` (R284): row `k` of B; a row operand stands for every row. -/
def execXbcast (g : Guard) (d b k : Opnd) (sf : BitVec 4) (s : State) : Host.Outcome State Fault Refusal :=
  xMove g d [(1, b)] sf (fun _ n ls _ col => laneOf ls 0 n col) (fun h => do
    let w ← rdScalar h k 2
    let q ← metaM h .x b (flagAt sf 1) 1
    needM (w.toNat < (match b with | .w _ => q.rows | _ => 32)) 3 2
    pure w.toNat) s

/-- `xzip` (R284). -/
def execXzip (g : Guard) (d b c : Opnd) (sf : BitVec 4) (s : State) : Host.Outcome State Fault Refusal :=
  xMove g d [(1, b), (2, c)] sf (fun _ _ ls r k => laneOf ls (k % 2) r (k / 2)) noCount s

/-- `xunzip` (R284): a count other than 0 or 1 raises the illegal-operand trap. -/
def execXunzip (g : Guard) (d b k : Opnd) (sf : BitVec 4) (s : State) : Host.Outcome State Fault Refusal :=
  xMove g d [(1, b)] sf (fun _ n ls r col => laneOf ls 0 r (2 * col + n)) (fun h => do
    let w ← rdScalar h k 2
    needM (match k with | .imm _ => w.toNat ≤ 1 | _ => false) 3 2
    pure w.toNat) s

/-- `xcmpr` (R284): the selected lanes of B's row, packed from column 0. -/
def execXcmpr (g : Guard) (d b : Opnd) (q : BitVec 5) (sf : BitVec 4) (s : State) : Host.Outcome State Fault Refusal :=
  slotOp .x g (fun h => do
    let dst ← dstM h .x d (flagAt sf 0)
    let p ← metaM h .x b (flagAt sf 1) 1
    let v ← viewM h .x q (flagAt sf 2) 2
    let x ← gridM h noMask dst.rows dst.cols
    needM (p.fits dst.fmt x.cols) 3 1
    needM (fmtRaw v.fmt) 3 2
    dstFits h d x.cols
    needM (fmtRaw dst.fmt) 2
    itemsM h [b]
    let c ← ctxM h
    let y ← rowSrc h .x b (flagAt sf 1) 1 dst.fmt
    let sel := srcOfView c v
    let packed (r : Nat) : List Nat :=
      ((List.range (min y.cols (grantCols c))).filter fun k => sel.at r k != 0).map fun k => y.at r k
    putX h d dst x fun r k => (packed r).getD k 0) s

end Sys2Proof.Machine
end

