-- ==== Sys2Proof/Machine/Hammer.lean ====
section
/-! DEFINITION. The H slot (R285 to R292): the hammer's multiply operations and the gather unit. -/

namespace Sys2Proof.Machine

/-- The shapes of a class (R285): rows, columns and format of A, B and C, and the occupancy. -/
structure Tile where
  ar : Nat
  ac : Nat
  af : Nat
  br : Nat
  bc : Nat
  cr : Nat
  cc : Nat
  cf : Nat
  occ : Nat

/-- `hmma` by class: FP64, FP32, BF16, FP16. -/
def tileA (cls : Nat) : Tile :=
  if cls = 0 then { ar := 16, ac := 4, af := 0, br := 4, bc := 16, cr := 16, cc := 16, cf := 0, occ := 8 }
  else if cls = 1 then { ar := 16, ac := 16, af := 1, br := 16, bc := 16, cr := 16, cc := 16, cf := 1, occ := 8 }
  else { ar := 32, ac := 32, af := if cls = 2 then 3 else 2, br := 32, bc := 32, cr := 32, cc := 32, cf := 1, occ := 16 }

/-- `hmmn` by class: 8, 6 and 4 bits. -/
def tileN (cls : Nat) : Tile :=
  let k := if cls = 0 then 64 else if cls = 1 then 80 else 128
  { ar := 32, ac := k, af := 16 + cls, br := 32, bc := k, cr := 32, cc := 32, cf := 1, occ := 16 }

/-- The tile operand A: elements and block tags of its rows, none for a skipped row. -/
structure RowsA where
  row : Nat → Option (Nat → Nat)
  tag : Nat → Tag

/-- Whether a view has a shape and a format. -/
def View.isTile (v : View) (rows cols fmt : Nat) : Bool := v.rows == rows && v.cols == cols && v.fmt == fmt

/-- A view as the rows of operand A. -/
def rowsOfView (c : Ctx) (v : View) : RowsA :=
  { row := fun i => some fun k => c.elem v i k, tag := fun i => c.rtag (v.base + v.stride * i) }

/-- The gather latch as the rows of operand A. -/
def rowsOfGather (x : GatherLatch) : RowsA :=
  { row := fun i => ((x.rows.getD i none).map fun r => fun k =>
      if fmtRaw x.fmt then ofBytes ((r.bytes.drop (k * fmtBytes x.fmt)).take (fmtBytes x.fmt)) else elemOf x.fmt r.bytes k),
    tag := fun i => match x.rows.getD i none with | some r => r.tags.getD 0 0 | none => 0 }

/-- The pending operations of the H slot: the latches of the context, those of an interrupted program included. -/
def Ctx.hammerLats (c : Ctx) : List Latch :=
  ((match c.trp.aside with | some a => a.lats | none => []) ++ c.lats).filter fun l => l.slot == Slot.h.num

/-- The accumulators of the pending operations. -/
def Ctx.accums (c : Ctx) : List (List Nat) :=
  c.hammerLats.flatMap fun l => l.wrs.filterMap fun w => match w with | .accum v => some v | _ => none

/-- The granules a view occupies. -/
def View.grans (v : View) : List Nat :=
  (List.range v.rows).flatMap fun r => (List.range v.w).map fun j => v.base + v.stride * r + j

/-- A view as its name among accumulators. -/
def View.name (v : View) : List Nat := [v.base, v.stride, v.rows, v.cols, v.fmt]
def viewNamed (l : List Nat) : View :=
  { base := l.getD 0 0, stride := l.getD 1 0, rows := l.getD 2 0, cols := l.getD 3 0, fmt := l.getD 4 0 }

/-- Check 2 of R286: C shares no granule with another pending accumulator. -/
def Ctx.accumOk (c : Ctx) (v : View) : Bool :=
  c.accums.all fun l => l == v.name || !((viewNamed l).grans.any fun x => v.grans.contains x)

/-- The context as it stands once its pending hammer results are in place: the chain of R50. -/
def Ctx.chained (c : Ctx) : Ctx :=
  c.hammerLats.foldl (fun k l => l.wrs.foldl (fun k w => match w with | .bytes a bs => k.apply (.bytes a bs) | _ => k) k) c

/-- The array and the window free for an operation of an occupancy (R159). -/
def State.hammerFree (s : State) (h occ : Nat) : Bool :=
  let d := s.taskDc (s.ctx h)
  let w := s.clk.w
  mget 0 s.ham (coreOf h / 2) ≤ s.clk.wall &&
  (!bitOf d.hmr 0 || (w / 16 % 2 == coreOf h % 2 && w % 16 + occ ≤ 16))

/-- One element of an `hmma`: fused steps in ascending k (R49), with whether a step overflowed. -/
def macGo (tc ta : FFmt) (a b : Nat → Nat) : List Nat → Nat → Nat → Nat × Nat
  | [], c, of => (c, of)
  | k :: ks, c, of =>
    let (r, fl) := fFma tc 0 (fDecode ta (a k)) (fDecode ta (b k)) (fDecode tc c)
    macGo tc ta a b ks r (of ||| tileFlags fl)

/-- The exact product of two narrow elements (R47); none for infinity times zero. -/
def narrowMul (ca cb x y : Nat) : Option FV :=
  if ca = 0x40 then
    if x % 32 = 0 ∨ y % 32 = 0 then some (.fin false 0 0)
    else
      let l : Int := ((x % 32 : Nat) : Int) - 16 + ((y % 32 : Nat) - 16)
      some (.fin (x / 32 % 2 != y / 32 % 2) (lnsT (l % 4).toNat) (l / 4 - 15))
  else
    let a := nDecode ca x
    let b := nDecode cb y
    if a.isNan || b.isNan then none else mulFV a b

/-- The exact sum S in units of 2^-40 and the special value of a narrow chain (R48). -/
def narrowGo (ca cb : Nat) (a b : Nat → Nat) : List Nat → Int → Option FV → Int × Option FV
  | [], s, sp => (s, sp)
  | k :: ks, s, sp =>
    match narrowMul ca cb (a k) (b k) with
    | none => narrowGo ca cb a b ks s (some (.nan false false))
    | some (.inf n) =>
      narrowGo ca cb a b ks s
        (match sp with
         | none => some (.inf n)
         | some (.inf m) => if m = n then some (.inf m) else some (.nan false false)
         | some v => some v)
    | some (.fin n m e) => narrowGo ca cb a b ks (s + scaled n m e (-40)) sp
    | some v => narrowGo ca cb a b ks s (some v)

/-- One element of an `hmmn` (R48), with whether its rounding overflowed. -/
def narrowElem (ta tb : Tag) (a b : Nat → Nat) (n c : Nat) : Nat × Nat :=
  let t := ffmt 1
  let (s, sp) := narrowGo (tagCode ta) (tagCode tb) a b (List.range n) 0 none
  let sp := if tagScale ta = 255 ∨ tagScale tb = 255 then some (FV.nan false false) else sp
  match sp with
  | some v => ((fAdd t 0 (fDecode t c) v).1, 0)
  | none =>
    if s = 0 ∧ c = fZero t true then (c, 0)
    else
      let x : FV := .fin (decide (s < 0)) s.natAbs (-40 + ((tagScale ta : Nat) : Int) - 127 + (tagScale tb : Nat) - 127)
      let (r, fl) := fAdd t 0 (fDecode t c) x
      (r, match fDecode t c with | .fin _ _ _ => tileFlags fl | _ => 0)

/-- The result of a tile: an element and its tile status by row and column; a skipped row keeps C (R287, R291). -/
def tileRes (x : Tile) (narrow : Bool) (a : RowsA) (bElt : Nat → Nat → Nat) (bTag : Nat → Tag) (cElt : Nat → Nat → Nat)
    (i j : Nat) : Nat × Nat :=
  match a.row i with
  | none => (cElt i j, 0)
  | some ra =>
    if narrow then narrowElem (a.tag i) (bTag j) ra (fun k => bElt j k) x.ac (cElt i j)
    else macGo (ffmt x.cf) (ffmt x.af) ra (fun k => bElt k j) (List.range x.ac) (cElt i j) 0

/-- Check 3 of R286 for the tags of the blocks of A and B: codes of the class, and LNS6 paired with LNS6 alone. -/
def narrowTagsOk (fmt : Nat) (ts : List Tag) : Bool :=
  ts.all (fun t => codeInClass fmt (tagCode t)) &&
  (ts.all (fun t => tagCode t == 0x40) || ts.all (fun t => tagCode t != 0x40))

/-- The longest way to its landing of a pending status of ts`n`: writes to one status register commit in issue order (R288). -/
def Ctx.statusDist (c : Ctx) (n : Nat) : Nat :=
  ((c.lats.filter fun l => l.wrs.any fun w => match w with | .ts k _ _ => k == n | _ => false).map (·.dist)).foldl max 0

/-- `hmma` and `hmmn` (R285 to R288). -/
def hMul (narrow : Bool) (x : Tile) (g : Guard) (a : Opnd) (b c : BitVec 5) (acc : BitVec 1) (ts : BitVec 3)
    (sf : BitVec 4) (s : State) : Host.Outcome State Fault Refusal :=
  slotOp .h g (fun h => do
    let k0 ← ctxM h
    let ra ← (match a with
      | .w n => do
        let v ← viewM h .h n (flagAt sf 0) 0
        needM (v.isTile x.ar x.ac x.af) 3 0
        pure (rowsOfView k0 v)
      | _ =>
        match k0.f.hl with
        | none => trapM 3 0
        | some l => do
          needM (l.fmt == x.af) 3 0
          pure (rowsOfGather l))
    let vb ← viewM h .h b (flagAt sf 1) 1
    needM (vb.isTile x.br x.bc x.af) 3 1
    let vc ← viewM h .h c (flagAt sf 2) 2
    needM (vc.isTile x.cr x.cc x.cf) 3 2
    needM (k0.accumOk vc) 8
    let rowTags := ((List.range x.ar).filter fun i => (ra.row i).isSome).map ra.tag
    let colTags := (List.range x.br).map fun j => k0.rtag (vb.base + vb.stride * j)
    needM (!narrow || narrowTagsOk x.af (rowTags ++ colTags)) 9
    let st ← getM
    if !st.hammerFree h x.occ then stallM 3
    else
      if k0.wc.tl ≥ classMax then stallM 5
      else
        let kc := if k0.accums.contains vc.name then k0.chained else k0
        let res := tileRes x narrow ra (fun r k => k0.elem vb r k) (fun j => k0.rtag (vb.base + vb.stride * j))
          (fun i j => kc.elem vc i j)
        let tab := (List.range x.cr).map fun i => (List.range x.cc).map fun j => res i j
        let ws := tab.zipIdx.flatMap fun (l, i) => viewWrs vc i (l.map fun e => Lane.val e.1)
        let stat := tab.foldl (fun z r => r.foldl (fun z e => z ||| tileOf (ffmt x.cf) e.1 ||| e.2) z) 0
        let _ ← latchAs h .h (x.occ + 8) (ws ++ [.accum vc.name]) (32 + c.toNat) false true
        let t ← getM
        updM State.bump
        modM h fun k =>
          { k with wc := { k.wc with tl := k.wc.tl + 1 },
                   lats := k.lats ++ [{ tok := t.clk.tick, slot := Slot.h.num, code := 0, dist := max (x.occ + 12) (k.statusDist ts.toNat), here := true,
                                        occ := false, tile := true,
                                        wrs := [.ts ts.toNat (BitVec.ofNat 64 stat) (acc == 1)] }] }
        updM fun s => { s with ham := mput 0 s.ham (coreOf h / 2) (s.clk.wall + x.occ) }) s

def execHmma (g : Guard) (cls : BitVec 2) (a : Opnd) (b c : BitVec 5) (acc : BitVec 1) (ts : BitVec 3) (sf : BitVec 4)
    (s : State) : Host.Outcome State Fault Refusal := hMul false (tileA cls.toNat) g a b c acc ts sf s
def execHmmn (g : Guard) (cls : BitVec 2) (a : Opnd) (b c : BitVec 5) (acc : BitVec 1) (ts : BitVec 3) (sf : BitVec 4)
    (s : State) : Host.Outcome State Fault Refusal := hMul true (tileN cls.toNat) g a b c acc ts sf s

/-- `hnop` (R289). -/
def execHnop (g : Guard) (s : State) : Host.Outcome State Fault Refusal := slotOp .h g (fun _ => pure ()) s

/-! The gather unit (R290, R291). -/

/-- M and K of a gather by the format of its box (R290). -/
def gatherDims (f : Nat) : Option (Nat × Nat) :=
  if f = 0 then some (16, 4) else if f = 1 then some (16, 16) else if f = 2 ∨ f = 3 then some (32, 32)
  else if f = 16 then some (32, 64) else if f = 17 then some (32, 80) else if f = 18 then some (32, 128) else none

/-- The latency of a gather (R290). -/
def gatherLat (lvl m : Nat) : Nat := (if lvl = 0 then 6 else 24) + m - 1

/-- The rows a gather fetches, in index order: nothing for a skipped row, else the move of its granule. -/
def gatherRows (s : State) (h : Nat) (b : Desc) (idx : List (Option Nat)) : List (List Move) :=
  idx.map fun x =>
    match x with
    | none => []
    | some r =>
      let l := ctxLoc s h b (b.granLoc 0 r 0 0)
      [{ src := some l, data := [], dst := l, n := 64, tag := true }]

/-- `hgat` (R290). -/
def execHgat (g : Guard) (v : BitVec 5) (rsc : BitVec 3) (rel : BitVec 1) (asc : BitVec 3) (acq : BitVec 1) (bx : BitVec 4)
    (sf : BitVec 4) (s : State) : Host.Outcome State Fault Refusal :=
  slotOp .h g (fun h => do
    let fl : EFlags := { rsc := rsc, rel := rel, asc := asc, acq := acq }
    needM (flagsOk fl) 3 10
    let w ← viewM h .h v (flagAt sf 0) 0
    needM (w.fmt == 9 || w.fmt == 10) 3 0
    let c ← ctxM h
    let b := c.box bx.toNat
    match gatherDims b.fmt with
    | none => trapM 2
    | some (m, k) =>
      needM (b.level ≤ 1) 2
      needM (w.cols ≥ m) 3 0
      let ones := 2 ^ fmtBits w.fmt - 1
      let idx := (List.range m).map fun i => let x := c.elem w 0 i; if x = ones then none else some x
      let s ← getM
      idx.forM fun x =>
        match x with
        | none => pure ()
        | some r => liftM' (boundsAll s c b { slot := bx.toNat, crd := [0, r, 0, 0], mesh := none } k 1 false)
      if c.wc.tl ≥ classMax then stallM 5
      else
        let tok ← latchAs h .h (gatherLat b.level m) [] 0x4D true false
        modM h fun c => { c with wc := { c.wc with tl := c.wc.tl + 1 }, q := { c.q with seq := c.q.seq + 1 } }
        let s ← getM
        let id := s.clk.tick
        match c.task with
        | none => pure ()
        | some t =>
          updM State.bump
          let cmd : Cmd := { kind := .gather h tok b.fmt, rows := gatherRows s h b idx, got := [], flag := none, wait := 0, mem := 0, place := (0, 0),
                             acq := c.cmdAcq (flAcq fl), rel := flRel fl, susp := none, deny := false, dev := t.dev, dctx := t.dctx }
          updM fun s => { s with cmds := mins s.cmds id cmd }
          updM fun s => s.sched 1 (.memoryAccessPerform h id 0)) s

end Sys2Proof.Machine
end

