-- ==== Sys2Proof/Machine/Sticky.lean ====
section
/-! DEFINITION. The issues of a bundle (R166 to R169, R177, R178): the sticky records, the operations of an issue in
slot order, and the bundle forms `idle`, `idle hold` and the marker. -/

namespace Sys2Proof.Machine

/-- The meaning of a slot operation that a context issues again from a sticky record (R177, R178). -/
def slotExec (i : Instr) (s : State) : Host.Outcome State Fault Refusal :=
  match i with
  | .add g d b c => execAdd g d b c s
  | .sub g d b c => execSub g d b c s
  | .mul g d b c => execMul g d b c s
  | .mulh g nat d b c => execMulh g nat d b c s
  | .divs g d b c => execDivs g d b c s
  | .rems g d b c => execRems g d b c s
  | .divn g d b c => execDivn g d b c s
  | .remn g d b c => execRemn g d b c s
  | .andS g d b c => execAndS g d b c s
  | .orS g d b c => execOrS g d b c s
  | .xorS g d b c => execXorS g d b c s
  | .shl g d b c => execShl g d b c s
  | .shr g d b c => execShr g d b c s
  | .sra g d b c => execSra g d b c s
  | .min g d b c => execMin g d b c s
  | .max g d b c => execMax g d b c s
  | .minn g d b c => execMinn g d b c s
  | .maxn g d b c => execMaxn g d b c s
  | .clz g d b => execClz g d b s
  | .popc g d b => execPopc g d b s
  | .li g d imm => execLi g d imm s
  | .lihM g d imm => execLihM g d imm s
  | .lihH g d imm => execLihH g d imm s
  | .mov g d b => execMov g d b s
  | .sel g d b c neg p => execSel g d b c neg p s
  | .cmp g cc d b c => execCmp g cc d b c s
  | .setp g neg p b c => execSetp g neg p b c s
  | .pand g pb pa pd => execPand g pb pa pd s
  | .por g pb pa pd => execPor g pb pa pd s
  | .pxor g pb pa pd => execPxor g pb pa pd s
  | .pnot g pa pd => execPnot g pa pd s
  | .ld g d path => execLd g d path s
  | .ldAcq g sc d path => execLdAcq g sc d path s
  | .st g a path => execSt g a path s
  | .stRel g sc a path => execStRel g sc a path s
  | .ldv g v path => execLdv g v path s
  | .ldvAcq g sc v path => execLdvAcq g sc v path s
  | .stv g v path => execStv g v path s
  | .stvRel g sc v path => execStvRel g sc v path s
  | .ldtag g d path => execLdtag g d path s
  | .sttag g a path => execSttag g a path s
  | .ldr g acq d path => execLdr g acq d path s
  | .str g rel a path => execStr g rel a path s
  | .pf g path => execPf g path s
  | .atomAdd g ord sc a path => execAtomAdd g ord sc a path s
  | .atomAnd g ord sc a path => execAtomAnd g ord sc a path s
  | .atomOr g ord sc a path => execAtomOr g ord sc a path s
  | .atomXor g ord sc a path => execAtomXor g ord sc a path s
  | .atomMin g ord sc a path => execAtomMin g ord sc a path s
  | .atomMax g ord sc a path => execAtomMax g ord sc a path s
  | .atomMinn g ord sc a path => execAtomMinn g ord sc a path s
  | .atomMaxn g ord sc a path => execAtomMaxn g ord sc a path s
  | .atomSwap g ord sc a path => execAtomSwap g ord sc a path s
  | .atomCas g ord sc a path => execAtomCas g ord sc a path s
  | .atomrAdd g ord a path => execAtomrAdd g ord a path s
  | .atomrAnd g ord a path => execAtomrAnd g ord a path s
  | .atomrOr g ord a path => execAtomrOr g ord a path s
  | .atomrXor g ord a path => execAtomrXor g ord a path s
  | .atomrMin g ord a path => execAtomrMin g ord a path s
  | .atomrMax g ord a path => execAtomrMax g ord a path s
  | .atomrMinn g ord a path => execAtomrMinn g ord a path s
  | .atomrMaxn g ord a path => execAtomrMaxn g ord a path s
  | .atomrSwap g ord a path => execAtomrSwap g ord a path s
  | .atomrCas g ord a path => execAtomrCas g ord a path s
  | .vadd g rm d b c m => execVadd g rm d b c m s
  | .vsub g rm d b c m => execVsub g rm d b c m s
  | .vmul g rm d b c m => execVmul g rm d b c m s
  | .vdiv g rm d b c m => execVdiv g rm d b c m s
  | .vfma g rm d b c e m => execVfma g rm d b c e m s
  | .vfms g rm d b c e m => execVfms g rm d b c e m s
  | .vmin g d b c m => execVmin g d b c m s
  | .vmax g d b c m => execVmax g d b c m s
  | .vand g d b c m => execVand g d b c m s
  | .vor g d b c m => execVor g d b c m s
  | .vxor g d b c m => execVxor g d b c m s
  | .vshl g d b c m => execVshl g d b c m s
  | .vshr g d b c m => execVshr g d b c m s
  | .vsra g d b c m => execVsra g d b c m s
  | .vabs g d b m => execVabs g d b m s
  | .vneg g d b m => execVneg g d b m s
  | .vnot g d b m => execVnot g d b m s
  | .vmov g d b m => execVmov g d b m s
  | .vrcp g rm d b m => execVrcp g rm d b m s
  | .vsqrt g rm d b m => execVsqrt g rm d b m s
  | .vrsqrt g rm d b m => execVrsqrt g rm d b m s
  | .vexp2 g rm d b m => execVexp2 g rm d b m s
  | .vlog2 g rm d b m => execVlog2 g rm d b m s
  | .vcvt g rm d b csel m => execVcvt g rm d b csel m s
  | .vpack g rm d b csel m => execVpack g rm d b csel m s
  | .vsum g rm d b m => execVsum g rm d b m s
  | .vmaxr g d b m => execVmaxr g d b m s
  | .vcmp g cc d b c m => execVcmp g cc d b c m s
  | .vsel g d q c e m => execVsel g d q c e m s
  | .vanyAny g b m => execVanyAny g b m s
  | .vanyAll g b m => execVanyAll g b m s
  | .vanyUni g b m => execVanyUni g b m s
  | .vbcast g d b k m => execVbcast g d b k m s
  | .viota g d b c m => execViota g d b c m s
  | .vclass g d b m => execVclass g d b m s
  | .xperm g k d b sf => execXperm g k d b sf s
  | .xrot g d k b sf => execXrot g d k b sf s
  | .xrotC g d k b sf => execXrotC g d k b sf s
  | .xtrn g d b sf => execXtrn g d b sf s
  | .xbcast g d b k sf => execXbcast g d b k sf s
  | .xzip g d b c sf => execXzip g d b c sf s
  | .xunzip g d b k sf => execXunzip g d b k sf s
  | .xcmpr g d b q sf => execXcmpr g d b q sf s
  | .hnop g => execHnop g s
  | .hmma g cls a b c acc ts sf => execHmma g cls a b c acc ts sf s
  | .hmmn g cls a b c acc ts sf => execHmmn g cls a b c acc ts sf s
  | .hgat g v rsc rel asc acq bx sf => execHgat g v rsc rel asc acq bx sf s
  | _ => .next s

/-! Sticky records (R177 to R179). -/

/-- The run of a view access (R233). -/
def viewRun (c : Ctx) (v : BitVec 5) : Nat :=
  min (viewOfReg (mget 0 c.f.vd v.toNat) c.sys.rb.toNat).cols (grantCols c)

/-- The access width of an operation at this issue (R24, R179, R233, R240). -/
def widthOf (c : Ctx) : Instr → Nat
  | .ldv _ v _ => viewRun c v
  | .ldvAcq _ _ v _ => viewRun c v
  | .stv _ v _ => viewRun c v
  | .stvRel _ _ v _ => viewRun c v
  | .ldr _ _ (.w v) _ => viewRun c v
  | .str _ _ (.w v) _ => viewRun c v
  | .ldtag _ _ p => fmtPer (c.box p.bx.toNat).fmt
  | .sttag _ _ p => fmtPer (c.box p.bx.toNat).fmt
  | .pf _ p => fmtPer (c.box p.bx.toNat).fmt
  | _ => 1

/-- The record of an operation at issue 0 (R178). -/
def stickOf (c : Ctx) (i : Instr) : Stick :=
  match pathOf i with
  | some p => let r := c.resolve p; { op := i, crd := r.crd, mesh := r.mesh, w := widthOf c i, s := 0 }
  | none => { op := i, crd := [], mesh := none, w := 0, s := 0 }

/-- Whether an operation's map marks it sticky. -/
def isSticky (i : Instr) : Bool := match slotInfo i with | some (_, _, b) => b | none => false

/-- What one slot does at an issue: the operation it runs, the record it runs under, and the record it leaves. Where an `eret` resumes a
bundle at an index from 1 on and the slot word is not the one in the record, the spec does not say what happens to the record. DESIGN
CHOICE: the operation runs without a record, and the record stays with its step count; assumption log 124. -/
def planOne (c : Ctx) (hold : Bool) (present : List (Slot × Instr)) (sl : Slot) :
    Option Instr × Option Stick × Option (Option Stick) :=
  let old := mget none c.prog.stick sl.num
  match present.find? fun x => x.1 == sl with
  | some (_, i) =>
    if c.prog.idx = 0 then
      (if isSticky i then (some i, some (stickOf c i), some (some (stickOf c i))) else (some i, none, some none))
    else
      (match old with
       | some k =>
         if k.op = i then
           let k' := if hold then { k with s := c.prog.idx } else k
           (some i, some k', some (some k'))
         else (some i, none, none)
       | none => (some i, none, none))
  | none =>
    match hold, old with
    | true, some k => (some k.op, some { k with s := k.s + 1 }, some (some { k with s := k.s + 1 }))
    | _, _ => (none, none, none)

/-- An issue planned: its operations in slot order, the records they run under, and the records after it. -/
structure Plan where
  ops   : List Instr
  re    : SMap Stick
  stick : SMap (Option Stick)

/-- The seven slots in slot order. -/
def allSlots : List Slot := [.b, .s, .m, .v, .x, .h, .t]

/-- The plan of an issue from the operations present in it. -/
def planOf (c : Ctx) (hold : Bool) (present : List (Slot × Instr)) : Plan :=
  allSlots.foldl (fun p sl =>
    let (op, r, k) := planOne c hold present sl
    { ops := match op with | some i => p.ops ++ [i] | none => p.ops,
      re := match r with | some x => mins p.re sl.num x | none => p.re,
      stick := match k with | some x => mput none p.stick sl.num x | none => p.stick })
    { ops := [], re := [], stick := c.prog.stick }

/-! The operations of an issue. -/

/-- An operation that acts after the whole bundle, and so runs last (R212, R228, R229). -/
def actsLast : Instr → Bool
  | .trap _ _ => true
  | .brk _ _ => true
  | .eret _ => true
  | .done _ => true
  | _ => false

/-- The verdict of an operation tried on a state: a trap or a block it meets. -/
def verdict (r : Host.Outcome State Fault Refusal) : Option Stop :=
  match r with
  | .next s => s.iss.bind fun i => i.stop
  | _ => none

/-- The operations of an issue run in order by `ex`, from the state `s` on. The first trap or block in slot order stops
the issue, else any stall; a stopped issue leaves the state `s0` it began from but for the stop (R150, R151, R155, R172). -/
def runOps (ex : Instr → State → Host.Outcome State Fault Refusal) (s0 : State) (i : Iss) :
    List Instr → Option Stop → State → Host.Outcome State Fault Refusal
  | [], none, s => .next s
  | [], some e, _ => .next (s0.stopIssue i e)
  | op :: l, pend, s =>
    let s := { s with iss := s.iss.map fun k => { k with later := l } }
    match ex op s with
    | .next s' =>
      (match s'.iss.bind fun k => k.stop with
       | none => runOps ex s0 i l pend s'
       | some (.stall n) => runOps ex s0 i l (pend.orElse fun _ => some (.stall n)) s
       | some (.late ps) => runOps ex s0 i l (pend.orElse fun _ => some (.late ps)) s
       | some e => .next (s0.stopIssue i e))
    | r => r

/-- What checking mode finds of the operations of an issue (R154). -/
def State.checkMode (s0 s : State) (i : Iss) (ops : List Instr) : Option Stop :=
  let c := s0.ctx i.h
  if !bitOf c.sys.chk 0 then none
  else
    let at' := { s0 with iss := some i }
    let rd := ops.filterMap fun op =>
      match slotInfo op with
      | some (sl, g, _) => if c.guard g then some (sl.num, at'.opReads i.h sl op) else none
      | none => none
    ((s.ctx i.h).breach i.first rd).map fun x =>
      .trap { cause := x.1, info := 0, slot := x.2, asy := false, sregs := [], regs := [], mem := [], blk := none }

/-- The end of an issue whose operations have run, unless one of them has stopped or ended it. -/
def endIssue (r : Host.Outcome State Fault Refusal) : Host.Outcome State Fault Refusal :=
  match r with
  | .next s =>
    (match s.iss with
     | some k => if k.stop.isSome || k.gone then .next s else .next (s.finish k)
     | none => .next s)
  | r => r

/-- An issue run: the operations given, what checking mode finds of them, those that act after the bundle, then its end. -/
def runIssue (ex : Instr → State → Host.Outcome State Fault Refusal) (s0 : State) (i : Iss) (p : Plan) :
    Host.Outcome State Fault Refusal :=
  let i := { i with re := p.re }
  let s := (s0.traceIssue i.h i.addr).modCtx i.h fun c => { c with prog := { c.prog with stick := p.stick } }
  let s := { s with iss := some i }
  let late := p.ops.filter actsLast
  match (late.findSome? fun op => verdict (ex op s)) with
  | some e => .next (s0.stopIssue i e)
  | none =>
    match runOps ex s0 i (p.ops.filter fun op => !actsLast op) none s with
    | .next s' =>
      if (s'.iss.bind (·.stop)).isSome then .next s'
      else
        match s0.checkMode s' i p.ops with
        | some e => .next (s0.stopIssue i e)
        | none => endIssue (runOps ex s0 i late none s')
    | r => r

/-! The bundle forms (R168, R169). -/

/-- `idle` (R168): one empty issue of a fold. -/
def execIdle (_k : BitVec 4) (_r : BitVec 8) (s : State) : Host.Outcome State Fault Refusal :=
  match s.iss with
  | none => .fault .noIssuingContext
  | some i => .next ((s.traceIssue i.h i.addr).finish i)

/-- `idle hold` (R168): one issue of a sticky run, in which every slot that holds a record issues it again. -/
def execIdleHold (_k : BitVec 4) (_r : BitVec 8) (s : State) : Host.Outcome State Fault Refusal :=
  match s.iss with
  | none => .fault .noIssuingContext
  | some i => runIssue slotExec s i (planOf (s.ctx i.h) true [])

/-- `mark` (R169): EXP 0 sets the drift base, any other EXP writes a drift record. -/
def execMark (exp : BitVec 32) (s : State) : Host.Outcome State Fault Refusal :=
  match s.iss with
  | none => .fault .noIssuingContext
  | some i =>
    let c := s.ctx i.h
    if exp = 0 then .next (s.modCtx i.h fun c => { c with sys := { c.sys with dbase := c.ccy } })
    else .next (s.driftRecord i.h i.addr exp ((c.ccy - c.sys.dbase).toInt - exp.toNat))

end Sys2Proof.Machine
end

