-- ==== Sys2Proof/Machine/Perform.lean ====
section
/-! DEFINITION. What happens to a context between its issues: results commit, loads arrive, waits end, ports fetch, and
accesses perform at their homes (R70 to R72, R77, R128, R133, R148 to R153, R182, R207, R367). -/

namespace Sys2Proof.Machine

/-! Commitment of results (R148, R149). -/

/-- LATCH_COMMIT (R148, R149, R207): the latches due commit in issue order, and in slot order within a bundle, up to the first
whose result has not arrived. -/
def execLatchCommit (h : Nat) (s : State) : Host.Outcome State Fault Refusal := .next (s.commitDue h)

/-! Arrival of loads (R207, R236 to R240). -/

/-- Runs of bytes laid to register space in order. -/
def layRuns : List (Nat × Nat) → List Byte → List Wr
  | [], _ => []
  | (a, n) :: l, bs => .bytes a (bs.take n) :: layRuns l (bs.drop n)

/-- The parts of a load's result. -/
def LoadFin.wrs (f : LoadFin) (ps : List Piece) : List Wr :=
  let bs := ps.flatMap (·.data)
  match f with
  | .scalar d sz sg => [.bytes (8 * d.toNat) (toBytes 8 (extendTo (bs.take sz) sg).toNat)]
  | .code d off bits => [.bytes (8 * d.toNat) (toBytes 8 (ofBytes bs / 2 ^ off % 2 ^ bits))]
  | .tag d => [.bytes (8 * d.toNat) (toBytes 8 ((ps.head?.bind (·.tag)).getD 0).toNat)]
  | .view dst tags zero cols =>
    layRuns dst bs ++
    (tags.map fun x => Wr.tag x.1 (((ps[x.2]?).bind (·.tag)).getD 0)) ++
    (zero.map fun x => Wr.zero x.1 x.2) ++
    (match cols with | some k => [.cols k] | Option.none => [])
  | .none => []

/-- A latch that takes its result. -/
def fillLatch (tok : Nat) (ws : List Wr) (ls : List Latch) : List Latch :=
  ls.map fun l => if l.tok = tok ∧ !l.here then { l with wrs := ws, here := true } else l

/-- The latches of a context, those set aside included, filled. -/
def Ctx.fill (c : Ctx) (tok : Nat) (ws : List Wr) : Ctx :=
  { c with lats := fillLatch tok ws c.lats,
           trp := { c.trp with aside := c.trp.aside.map fun a => { a with lats := fillLatch tok ws a.lats } } }

/-- A load whose value has arrived: the value is in its latch, the entry has left the load queue, and ld has dropped (R207). -/
def Ctx.land (c : Ctx) (tok : Nat) : Ctx :=
  match c.q.lq.find? (fun a => a.tok == tok && !a.isAlign), c.q.pend.find? fun p => p.tok == tok with
  | some a, some p =>
    if !a.done then c
    else
      let c := c.fill tok (p.fin.wrs a.ps)
      let q := { c.q with lq := c.q.lq.filter fun x => x.tok != tok || x.isAlign, pend := c.q.pend.filter fun x => x.tok != tok }
      ({ c with q := q, wc := { c.wc with ld := c.wc.ld - 1 } }).sweep
  | _, _ => c

/-- LOAD_ARRIVE (R207): the load lands in its latch; a stopped context may now have drained (R162). -/
def execLoadArrive (h tok : Nat) (s : State) : Host.Outcome State Fault Refusal :=
  .next ((s.modCtx h fun c => c.land tok).debugDrained h)

/-! Stalls, waits and the issue stage (R150 to R153). -/

/-- STALL_CYCLE (R150): a latch due has not its result. -/
def execStallCycle (h : Nat) (s : State) : Host.Outcome State Fault Refusal := .next (s.modCtx h fun c => c.stalled 1)

/-- Whether what a blocked context waits for has come to hold (R151). -/
def State.holds (s : State) (h : Nat) (w : Why) : Bool :=
  let c := s.ctx h
  match w with
  | .cqEmpty => !c.q.cq.isEmpty
  | .cqFull => c.q.cq.length + cqReserved c < 8
  | .eqEmpty => !c.q.eq.isEmpty || !c.trp.fq.isEmpty
  | .handle w => c.q.eq.any (recNames w) || !s.handleLive h w || !c.trp.fq.isEmpty
  | .chEmpty n =>
    (match c.task, c.chan n with
     | some t, some i => !((mfind (s.dc t.dev t.dctx).chq i).getD []).isEmpty
     | _, _ => true)
  | .chFull n =>
    (match c.task, c.chan n with
     | some t, some i =>
       let d := s.dc t.dev t.dctx
       let (w0, w1) := (mfind d.chan i).getD (0, 0)
       if fld w0 62 61 = 0 then fld w1 22 16 != 0
       else ((mfind d.chq i).getD []).length + mget 0 d.chres i < fld w0 60 55 + 1
     | _, _ => true)
  | .counts imm => countsBelow c.wc.ld c.wc.st c.wc.cp c.wc.tl imm || !c.trp.fq.isEmpty
  | .value cc x ps sg =>
    (match s.watchRead h ps with
     | some (bs, _) => waitvCond cc (extendTo bs sg) x
     | none => false)
  | .barrier id => s.barrierOpen h id
  | .callTable => (freeEntry (s.clu (cluOf h)).calls).isSome
  | .spawnTable =>
    (match c.task with
     | some t => (freeEntry (s.dc t.dev t.dctx).spawn).isSome
     | none => true)
  | .calls => !s.openCalls h

/-- CONTEXT_WAKE (R151, R157). -/
def execContextWake (h : Nat) (s : State) : Host.Outcome State Fault Refusal :=
  .next (s.modCtx h fun c => if c.st = .blocked then { c with st := .ready, why := none } else c)

/-- The contexts of a core that hold a task, with their numbers. -/
def State.onCore (s : State) (k : Nat) : List (Nat × Ctx) :=
  s.hw.filter fun x => coreOf x.1 == k && x.2.st != .free

/-- The READY context with the oldest stamp, the lowest number among equals (R153). -/
def oldest : List (Nat × Ctx) → Option (Nat × Ctx)
  | [] => none
  | x :: l => match oldest l with
    | none => some x
    | some y => if y.2.stamp < x.2.stamp then some y else some x

/-- The context that the core would choose: one that held the issue stage at a debug stop first (R161, R162). -/
def State.chooses (s : State) (k : Nat) : Option Nat :=
  let l := (s.onCore k).filter fun x => x.2.st == .ready && !x.2.halt && !x.2.dbg.stop && x.2.fin.isNone
  ((l.find? fun x => x.2.dbg.held).orElse fun _ => oldest l).map (·.1)

/-- ISSUE_STAGE_GRANT (R153). -/
def execIssueStageGrant (k : Nat) (s : State) : Host.Outcome State Fault Refusal :=
  match s.chooses k with
  | some h => .next ((s.modCtx h fun c => { c with st := .issue, dbg := { c.dbg with held := false } }).modCore k fun x => { x with holder := some (h % 4) })
  | none => .next s

/-- SAMPLE_RECORD (R377). -/
def execSampleRecord (h : Nat) (s : State) : Host.Outcome State Fault Refusal :=
  let c := s.ctx h
  .next (s.driftWrite h 4 c.pc c.scy c.ccy 0)

/-! Retention (R77). -/

/-- RETENTION_ENTER (R77): an own partition, or from 5,120 on a cluster's pool, that has been idle for the interval. -/
def execRetentionEnter (k : Nat) (s : State) : Host.Outcome State Fault Refusal :=
  let iv := s.idleInterval
  let used := if k < 5120 then (s.core k).used else (s.clu (k - 5120)).used
  if s.clk.wall < used + iv then .next (s.schedOnce (used + iv - s.clk.wall) (.retentionEnter k))
  else if k < 5120 then .next (s.modCore k fun x => { x with idle := x.idle.orElse fun _ => some s.clk.wall })
  else .next (s.modClu (k - 5120) fun x => { x with idle := x.idle.orElse fun _ => some s.clk.wall })

/-! Accesses of a context perform (R124 to R130, R133, R207). -/

/-- A piece of an entry replaced. -/
def setPiece (q : List Acc) (tok k : Nat) (p : Piece) : List Acc :=
  q.map fun a => if a.tok = tok ∧ !a.isAlign then { a with ps := a.ps.set k p } else a

/-- The event tried again. -/
def State.again (s : State) (h tok k delay : Nat) : State := s.sched (max 1 delay) (.memoryAccessPerform h tok k)

/-- Whether a load waits for the conversion of its tensor (R120). -/
def State.convWaits (s : State) (c : Ctx) (a : Acc) : Bool := match a.conv with | some n => s.converting c n | none => false

/-- A load piece takes its value where order allows it, and once no conversion holds its tensor (R120). -/
def State.performLoad (s : State) (h : Nat) (a : Acc) (k : Nat) (p : Piece) : State :=
  let c := s.ctx h
  if p.done then s
  else if !s.mayLoad h c a p || s.convWaits c a then s.again h a.tok k 1
  else
    let (w, s) := s.touch p.pl
    if w ≠ 0 then s.again h a.tok k w
    else
      let (p', s) := s.takePiece c a.seq p
      let s := s.modCtx h fun c => ({ c with q := { c.q with lq := setPiece c.q.lq a.tok k p' } }).sweep
      if (a.ps.set k p').all Piece.done then s.sched 1 (.loadArrive h a.tok) else s

/-- Whether an older load of a context still waits at a home that some pieces reach (R124, R129). -/
def Ctx.loadsAt (c : Ctx) (seq : Nat) (ps : List Piece) : Bool :=
  olderHere c.q.lq seq fun x => x.ps.any fun y => !y.done && ps.any fun z => homeOf y.pl == homeOf z.pl

/-- The packets of a remote load leave, once every earlier remote load has its data and every earlier load of its homes has read
(R129). -/
def State.performFarLoad (s : State) (h : Nat) (a : Acc) (ps : List Pkt) (place : Nat) : State :=
  let c := s.ctx h
  if c.heldBack a.seq true || c.loadsAt a.seq a.ps ||
      olderHere c.q.lq a.seq fun x => (match x.kind with | .remote _ _ _ => !x.done | _ => false) then s.again h a.tok 0 1
  else
    let s := ps.foldl (fun s p =>
      let id := s.clk.tick
      let r : Far := { pkt := { p with id := id }, h := some h, tok := a.tok, part := p.opa.toNat, seq := a.seq, cmd := none, tries := 0,
                       conv := false, place := place }
      { s.bump with net := { s.net with far := mins s.net.far id r } }.send r.pkt) s
    s.modCtx h fun c => { c with q := { c.q with lq := c.q.lq.map fun x =>
      if x.tok = a.tok ∧ !x.isAlign then { x with kind := .remote [] place false } else x } }

/-- The window of R139: a number that lies more than 4,096 beyond the target's fence counter is held. -/
def Egress.opens (e : Egress) : Bool := e.next ≤ e.pend.headD e.next + 4096

/-- A numbered packet leaves (R139): it takes the next number of its pair and is kept until it is acknowledged. -/
def State.sendNumbered (s : State) (r : Far) : State :=
  let key := pairKey r.pkt.ssub r.pkt.ctx r.pkt.dst r.pkt.dsub
  let e := s.net.egress key
  let id := s.clk.tick
  let p := { r.pkt with seq := e.next, id := id }
  let e' : Egress := { next := e.next + 1, pend := e.pend ++ [e.next] }
  { s.bump with net := { s.net with eg := mins s.net.eg key e', far := mins s.net.far id { r with pkt := p } } }.send p

/-- What an entry of the store queue drops from st once it has been performed at `.core` and its packets have left
(R207, R243). -/
def Acc.leftQueue (a : Acc) : Bool :=
  a.ps.all (fun p => p.lvl ≥ 1) && (match a.kind with | .remote ps _ _ => ps.isEmpty | _ => true)

/-- An entry changed in the store queue or a port's queue: st drops where it has now left, and a finished entry goes. -/
def Ctx.stepStore (c : Ctx) (tok : Nat) (f : Acc → Acc) : Ctx :=
  let all := c.stores
  let hit (a : Acc) : Bool := a.tok == tok && !a.isAlign
  let drop := match all.find? hit with
    | some a => if !a.leftQueue ∧ (f a).leftQueue then 1 else 0
    | none => 0
  let go (q : List Acc) : List Acc := (q.map fun a => if hit a then f a else a).filter fun a => !(hit a && a.done)
  ({ c with wc := { c.wc with st := c.wc.st - drop },
            q := { c.q with sq := go c.q.sq, pw := mput [] (mput [] c.q.pw 4 (go (mget [] c.q.pw 4))) 5 (go (mget [] c.q.pw 5)) } }).sweep

/-- Whether an entry still has packets that have not left. -/
def Acc.unsent (a : Acc) : Bool := match a.kind with | .remote l _ _ => !l.isEmpty | _ => false

/-- Whether the next packet of an entry may leave (R124, R127, R129, R130): its markers, acquires and release hold; older remote
writes have left, and older stores to its own homes are written; no older load has still to read its bytes. An atomic and a fence
stand in the load queue too, behind the older loads of their homes. -/
def State.mayDepart (s : State) (h : Nat) (c : Ctx) (a : Acc) (p : Pkt) : Bool :=
  let ps := s.pktPieces c p
  let both := p.ty == 4 || p.ty == 6
  !c.heldBack a.seq false && !(both && c.heldBack a.seq true) && s.released h c a &&
  !(olderHere c.q.sq a.seq fun x => x.unsent || x.ps.any fun y => !y.done && ps.any fun z => homeOf y.pl == homeOf z.pl) &&
  !(olderHere c.q.lq a.seq fun x => x.ps.any fun y => !y.done && ps.any fun z => z.overlaps y) &&
  !(both && (c.loadsAt a.seq ps || olderHere c.q.lq a.seq Acc.unsent))

/-! What a halt leaves in the queues (R122, R142, R161). -/

/-- Whether a context has an access among its loads, or among its stores. -/
def Ctx.isLoad (c : Ctx) (a : Acc) : Bool := c.q.lq.any fun x => x.tok == a.tok && !x.isAlign
def Ctx.isStore (c : Ctx) (a : Acc) : Bool := c.stores.any fun x => x.tok == a.tok && !x.isAlign

/-- Whether a younger access waits for an older one to be performed: an acquire, a release, a marker between them, the same home, bytes that
the older one has still to read, or the order of remote accesses (R124, R127 to R130, R132). -/
def Ctx.blocks (c : Ctx) (x a : Acc) : Bool :=
  let home := x.ps.any fun p => a.ps.any fun q => homeOf p.pl == homeOf q.pl
  let far (a : Acc) : Bool := match a.kind with | .remote _ _ _ => true | _ => false
  x.seq < a.seq && (x.acq.isSome || a.rel.isSome || (far x && far a) ||
    (c.isLoad x && c.isLoad a && home) || (c.isStore x && c.isStore a && home) ||
    (c.isLoad x && c.isStore a && a.ps.any fun q => x.ps.any fun p => q.touches p) ||
    (c.q.lq ++ c.q.sq).any fun m => m.isAlign && x.seq < m.seq && m.seq < a.seq &&
      (m.isFence || (c.isStore x && c.isLoad a) || (c.isLoad x && c.isStore a)))

/-- The loads that wait for a conversion of a device context. -/
def DCtx.waiting (d : DCtx) (h : Nat) : List Nat :=
  d.place.flatMap fun e => match e.2.conv with
    | some k => k.wait.filterMap fun w => match w with | .ldp x tok => if x = h then some tok else none | _ => none
    | none => []

/-- Whether a packet in flight may stay out while its partition is exchanged: it is in back-off, or it is a read that waits in a converting
tensor of a device of this package (R120, R122, R143). -/
def State.mayStayOut (s : State) (id : Nat) (r : Far) : Bool :=
  s.hasEvent (.backoffResend id) || s.agenda.any fun x => match x.2 with | .readRequest p => p.id == id && r.pkt.ty == 2 | _ => false

/-- The accesses of a halted context that stop with it of themselves: loads of a converting tensor, `ldp`s that wait for a conversion,
pushes whose results are still in their latches, what waits for a packet that may stay out, and releases at `.sys` behind such a packet. -/
def State.stopped (s : State) (h : Nat) (c : Ctx) : List Nat :=
  let out := s.net.far.filter fun x => x.2.h == some h && s.mayStayOut x.1 x.2
  let w := match c.task with | some t => (s.dc t.dev t.dctx).waiting h | none => []
  ((c.q.lq ++ c.stores).filter fun a => !a.isAlign && (s.convWaits c a || w.contains a.tok || a.unlanded ||
    out.any fun x => x.2.tok == a.tok || (a.rel == some 4 && x.2.cmd.isNone && x.2.seq < a.seq))).map (·.tok)

/-- Accesses held up, and those of a list that they hold up in turn; each round reaches at least one more. -/
def Ctx.spread (c : Ctx) (l : List Acc) : Nat → List Nat → List Nat
  | 0, w => w
  | n + 1, w => c.spread l n ((l.filter fun a => w.contains a.tok || l.any fun x => w.contains x.tok && c.blocks x a).map (·.tok))

/-- The accesses of a halted context that cannot be performed before the swap-in. -/
def State.heldUp (s : State) (h : Nat) (c : Ctx) : List Nat :=
  let l := (c.q.lq ++ c.stores).filter fun a => !a.isAlign
  c.spread l l.length (s.stopped h c)

/-- Whether a remote access of a halted context has to leave: a younger access that is to be performed before the exchange waits for it. -/
def Ctx.mustLeave (c : Ctx) (held : List Nat) (u : Acc) : Bool :=
  (c.q.lq ++ c.stores).any fun a => !a.isAlign && !a.done && !held.contains a.tok &&
    !(c.q.sq.any fun x => x.tok == a.tok && x.unsent) && c.q.sq.any fun x => x.unsent && u.seq ≤ x.seq && c.blocks x a

/-- Whether the queues of a halted context are as its image takes them (R142): each local access is performed and each load has landed, but for
those held up; remote writes that nothing waits for stay. -/
def State.settled (s : State) (h : Nat) (c : Ctx) : Bool :=
  let held := s.heldUp h c
  let stays (a : Acc) : Bool := c.q.sq.any fun x => x.tok == a.tok && x.unsent && !c.mustLeave held x
  (c.q.lq ++ c.stores).all fun a => a.isAlign || held.contains a.tok || stays a || (a.done && !c.isLoad a)

/-- The load-queue place of a fence that has left is free (R124). -/
def Ctx.endFence (c : Ctx) (p : Pkt) (tok : Nat) : Ctx :=
  if p.ty = 6 then ({ c with q := { c.q with lq := c.q.lq.filter fun x => x.tok != tok || x.isAlign } }).sweep else c

/-- The next packet of an entry leaves, or is held at the egress until the window opens. -/
def State.performFarStore (s : State) (h : Nat) (a : Acc) (p : Pkt) (ps : List Pkt) (place : Nat) : State :=
  let c := s.ctx h
  let keep (held : Bool) (l : List Pkt) (s : State) : State :=
    s.modCtx h fun c => c.stepStore a.tok fun x => { x with kind := .remote l place held }
  if (c.halt && !c.mustLeave (s.heldUp h c) a) || !s.mayDepart h c a p then s.again h a.tok 0 1
  else if !(s.net.egress (pairKey p.ssub p.ctx p.dst p.dsub)).opens then
    (keep true (p :: ps) s).schedOnce 1 (.egressRelease h a.tok)
  else
    let s := s.sendNumbered { pkt := p, h := some h, tok := a.tok, part := 0, seq := a.seq, cmd := none, tries := 0,
                                conv := false, place := place }
    let s := (keep false ps s).modCtx h fun c => c.endFence p a.tok
    if ps.isEmpty then s else s.again h a.tok 0 1

/-- The home cluster of a byte (R64, R70). -/
def homeClu (p : Place) : Nat :=
  match p with
  | .sp a => a / 2 ^ 18 / 64
  | .hbm a _ => a / 2 ^ 36 * 10 + a % 2 ^ 36 / 2048 % 10

/-- A request presented to the crucible of its home (R72). -/
def State.present (s : State) (q : CrReq) (pos : Nat) : State :=
  let k := homeClu q.pl
  (s.modClu k fun x => { x with crq := mput [] x.crq pos (mget [] x.crq pos ++ [q]) }).schedOnce 1 (.crucibleServe k)

/-- The queue of the write port that holds an entry (R133). -/
def Ctx.portOf (c : Ctx) (tok : Nat) : List Acc :=
  ((pushQueues.map fun n => mget [] c.q.pw n).find? fun q => q.any fun a => a.tok == tok).getD []

/-- A store piece goes one point on (R128): out of its queue, from point to point, and into its home. An atomic is
presented to the crucible of its home instead. -/
def State.performStore (s : State) (h : Nat) (a : Acc) (k : Nat) (p : Piece) (port : Bool) : State :=
  let c := s.ctx h
  let may := if p.lvl = 0 then
      (if port then c.mayPush a && !(olderHere (c.portOf a.tok) a.seq fun x => x.ps.any fun y => y.lvl == 0 && homeOf y.pl == homeOf p.pl)
       else s.mayLeave h c a p)
    else s.mayAdvance h p
  let put (p : Piece) (s : State) : State :=
    s.modCtx h fun c => c.stepStore a.tok fun x => { x with ps := x.ps.set k p }
  if p.done then s
  else if !may then s.again h a.tok k 1
  else
    let q : Piece := { p with lvl := p.lvl + 1, stamp := s.clk.tick }
    if q.lvl < p.hl then (put q s.bump).again h a.tok k 1
    else if !s.pathClear h (homeOf p.pl) && p.lvl = 0 then s.again h a.tok k 1
    else
      let (w, s) := s.touch p.pl
      if w ≠ 0 then s.again h a.tok k w
      else
        match a.kind with
        | .atomic op v cmp =>
          let pos := if homeClu p.pl = cluOf h then coreOf h % 64 else 64
          s.present { h := some (h, a.tok), rem := none, pl := p.pl, op := op, fmt := p.n, v := v, cmp := cmp } pos
        | _ =>
          let (ok, s) := s.mirrored p.pl p.data p.tag
          if !ok then s.again h a.tok k 1
          else put q { s.bump with mem := s.mem.writePiece q }

/-! The crucible (R70 to R72, R241). -/

/-- The line of a request. -/
def CrReq.line (q : CrReq) : Nat := q.pl.addr / 64

/-- The first position after the one served last, in ascending order modulo 65, whose request may be served. -/
def nextPos (m : SMap (List CrReq)) (last : Nat) (may : CrReq → Bool) : Option Nat :=
  ((List.range 65).map fun k => (last + 1 + k) % 65).find? fun p => (mget [] m p).head?.any may

/-- Whether no miss holds the line of a request. -/
def Cluster.serves (k : Cluster) (wall : Nat) (q : CrReq) : Bool := mget 0 k.busy q.line ≤ wall

/-- A line held until a cycle. -/
def Cluster.hold (k : Cluster) (wall line till : Nat) : Cluster :=
  { k with busy := mins (k.busy.filter fun x => x.2 > wall) line till }

/-- The lines of the crucible after an access to one: most recently used first, 64 of them. -/
def useLine (l : List Nat) (x : Nat) : List Nat := (x :: l.filter (· != x)).take 64

/-- The answer of an atomic to the source of its packet (R243). -/
def atomAnswer (s : State) (p : Pkt) (old : List Byte) : Pkt :=
  { Pkt.zero with ty := 5, src := s.net.fpeer, ssub := p.dsub, dst := p.src, dsub := p.ssub, ctx := p.ctx, seq := p.seq,
                  id := p.id, data := old }

/-- A number of a pair committed at its home (R139): the fence counter advances over every number committed, and fences
whose number it has reached become due. -/
def Ingress.commit (i : Ingress) (n : Nat) : Ingress :=
  let all := if n < i.c then i.above else n :: i.above
  let c := (List.range (all.length + 1)).foldl (fun c _ => if all.contains c then c + 1 else c) i.c
  { i with c := c, above := all.filter fun x => x ≥ c }

/-- The numbered write of a packet committed on this device: its pair's fence counter, and the fences it frees. -/
def State.commitNumber (s : State) (p : Pkt) : State :=
  let key := pairKey p.dsub p.ctx p.src p.ssub
  let i := (s.net.ingress key).commit p.seq
  let s := { s with net := { s.net with ing := mins s.net.ing key i } }
  if i.fences.any fun f => f.seq ≤ i.c then s.schedOnce 1 (.fenceFlagWrite p.dsub key) else s

/-- CRUCIBLE_SERVE (R72): one request served as a step of the home order; its result is written through to the home. A miss holds its
line until the home's load latency has passed, and a request that waits for the duplicate of a mirrored box holds its own (R367). -/
def execCrucibleServe (cl : Nat) (s : State) : Host.Outcome State Fault Refusal :=
  let k := s.clu cl
  let again (s : State) : State := if (s.clu cl).crq.isEmpty then s else s.sched 1 (.crucibleServe cl)
  match nextPos k.crq k.last (k.serves s.clk.wall) with
  | none => .next (again s)
  | some pos =>
    match mget [] k.crq pos with
    | [] => .next s
    | q :: l =>
      let (old, s) := s.readBytes q.pl q.fmt
      let new := toBytes q.fmt (atomNew q.op q.fmt (ofBytes old) q.v.toNat q.cmp.toNat)
      let (ok, s) := s.mirrored q.pl new none
      if !ok then .next (again (s.modClu cl fun k => k.hold s.clk.wall q.line (s.clk.wall + 2)))
      else
        let wait := if k.lines.contains q.line then 1 else match q.pl with | .sp _ => 25 | .hbm _ _ => 381
        let k := if wait = 1 then k else k.hold s.clk.wall q.line (s.clk.wall + wait)
        let s := again ((s.writeBytes q.pl new).setClu cl { k with crq := mput [] k.crq pos l, last := pos, lines := useLine k.lines q.line })
        match q.h, q.rem with
        | some (h, tok), _ =>
          let s := s.modCtx h fun c => c.stepStore tok fun x => { x with ps := x.ps.map fun p => { p with lvl := p.hl } }
          let s := s.modCtx h fun c => { c with q := { c.q with lq := c.q.lq.map fun x =>
            if x.tok = tok ∧ !x.isAlign then { x with ps := x.ps.map fun p => { p with lvl := p.hl, data := old } } else x } }
          .next (s.sched wait (.loadArrive h tok))
        | none, some p => .next ((s.commitNumber p).send (atomAnswer s p old))
        | none, none => .next s

/-! Fetches of the read ports (R133, R182). -/

/-- The row of a fetched run, with the tags of its granules. -/
def runRow (fmt : Nat) (ps : List Piece) : Row := { fmt := fmt, bytes := ps.flatMap (·.data), tags := ps.map fun p => p.tag.getD 0 }

/-- Pieces taken from their homes, without forwarding. -/
def State.takeHomes (s : State) : List Piece → List Piece × State
  | [] => ([], s)
  | p :: l =>
    let (bs, s1) := s.readBytes p.pl p.n
    let (t, s2) := s1.readTag p.pl
    let (ps, s3) := s2.takeHomes l
    ({ p with lvl := p.hl, data := bs, tag := some t } :: ps, s3)

/-- PORT_FETCH (R182): the next run of an armed read port's walk, where its checks pass, the stores of a marker it waits
for have performed (R133), and fewer than 8 runs are held. -/
def execPortFetch (h n : Nat) (s : State) : Host.Outcome State Fault Refusal :=
  let c := s.ctx h
  match mget none c.q.ag n with
  | none => .next s
  | some g =>
    let s' := s.sched 1 (.portFetch h n)
    let clear := (match g.hold with | some (q, sc) => c.storesBefore q sc | none => true) && !(s.convOf c (c.box (parBox g.par))).isSome
    if g.fover || g.fetched.length ≥ 8 || !clear || c.halt then .next s'
    else
      match portRun h g.par g.fidx 0 (parWid g.par) false s' with
      | .error _ => .next s'
      | .ok (ps, s1) =>
        let (w, s2) := s1.touchAll (ps.map (·.pl))
        if !(ps.all fun p => s1.pathClear h (homeOf p.pl)) then .next s'
        else if w ≠ 0 then .next s2
        else
          let (qs, s2) := s2.takeHomes ps
          let (idx, ov) := walkNext g.par g.fidx
          let g' := { g with fetched := g.fetched ++ [runRow (c.box (parBox g.par)).fmt qs], fidx := idx, fover := ov, hold := none }
          .next (s2.modCtx h fun c => { c with q := { c.q with ag := mput none c.q.ag n (some g') } })

end Sys2Proof.Machine
end

