-- ==== Sys2Proof/Machine/Notice.lean ====
section
/-! DEFINITION. What the device tells its management: interrupts (R353), fault records (R323), time records (R329),
asynchronous faults of a context (R230), error counts (R370). -/

namespace Sys2Proof.Machine

/-- A function of a port, numbered port x 4 + function. -/
def State.fn (s : State) (f : Nat) : Fn := (mfind s.host.fns f).getD Fn.zero
def State.modFn (s : State) (f : Nat) (g : Fn → Fn) : State :=
  { s with host := { s.host with fns := mins s.host.fns f (g (s.fn f)) } }

/-- Something sent out of the device. -/
def State.emit (s : State) (o : Out) : State := { s with outs := s.outs ++ [o] }

/-- A message of a vector; a masked vector sets its pending bit (R353). -/
def State.interrupt (s : State) (f vec : Nat) : State :=
  if mget false (s.fn f).unmask vec then s.emit (.msi (f / 4) (f % 4) vec)
  else s.modFn f fun x => { x with pend := mput false x.pend vec true }

/-- The management interrupt, on every function whose MGT is 1 (R353). -/
def State.mgmtIrq (s : State) : State :=
  (List.range 8).foldl (fun s f => if bitOf (s.fn f).fctl 7 then s.interrupt f 0 else s) s

/-- A fault record written, then the count, and the management interrupt raised (R323). What is suspended is kept by
its fault id. -/
def State.postFault (s : State) (dev dctx src kind clu handle va : Nat) (what : Option Susp) : State :=
  let d := s.dc dev dctx
  let fid := d.fqcnt % 2 ^ 32
  let w0 := atBit fid 32 ||| atBit src 28 ||| atBit kind 24 ||| atBit clu 16 ||| atBit (handle % 65536) 0
  let s := s.physWrite dev (d.fq.toNat + 64 + 32 * (d.fqcnt % 4094)) (wordBytes [w0, BitVec.ofNat 64 (va / 64 * 64), 0, 0])
  let s := s.physWrite dev d.fq.toNat (toBytes 8 (d.fqcnt + 1))
  (s.modDc dev dctx fun d =>
    { d with fqcnt := d.fqcnt + 1, susp := match what with | some x => mins d.susp fid x | none => d.susp }).mgmtIrq

/-- A task brought to an abnormal end, once (R90). -/
def State.failTask (s : State) (h status : Nat) : State :=
  match (s.ctx h).fin with
  | none => s.endTask h status
  | some 0 => s.modCtx h fun c => { c with fin := some status }
  | some _ => s

/-- An asynchronous fault record posted to a context (R230, R232): a ninth one, or one that meets a task at its `done`, ends
the task abnormally (R212). -/
def State.postAsync (s : State) (h : Nat) (r : AFault) : State :=
  let c := s.ctx h
  if c.st = .free then s
  else if c.fin.isSome || c.trp.fq.length ≥ 8 then s.failTask h 1
  else s.setCtx h { c with trp := { c.trp with fq := c.trp.fq ++ [r] } }

/-- afw0 and afw1 (R230). -/
def asyncRec (cause src seq peer : Nat) (plf : Option Word) : AFault :=
  { afw0 := atBit (seq % 2 ^ 32) 32 ||| atBit src 8 ||| atBit cause 0, afw1 := atBit (peer % 2048) 0, plf := plf }

/-- A load that fails after its issue (R232): its latch is released, its destination keeps its value, and ld drops. -/
def State.failLoad (s : State) (h tok : Nat) : State :=
  (s.modCtx h fun c =>
    if c.q.pend.any fun p => p.tok == tok then
      let gone (l : Latch) : Bool := l.tok == tok && !l.here
      let drop (ls : List Latch) : List Latch := ls.filter fun l => !(gone l && l.dist == 0)
      let mark (ls : List Latch) : List Latch := ls.map fun l => if gone l then { l with here := true, wrs := [] } else l
      let trp := { c.trp with aside := c.trp.aside.map fun a => { a with lats := mark a.lats } }
      let q := { c.q with lq := c.q.lq.filter fun x => x.tok != tok || x.isAlign, pend := c.q.pend.filter fun p => p.tok != tok }
      ({ c with lats := mark (drop c.lats), trp := trp, q := q, wc := { c.wc with ld := c.wc.ld - 1 } }).sweep
    else c).debugDrained h

end Sys2Proof.Machine
end

