-- ==== Sys2Proof/Machine/Tongs.lean ====
section
/-! DEFINITION. Engine commands row by row (R86, R87, R97, R134, R254 to R257, R290), the event that moves every access
and every command on, and the faults and the ends of commands. -/

namespace Sys2Proof.Machine

/-- The context whose cluster an engine command translates for, and whose accesses it is ordered against. -/
def State.cmdCtx (s : State) (c : Cmd) : Nat :=
  let find (tab ent : Nat) : Nat :=
    let m := if tab < 80 then (s.clu tab).calls else (s.dc ((tab - 80) / 16) ((tab - 80) % 16)).spawn
    match mfind m ent with | some e => e.parent | none => 0
  match c.kind with
  | .copy h => h
  | .gather h _ _ => h
  | .inward tab ent => find tab ent
  | .outward tab ent => find tab ent

/-- The bytes a box can reach, as base and length: its rows with the full extents (R106). -/
def Desc.span (b : Desc) : Nat × Nat :=
  let last := (List.range 3).foldl (fun a k => a + (b.ext (k + 1) - 1) * b.strides.getD k 0) 0
  (b.base, 64 * (last + cdiv (b.ext 0) (fmtPer b.fmt)))

/-- Whether a virtual address lies in a tensor that is converting on the device (R120). -/
def State.convertingVa (s : State) (dev dctx va : Nat) : Bool :=
  (s.dc dev dctx).place.any fun e =>
    match e.2.conv with
    | some k => let (b, n) := k.desc.span; e.2.cip && b ≤ va && va < b + n
    | none => false

/-- The place of a location, or the fault it meets: 0 translation, 1 permission, with the address. -/
def State.locPlace (s : State) (h : Nat) (l : Loc) (wr : Bool) : Except (Nat × Nat) Place × State :=
  match l with
  | .place p => (.ok p, s)
  | .far _ _ va key => (.ok (.hbm (2 ^ 60 + va) key), s)
  | .virt dev dctx va key =>
    match s.xlateFor h dev dctx va key wr with
    | (.ok pa, s1) => (.ok (s.hbmPlace dev pa key), s1)
    | (.noPage, s1) => (.error (0, va), s1)
    | (.denied, s1) => (.error (1, va), s1)

/-- A move with its destination found and its data read. -/
structure Moved where
  dst  : Place
  data : List Byte
  tag  : Option Tag

/-- One move read: its data, and the tag its destination granule takes. -/
def State.readMove (s : State) (h : Nat) (m : Move) : Except (Nat × Nat) Moved × State :=
  match s.locPlace h m.dst true with
  | (.error e, s1) => (.error e, s1)
  | (.ok d, s1) =>
    match m.src with
    | none => (.ok { dst := d, data := m.data, tag := if m.tag then some 0 else none }, s1)
    | some l =>
      match s1.locPlace h l false with
      | (.error e, s2) => (.error e, s2)
      | (.ok p, s2) =>
        let (bs, s3) := s2.readBytes p m.n
        if m.tag then
          let (t, s4) := s3.readTag p
          (.ok { dst := d, data := bs, tag := some t }, s4)
        else (.ok { dst := d, data := bs, tag := none }, s3)

/-- The moves of a row read in order, up to the first that meets a fault. -/
def State.readRow (s : State) (h : Nat) : List Move → List Moved × Option (Nat × Nat) × State
  | [] => ([], none, s)
  | m :: ms =>
    match s.readMove h m with
    | (.error e, s1) => ([], some e, s1)
    | (.ok x, s1) =>
      let (xs, e, s2) := s1.readRow h ms
      (x :: xs, e, s2)

/-- The moves of a row written in order, up to the first whose duplicate is not accepted (R367): the number written. -/
def State.writeRow (s : State) : List Moved → Nat × State
  | [] => (0, s)
  | x :: xs =>
    let (ok, s1) := s.mirrored x.dst x.data x.tag
    if !ok then (0, s1)
    else
      let s2 := s1.writeBytes x.dst x.data
      let s3 := match x.tag with | some t => s2.writeTag x.dst t | none => s2
      let (n, s4) := s3.writeRow xs
      (n + 1, s4)

/-- The places a row reaches, as far as they translate, sources first. -/
def State.rowPlaces (s : State) (h : Nat) (row : List Move) : List Place :=
  row.flatMap fun m =>
    (match m.src with | some l => (match (s.locPlace h l false).1 with | .ok p => [p] | .error _ => []) | none => []) ++
    (match m.dst with | .far _ _ _ _ => [] | l => match (s.locPlace h l true).1 with | .ok p => [p] | .error _ => [])

/-- Whether a row reads a tensor that is converting, and so waits (R120). -/
def State.rowWaits (s : State) (row : List Move) : Bool :=
  row.any fun m => match m.src with | some (.virt dev dctx va _) => s.convertingVa dev dctx va | _ => false

/-- The event that ends a command, when its last row is done. -/
def Cmd.endEvent (c : Cmd) (id : Nat) : Instr :=
  match c.kind with
  | .copy _ => .copyComplete id
  | .gather _ _ _ => .copyComplete id
  | .inward tab ent => .inwardCopyLanded tab ent
  | .outward tab ent => .outwardCopyLanded tab ent

/-- The tags that a packet carries, one for each granule that it reaches: of the move that writes the granule from its start (R37). -/
def rowTags (va n : Nat) (row : List Move) (xs : List Moved) : List (Option Tag) :=
  (cutGran va n (n / 64 + 2)).map fun g =>
    (row.zip xs).findSome? fun x => match x.1.dst with | .far _ _ a _ => if a = g.1 then x.2.tag else none | _ => none

/-- A row sent to a peer as one numbered write packet (R139, R257): an error is a closed window, or the fault its reads meet. -/
def State.sendRow (s : State) (id : Nat) (c : Cmd) (h : Nat) (row : List Move) : Except (Option (Nat × Nat)) Unit × State :=
  match row with
  | { dst := .far peer sub va key, .. } :: _ =>
    let n := (row.map (·.n)).foldl (· + ·) 0
    let p : Pkt := { Pkt.zero with ty := 1, src := s.net.fpeer, ssub := c.dev, dst := peer, dsub := sub, ctx := c.dctx,
                                   key := key, va := va, len := n }
    if !(s.net.egress (pairKey p.ssub p.ctx p.dst p.dsub)).opens then (.error none, s)
    else
      match s.readRow h row with
      | (xs, none, s1) =>
        let p := { p with data := xs.flatMap (·.data), tags := rowTags va n row xs }
        (.ok (), s1.sendNumbered { pkt := p, h := some h, tok := 0, part := 0, seq := 0, cmd := some id, tries := 0, conv := false,
                                   place := c.place.1 })
      | (_, some f, s1) => (.error (some f), s1)
  | _ => (.ok (), s)

/-- A command changed. -/
def State.modCmd (s : State) (id : Nat) (f : Cmd → Cmd) : State :=
  match mfind s.cmds id with
  | some c => { s with cmds := mins s.cmds id (f c) }
  | none => s

/-- Whether another command of the same copies inward or outward is still at work. -/
def State.moreOf (s : State) (k : CmdKind) : Bool := s.cmds.any fun x => x.2.kind == k

/-- A command whose rows are done: a copy of a call is gone, and the last of them ends them all. -/
def State.cmdDone (s : State) (id : Nat) (c : Cmd) : State :=
  match c.kind with
  | .copy _ => s.schedOnce 1 (c.endEvent id)
  | .gather _ _ _ => s.schedOnce 1 (c.endEvent id)
  | k =>
    let s := { s with cmds := mdel s.cmds id }
    if s.moreOf k then s else s.schedOnce 1 (c.endEvent id)

/-- Whether a copy outward waits for those of an earlier member of its gang, under ORDER (R93, R96). -/
def State.memberHeld (s : State) (c : Cmd) : Bool :=
  match c.kind with
  | .outward tab ent =>
    let m := if tab < 80 then (s.clu tab).calls else (s.dc ((tab - 80) / 16) ((tab - 80) % 16)).spawn
    (match mfind m ent with
     | some e => bitOf (s.ctx e.parent).sys.cgm e.grp && s.cmds.any fun x => x.2.kind == c.kind && x.2.mem < c.mem
     | none => false)
  | _ => false

/-- A gather: its rows are the operands of an operation in flight, and come to it during a halt too (R161, R290). -/
def Cmd.isGather (c : Cmd) : Bool := match c.kind with | .gather _ _ _ => true | _ => false

/-- The next row of a command (R134, R255): its first read waits for the acquire; the row is read whole, then written; a
fault suspends the command at the granule that meets it (R97). -/
def State.performCmd (s : State) (id : Nat) (c : Cmd) : State :=
  let h := s.cmdCtx c
  let again (d : Nat) (s : State) : State := s.again h id 0 d
  let early := match c.acq with | some (seq, sc) => !s.allAt h seq sc | none => false
  match c.rows with
  | [] => s.cmdDone id c
  | row :: rest =>
    let next (s : State) : State :=
      let s := s.modCmd id fun c => { c with rows := rest, acq := none }
      if rest.isEmpty then s.cmdDone id c else again 1 s
    let fault (rows : List (List Move)) (f : Nat × Nat) (s : State) : State :=
      (s.modCmd id fun c => { c with rows := rows, acq := none, susp := some f.2, deny := f.1 == 1 }).sched 1 (.copyFault id)
    if c.susp.isSome || c.deny then s
    else if early || ((s.ctx h).halt && !c.isGather) || s.rowWaits row || s.memberHeld c then again 1 s
    else
      let ps := s.rowPlaces h row
      if !(ps.all fun p => s.pathClear h (homeOf p)) then again 1 s
      else
        let (w, s) := s.touchAll ps
        if w ≠ 0 then again w s
        else
          match row with
          | { dst := .far _ _ _ _, .. } :: _ =>
            (match s.sendRow id c h row with
             | (.ok (), s) => next (s.modCmd id fun c => { c with wait := c.wait + 1 })
             | (.error none, s) => again 1 s
             | (.error (some f), s) => fault (row :: rest) f s)
          | _ =>
            let (xs, e, s) := s.readRow h row
            match c.kind with
            | .gather _ _ fmt =>
              let got : Option Row := match xs with
                | [] => none
                | x :: _ => some { fmt := fmt, bytes := x.data, tags := [x.tag.getD 0] }
              next (s.modCmd id fun c => { c with got := c.got ++ [got] })
            | _ =>
              let (n, s) := s.writeRow xs
              if n < xs.length then again 1 (s.modCmd id fun c => { c with rows := row.drop n :: rest, acq := none })
              else
                match e with
                | none => next s
                | some f => fault (row.drop n :: rest) f s

/-- MEMORY_ACCESS_PERFORM (R128): a piece of an entry of a context's queues, or the next row of an engine command, goes
on. -/
def execMemoryAccessPerform (h tok k : Nat) (s : State) : Host.Outcome State Fault Refusal :=
  let c := s.ctx h
  let hit (a : Acc) : Bool := a.tok == tok && !a.isAlign
  match c.stores.find? hit with
  | some a =>
    let port := c.portWrites.any hit
    (match a.kind, a.ps[k]? with
     | .remote (p :: ps) place _, piece =>
       let s := s.performFarStore h a p ps place
       .next (match piece with | some x => s.performStore h a k x port | none => s)
     | .push false, _ => .next s
     | .chPush n _, _ => .next (s.leaveChannel h n tok)
     | _, some p => .next (s.performStore h a k p port)
     | _, none => .next s)
  | none =>
    match c.q.lq.find? hit with
    | some a =>
      (match a.kind, a.ps[k]? with
       | .remote (p :: ps) place _, _ => .next (if k = 0 then s.performFarLoad h a (p :: ps) place else s)
       | .remote [] _ _, _ => .next s
       | .atomic _ _ _, _ => .next s
       | _, some p => .next (s.performLoad h a k p)
       | _, none => .next s)
    | none =>
      match mfind s.cmds tok with
      | some x => .next (s.performCmd tok x)
      | none => .next s

/-- A count of the class cp dropped. -/
def Ctx.dropCp (c : Ctx) : Ctx := { c with wc := { c.wc with cp := c.wc.cp - 1 } }

/-- A command removed. -/
def State.endCmd (s : State) (id : Nat) : State := { s with cmds := mdel s.cmds id }

/-- The flag of a `cpyr` leaves (R257): as a fence, or as a plain write. -/
def State.sendFlag (s : State) (id h place : Nat) (p : Pkt) : Bool × State :=
  if !(s.net.egress (pairKey p.ssub p.ctx p.dst p.dsub)).opens then (false, s)
  else (true, s.sendNumbered { pkt := p, h := some h, tok := 0, part := 0, seq := 0, cmd := some id, tries := 0, conv := false,
                                 place := place })

/-- COPY_COMPLETE (R134, R257): a command's rows are done. A gather fills its latch. A copy drops cp; one toward a peer
sends its flag first, and waits for what R257 names. -/
def execCopyComplete (id : Nat) (s : State) : Host.Outcome State Fault Refusal :=
  match mfind s.cmds id with
  | none => .next s
  | some c =>
    let wait (s : State) : Host.Outcome State Fault Refusal := .next (s.sched 1 (.copyComplete id))
    match c.kind with
    | .gather h tok fmt =>
      .next (((s.modCtx h fun x => x.fill tok [.hl { fmt := fmt, rows := c.got }]).endCmd id).debugDrained h)
    | .copy h =>
      (match c.flag with
       | some p =>
         let (ok, s) := s.sendFlag id h c.place.2 p
         let s := if ok then s.modCmd id fun c => { c with flag := none, wait := c.wait + 1 } else s
         if ok ∧ c.rel ≠ some 4 then .next ((s.modCtx h Ctx.dropCp).endCmd id) else wait s
       | none =>
         if c.rel = some 4 ∧ c.wait ≠ 0 then wait s
         else .next ((s.modCtx h Ctx.dropCp).endCmd id))
    | _ => .next s

end Sys2Proof.Machine
end

