-- ==== Sys2Proof/Machine/Calls.lean ====
section
/-! DEFINITION. The life of a call, a gang call and a spawn (R84 to R99, R253, R320): storage and the copies inward,
the start of children, the copies outward, the record, and the end of tasks (R90, R138, R212). -/

namespace Sys2Proof.Machine

/-! The tables (R84, R253): a cluster's call table by the cluster's number, a device context's spawn table from 80 on. -/

/-- A table of calls. -/
def State.table (s : State) (tab : Nat) : SMap CallEnt :=
  if tab < 80 then (s.clu tab).calls else (s.dc ((tab - 80) / 16) ((tab - 80) % 16)).spawn

/-- A table replaced. -/
def State.setTable (s : State) (tab : Nat) (m : SMap CallEnt) : State :=
  if tab < 80 then s.modClu tab fun k => { k with calls := m }
  else s.modDc ((tab - 80) / 16) ((tab - 80) % 16) fun d => { d with spawn := m }

/-- An entry. -/
def State.call (s : State) (tab ent : Nat) : CallEnt := (mfind (s.table tab) ent).getD CallEnt.zero
def State.modCall (s : State) (tab ent : Nat) (f : CallEnt → CallEnt) : State :=
  s.setTable tab (mins (s.table tab) ent (f (s.call tab ent)))

/-- The level of an entry's children. -/
def State.childLvl (s : State) (e : CallEnt) : Nat := (s.ctx e.parent).lvl - 1

/-- Whether an AFTER handle is satisfied (R85). -/
def State.afterOk (s : State) (tab : Nat) (parent hd : Nat) : Bool :=
  match mfind (s.table tab) (hd % 256) with
  | some e => e.st == .free || e.st == .done || e.dead || e.parent != parent || e.gen != hd / 256 % 256
  | none => true

/-! Storage of children (R20, R320). -/

/-- An entry holds its storage from COPY-IN until its record is written (R20, R87). -/
def CallEnt.holds (e : CallEnt) : Bool := e.st != .free && e.st != .wait && e.st != .done

/-- The runs of an own partition that live entries hold. -/
def State.ownUsed (s : State) (core : Nat) : List (Nat × Nat) :=
  (s.clu (core / 64)).calls.flatMap fun x =>
    if x.2.holds then (x.2.cores.zip x.2.bases).filterMap fun y => if y.1 = core then some (y.2, x.2.size) else none else []

/-- The runs of a cluster's pool that live entries of its die hold. -/
def State.poolUsed (s : State) (clu : Nat) : List (Nat × Nat) :=
  (List.range 10).flatMap fun k => (s.clu (clu / 10 * 10 + k)).calls.flatMap fun x =>
    if x.2.holds ∧ x.2.pool = some clu then x.2.bases.map fun b => (b, x.2.size) else []

/-- The lowest granule-aligned place for some bytes among runs in use. The spec does not say where in a partition or a pool the tongs
allocate (R20), which decides whether a fragmented store makes a call wait. DESIGN CHOICE: the lowest place that fits; assumption log
121. -/
def firstFit (used : List (Nat × Nat)) (size limit : Nat) : Option Nat :=
  let free (a : Nat) : Bool := a + size ≤ limit && used.all fun u => a + size ≤ u.1 || u.1 + u.2 ≤ a
  ((0 :: used.map fun u => u.1 + u.2).filter free).foldl (fun r a => match r with | none => some a | some b => some (min a b)) none

/-- Bytes free. -/
def freeOf (used : List (Nat × Nat)) (limit : Nat) : Nat := limit - (used.map (·.2)).foldl (· + ·) 0

/-- Candidates put in order of the most free bytes, the lowest number among equals. -/
def putRank (x : Nat × Nat) : List (Nat × Nat) → List (Nat × Nat)
  | [] => [x]
  | y :: l => if x.2 > y.2 then x :: y :: l else y :: putRank x l
def ranked (l : List (Nat × Nat)) : List Nat := (l.foldl (fun r x => putRank x r) []).map (·.1)

/-- The cores, the cluster and the bases for the members of an entry, or none while no storage is found. A spawned
child's boxes lie in device memory, where the spec names no place: their bases are free values (R253). DESIGN CHOICE: the members of a
gang at level 1 lie one after another in the pool; assumption log 121. -/
def State.findStore (s : State) (tab : Nat) (e : CallEnt) (size : Nat) : Option (List Nat × Option Nat × List Nat) :=
  let d := s.taskDc (s.ctx e.parent)
  match s.childLvl e with
  | 0 =>
    let cores := (List.range 64).map fun k => tab * 64 + k
    let fits := cores.filterMap fun k =>
      (firstFit (s.ownUsed k) size d.own).map fun _ => (k, freeOf (s.ownUsed k) d.own)
    let best := (ranked fits).take e.nmem
    if best.length < e.nmem then none
    else some (best, none, best.map fun k => (firstFit (s.ownUsed k) size d.own).getD 0)
  | 1 =>
    let clus := (List.range 10).map fun k => cluOf e.parent / 10 * 10 + k
    let lim := 64 * d.psplit
    let fits := clus.filterMap fun k =>
      (firstFit (s.poolUsed k) (size * e.nmem) lim).map fun _ => (k, freeOf (s.poolUsed k) lim)
    match ranked fits with
    | [] => none
    | k :: _ =>
      let b := (firstFit (s.poolUsed k) (size * e.nmem) lim).getD 0
      some ([], some k, (List.range e.nmem).map fun m => b + m * size)
  | _ =>
    some ([], none, (List.range e.nmem).map fun m => (Config.freeWord (s.clk.frees + m)).toNat % 2 ^ 48 / 64 * 64)

/-! The boxes of a member, and its copies (R82, R86, R87). -/

/-- The child descriptors of a member at its base, box after box in frame order, with the slots they fill. DESIGN CHOICE: a child's boxes lie
one after another in frame order; assumption log 121. -/
def memberBoxes (c : Ctx) (lvl : Nat) : List Sel → Nat → List (Nat × Desc)
  | [], _ => []
  | x :: l, base =>
    let p := selParent c x
    (x.cslot, childDesc lvl x p base (lvl == 2)) :: memberBoxes c lvl l (base + childBytes x p)

/-- The zero bytes of a row of a child's box from its end to the end of its last granule (R86). -/
def padRow (dstAt : Nat → Loc) (loc n : Nat) : List Move :=
  let stop := cdiv (loc + n) 64 * 64
  if stop = loc + n then [] else rowFill dstAt (loc + n) (stop - (loc + n)) (fun _ => 0) false

/-- The rows of the copies inward of one selection of a member: copied from the parent's box, or zeroed. -/
def inRows (s : State) (e : CallEnt) (m : Nat) (x : Sel) (child : Desc) (core clu : Nat) : List (List Move) :=
  let h := e.parent
  let c := s.ctx h
  let (dev, dctx) := match c.task with | some t => (t.dev, t.dctx) | none => (0, 0)
  let dstAt := s.locOf core clu dev dctx child
  let p := selParent c x
  (windowRows x.ext).map fun r =>
    let (dl, n) := runBytes child (rowCrd [0, 0, 0, 0] r) (x.ext.getD 0 0)
    if x.acc = 1 ∨ x.acc = 3 then rowFill dstAt dl (cdiv n 64 * 64) (fun _ => 0) true
    else
      let (sl, _) := runBytes p (rowCrd (x.orgOf m) r) (x.ext.getD 0 0)
      rowMoves (ctxLoc s h p) dstAt sl dl n true ++ padRow dstAt dl n

/-- The rows of the copy outward of one selection of a member. -/
def outRows (s : State) (e : CallEnt) (m : Nat) (x : Sel) (child : Desc) (core clu : Nat) : List (List Move) :=
  let h := e.parent
  let c := s.ctx h
  let (dev, dctx) := match c.task with | some t => (t.dev, t.dctx) | none => (0, 0)
  let p := selParent c x
  if x.acc = 1 ∨ x.acc = 2 then
    (windowRows x.ext).map fun r =>
      let (sl, n) := runBytes child (rowCrd [0, 0, 0, 0] r) (x.ext.getD 0 0)
      let (dl, _) := runBytes p (rowCrd (x.orgOf m) r) (x.ext.getD 0 0)
      rowMoves (s.locOf core clu dev dctx child) (ctxLoc s h p) sl dl n false
  else []

/-- The copies of a call: of each selection of each member that moves anything, its member and its rows. -/
def allRows (s : State) (e : CallEnt) (rows : State → CallEnt → Nat → Sel → Desc → Nat → Nat → List (List Move)) :
    List (Nat × List (List Move)) :=
  (e.boxes.zipIdx.flatMap fun (bs, m) =>
    let core := e.cores.getD m 0
    let clu := match e.pool with | some k => k | none => core / 64
    (e.sels.zip bs).map fun (x, b) => (m, rows s e m x b.2 core clu)).filter fun x => !x.2.isEmpty

/-- The copies of a call as commands of the tongs of the calling core, or of the flux engine for a spawn, one for each selection: a
fault holds up its own selection alone (R97). -/
def State.startCall (s : State) (kind : CmdKind) (e : CallEnt) (copies : List (Nat × List (List Move))) (acq : Option (Nat × Nat)) : State :=
  let (dev, dctx) := match (s.ctx e.parent).task with | some t => (t.dev, t.dctx) | none => (0, 0)
  let cmd (m : Nat) (rows : List (List Move)) : Cmd :=
    { kind := kind, rows := rows, got := [], flag := none, wait := 0, acq := acq, rel := none, susp := none,
      deny := false, dev := dev, dctx := dctx, mem := m, place := (0, 0) }
  if copies.isEmpty then s.sched 1 ((cmd 0 []).endEvent 0)
  else copies.foldl (fun s x =>
    ({ s.bump with cmds := mins s.cmds s.clk.tick (cmd x.1 x.2) }).sched 1 (.memoryAccessPerform e.parent s.clk.tick 0)) s

/-- The scope of a parent's level: `.clu` at level 1, `.dev` at level 2, `.sys` at level 3 (R86, R87). -/
def parentScope (lvl : Nat) : Nat := if lvl ≤ 1 then 1 else if lvl = 2 then 3 else 4

/-- CALL_LEAVE_WAIT (R84, R85, R320): once every AFTER handle is satisfied and the storage is found, the children's
descriptors are made and the copies inward start, after what the parent issued before the call (R86). -/
def execCallLeaveWait (tab ent : Nat) (s : State) : Host.Outcome State Fault Refusal :=
  let e := s.call tab ent
  if e.st ≠ .wait ∨ e.dead then .next s
  else
    let again := s.sched 1 (.callLeaveWait tab ent)
    let c := s.ctx e.parent
    if c.halt ∨ !(e.after.all (s.afterOk tab e.parent)) then .next again
    else
      let lvl := s.childLvl e
      let size := (e.sels.map fun x => childBytes x (selParent c x)).foldl (· + ·) 0
      match s.findStore tab e size with
      | none => .next again
      | some (cores, pool, bases) =>
        let s := if lvl = 2 then { s with clk := { s.clk with frees := s.clk.frees + e.nmem } } else s
        let e := { e with st := .copyIn, cores := cores, pool := pool, bases := bases, size := size,
                          boxes := bases.map fun b => memberBoxes c lvl e.sels b }
        let s := s.modCall tab ent fun _ => e
        .next (s.startCall (.inward tab ent) e (allRows s e inRows) (some (e.seq, parentScope c.lvl)))

/-- 100 us in wall cycles. -/
def gangWait : Nat := 110000

/-- INWARD_COPY_LANDED (R84, R86): the entry is READY; one of whose copies was abandoned goes to RECORD (R97). -/
def execInwardCopyLanded (tab ent : Nat) (s : State) : Host.Outcome State Fault Refusal :=
  let e := s.call tab ent
  if e.st ≠ .copyIn ∨ e.dead ∨ s.moreOf (.inward tab ent) then .next s
  else if e.status ≠ 0 then .next ((s.modCall tab ent fun e => { e with st := .record }).sched 1 (.recordWrite tab ent))
  else
    let s := ((s.modCall tab ent fun e => { e with st := .ready, ready := s.clk.tick }).bump).sched 1 (.childStart tab ent)
    .next (if e.nmem > 1 then s.sched gangWait (.gangReadyTimeout tab ent) else s)

/-- GANG_READY_TIMEOUT (R320): a gang READY for 100 us holds back every later-READY entry of its cluster. -/
def execGangReadyTimeout (tab ent : Nat) (s : State) : Host.Outcome State Fault Refusal :=
  if (s.call tab ent).st = .ready then .next (s.modCall tab ent fun e => { e with hold := true }) else .next s

/-! Contexts for children (R318, R320). -/

/-- Whether a context is FREE and its core in service. -/
def State.isFree (s : State) (h : Nat) : Bool :=
  (s.ctx h).st == .free && !(s.core (coreOf h)).fenced && (mfind s.bel.launch h).isNone

/-- The lowest FREE context of a core. -/
def State.freeOn (s : State) (core : Nat) : Option Nat := ((List.range 4).map fun k => core * 4 + k).find? s.isFree

/-- The contexts of a core that are not FREE. -/
def State.busyOn (s : State) (core : Nat) : Nat := ((List.range 4).filter fun k => !s.isFree (core * 4 + k)).length
def State.busyIn (s : State) (clu : Nat) : Nat := ((List.range 64).map fun k => s.busyOn (clu * 64 + k)).foldl (· + ·) 0

/-- Candidates in order of the fewest, the lowest number among equals. -/
def putLeast (x : Nat × Nat) : List (Nat × Nat) → List (Nat × Nat)
  | [] => [x]
  | y :: l => if x.2 < y.2 then x :: y :: l else y :: putLeast x l
def leastFirst (l : List (Nat × Nat)) : List Nat := (l.foldl (fun r x => putLeast x r) []).map (·.1)

/-- The cores of a cluster that have a FREE context, those with the fewest contexts not FREE first. -/
def State.coresOf (s : State) (clu : Nat) : List Nat :=
  leastFirst ((((List.range 64).map fun k => clu * 64 + k).filter fun k => (s.freeOn k).isSome).map fun k => (k, s.busyOn k))

/-- The dies of a device (R346). -/
def State.diesOf (s : State) (dev : Nat) : List Nat := (List.range 8).filter fun d => s.devOfDie d == dev

/-- The context of a level-2 task (R318): the first die, going up from `from'` and wrapping, that has a core with a FREE
context, then the cluster and the core with the fewest contexts not FREE. -/
def State.placeTask (s : State) (dev from' : Nat) : Option Nat :=
  let ds := s.diesOf dev
  let hasFree (clu : Nat) : Bool := (List.range 64).any fun k => (s.freeOn (clu * 64 + k)).isSome
  match (ds.filter (· ≥ from') ++ ds.filter (· < from')).find? fun d => (List.range 10).any fun k => hasFree (d * 10 + k) with
  | none => none
  | some d =>
    match leastFirst ((((List.range 10).map fun k => d * 10 + k).filter hasFree).map fun k => (k, s.busyIn k)) with
    | [] => none
    | clu :: _ => (match s.coresOf clu with | [] => none | k :: _ => s.freeOn k)

/-- The contexts that the members of a READY entry take, or none while one is missing. -/
def State.childCtxs (s : State) (e : CallEnt) : Option (List Nat) :=
  let all (l : List (Option Nat)) : Option (List Nat) :=
    if l.length < e.nmem ∨ l.any Option.isNone then none else some (l.filterMap id)
  match s.childLvl e with
  | 0 => all (e.cores.map s.freeOn)
  | 1 => (match e.pool with | some clu => all (((s.coresOf clu).take e.nmem).map s.freeOn) | none => none)
  | _ =>
    let dev := match (s.ctx e.parent).task with | some t => t.dev | none => 0
    all [s.placeTask dev (dieOf e.parent)]

/-! The start of a task (R300, R315). -/

/-- The view registers of a task-table entry. -/
def startViews (ws : List Word) : SMap Word :=
  (List.range 32).foldl (fun m k => mput 0 m k (ws.getD (10 + k) 0)) []

/-- The declared occupancies of a task-table entry (R158): words 2 and 3. -/
def startOcc (ws : List Word) : List Nat := [(ws.getD 2 0).toNat, (ws.getD 3 0).toNat]

/-- A context at the start of a task (R315): everything at its reset but the views, the descriptor table and what the
starting agent gives; its breakpoints and the checking mode stand at reset as well. -/
def startCtx (wall : Nat) (t : Task) (ws : List Word) (boxes : SMap Desc) (regs : SMap Byte) (tvec gmi : Word) : Ctx :=
  { Ctx.zero with
    st := .ready, stamp := wall, task := some t, pc := atBit (fld (ws.getD 0 0) 63 32) 0,
    f := { Ctx.zero.f with vd := startViews ws, rs := regs }, bx := boxes,
    sys := { Ctx.zero.sys with gmi := gmi }, trp := { Ctx.zero.trp with tvec := tvec } }

/-- A scalar register in the register space of a starting task. -/
def startReg (m : SMap Byte) (n : Nat) (v : Word) : SMap Byte := rsPut m (8 * n) (toBytes 8 v.toNat)

/-- A task of level 2 or 3 receives in g1 the value of `now` at its first issue (R315). -/
def State.firstIssue (s : State) (h : Nat) : State :=
  let c := s.ctx h
  if c.lvl ≥ 2 ∧ c.scy = 0 then s.setCtx h { c with f := { c.f with rs := startReg c.f.rs 1 (s.now (s.devOf h)) } } else s

/-- Whether a READY entry could start now: its contexts are free, and it waits for no timestamp and no halted parent. -/
def State.canStart (s : State) (e : CallEnt) : Bool :=
  e.st == .ready && !e.dead && e.start.isNone && !(s.ctx e.parent).halt && (s.childCtxs e).isSome

/-- Whether another entry of the table keeps a READY entry back (R320): one that became READY before it and can start, or that is a
gang READY for 100 us. -/
def State.startHeld (s : State) (tab ent : Nat) (e : CallEnt) : Bool :=
  (s.table tab).any fun x => x.1 != ent && x.2.ready < e.ready && x.2.st == .ready && !x.2.dead && (x.2.hold || s.canStart x.2)

/-- CHILD_START (R84, R96, R156, R320): a READY entry takes its contexts and its children start together; a spawned child
inherits tvec and channel bindings (R315), and one with a timestamp is started by TIMED_START (R263). -/
def execChildStart (tab ent : Nat) (s : State) : Host.Outcome State Fault Refusal :=
  let e := s.call tab ent
  if e.st ≠ .ready ∨ e.dead then .next s
  else
    let again := s.sched 1 (.childStart tab ent)
    let p := s.ctx e.parent
    let held := s.startHeld tab ent e
    let soon := e.start.isSome
    match p.task with
    | none => .next s
    | some t =>
      match s.taskWords t.dev t.dctx t.image t.key e.task, s.childCtxs e with
      | some ws, some hs =>
        if held ∨ soon ∨ p.halt then .next again
        else
          let lvl := s.childLvl e
          let gang := s.clk.tick
          let inherit := lvl = 2
          let s := hs.zipIdx.foldl (fun s (h, m) =>
            let k : Task := { t with lvl := lvl, parent := some (tab, ent), queue := none, occ := startOcc ws,
                                     gang := if e.kind = 2 then some (gang, e.nmem) else none,
                                     chan := if inherit then t.chan else [] }
            let boxes := (e.boxes.getD m []).foldl (fun b x => mput Desc.none b x.1 x.2) []
            s.setCtx h (startCtx s.clk.wall k ws boxes [] (if inherit then p.trp.tvec else 0)
              (BitVec.ofNat 64 (if e.kind = 2 then m else 0)))) s.bump
          .next (s.modCall tab ent fun e => { e with st := .run, ctxs := hs, alive := hs.length })
      | _, _ => .next again

/-! Ends (R87 to R90, R93, R96, R138). -/

/-- Whether an earlier live call of an ORDER group still keeps a call's copies outward back (R93). -/
def State.orderHeld (s : State) (tab : Nat) (e : CallEnt) : Bool :=
  bitOf (s.ctx e.parent).sys.cgm e.grp &&
  (s.table tab).any fun x =>
    x.2.st != .free && !x.2.dead && x.2.parent == e.parent && x.2.grp == e.grp && x.2.order < e.order &&
    x.2.st != .record && x.2.st != .done

/-- OUTWARD_COPY_START (R87, R93): after `done`, once the earlier calls of an ORDER group have reached RECORD. -/
def execOutwardCopyStart (tab ent : Nat) (s : State) : Host.Outcome State Fault Refusal :=
  let e := s.call tab ent
  if e.st ≠ .copyOut ∨ e.dead then .next s
  else if s.orderHeld tab e ∨ (s.ctx e.parent).halt then .next (s.sched 1 (.outwardCopyStart tab ent))
  else .next (s.startCall (.outward tab ent) e (allRows s e outRows) none)

/-- OUTWARD_COPY_LANDED (R84, R87, R99): every copy has landed and the entry is in RECORD. -/
def execOutwardCopyLanded (tab ent : Nat) (s : State) : Host.Outcome State Fault Refusal :=
  let e := s.call tab ent
  if e.st ≠ .copyOut ∨ e.dead ∨ s.moreOf (.outward tab ent) then .next s
  else .next ((s.modCall tab ent fun e => { e with st := .record }).sched 1 (.recordWrite tab ent))

/-- A completion record (R88). For a child that never started (STATUS 3 or 4) the spec gives CORE, CLU and CYCLES no value: DESIGN
CHOICE, the core of its storage, or core 0 of the cluster of its storage (for a spawn, of the caller), and 0 cycles; assumption log
118. -/
def recordOf' (tab ent : Nat) (e : CallEnt) : BitVec 128 :=
  let h := e.ctxs.headD (e.cores.headD (64 * (match e.pool with | some k => k | none => cluOf e.parent)) * 4)
  let lo := atBit (fld (BitVec.ofNat 64 (handleOf (tab ≥ 80) e.gen ent)) 15 0) 0 ||| atBit e.kind 16 ||| atBit e.status 24 |||
    atBit e.nmem 32 ||| atBit (coreOf h % 64) 40 ||| atBit (cluOf h) 48 ||| atBit e.grp 56
  e.cycles ++ lo

/-- RECORD_WRITE (R84, R89): the record goes to the parent's event queue where it has room; the storage is freed with it
(R20). -/
def execRecordWrite (tab ent : Nat) (s : State) : Host.Outcome State Fault Refusal :=
  let e := s.call tab ent
  if e.st ≠ .record ∨ e.dead then .next s
  else
    let c := s.ctx e.parent
    if c.q.eq.length ≥ 32 then .next (s.sched 1 (.recordWrite tab ent))
    else
      let s := s.modCtx e.parent fun c => { c with q := { c.q with eq := c.q.eq ++ [recordOf' tab ent e] } }
      .next (s.modCall tab ent fun e => { e with st := .done })

/-- A copy abandoned (R97): its entry goes to RECORD with the first such STATUS of 3 to 6 once its other copies have ended. -/
def State.dropCopy (s : State) (id : Nat) (c : Cmd) (perm : Bool) : State :=
  let s := s.endCmd id
  let fail (tab ent st : Nat) (ev : Instr) : State :=
    let s := s.modCall tab ent fun e => { e with status := if e.status = 0 then st else e.status }
    if s.moreOf c.kind then s else s.schedOnce 1 ev
  match c.kind with
  | .inward tab ent => fail tab ent (if perm then 4 else 3) (.inwardCopyLanded tab ent)
  | .outward tab ent => fail tab ent (if perm then 6 else 5) (.outwardCopyLanded tab ent)
  | .copy h => s.modCtx h Ctx.dropCp
  | .gather h tok _ => s.modCtx h fun x => x.fill tok []

/-- COPY_FAULT (R97, R323): a copy that meets a translation fault stays suspended behind its fault record; one that meets
a permission trap is recorded and abandoned. -/
def execCopyFault (id : Nat) (s : State) : Host.Outcome State Fault Refusal :=
  match mfind s.cmds id with
  | none => .next s
  | some c =>
    match c.susp with
    | none => .next (if c.deny then s.dropCopy id c false else s)
    | some va =>
      let h := s.cmdCtx c
      let (src, hd) := match c.kind with
        | .inward tab ent => (if tab < 80 then 1 else 2, handleOf (tab ≥ 80) (s.call tab ent).gen ent)
        | .outward tab ent => (if tab < 80 then 1 else 2, handleOf (tab ≥ 80) (s.call tab ent).gen ent)
        | _ => (1, 0)
      let s := s.postFault c.dev c.dctx src (if c.deny then 1 else 0) (cluOf h) hd va (if c.deny then none else some (.cmd id))
      .next (if c.deny then s.dropCopy id c true else s)

/-- The live calls and spawns of a context: table and entry (R90). -/
def State.callsOf (s : State) (h : Nat) : List (Nat × Nat) :=
  let mine (tab : Nat) : List (Nat × Nat) :=
    ((s.table tab).filter fun x => x.2.st != .free && x.2.parent == h).map fun x => (tab, x.1)
  mine (cluOf h) ++ (match (s.ctx h).task with | some t => mine (spawnTab t) | none => [])

/-- The timed launch of an entry cancelled (R90). -/
def State.cancelStart (s : State) (tab ent : Nat) : State :=
  if tab < 80 then s
  else s.modDc ((tab - 80) / 16) ((tab - 80) % 16) fun d => { d with timed := d.timed.filter fun t => t.done || t.ent != some ent }

/-- One live entry abandoned (R90): its copies stop, its timed launch is cancelled, its children end abnormally, and it is freed once
they have. -/
def State.abandon (s : State) (tab ent status : Nat) : State :=
  let e := s.call tab ent
  let s := s.cancelStart tab ent
  let s := { s with cmds := s.cmds.filter fun x => !(x.2.kind == CmdKind.inward tab ent || x.2.kind == CmdKind.outward tab ent) }
  let running := e.st == .run
  let s := if running then e.ctxs.foldl (fun s h => if (s.ctx h).task.bind (·.parent) = some (tab, ent) then s.failTask h status else s) s else s
  s.modCall tab ent fun e => if running ∧ e.alive > 0 then { e with dead := true } else { CallEnt.zero with gen := e.gen }

/-- A context set free: nothing is left of its task, and its packets still under way serve no context (R146, R212). -/
def State.freeCtx (s : State) (h : Nat) : State :=
  let s := s.setCtx h { Ctx.zero with stamp := (s.ctx h).stamp }
  let s := { s with net := { s.net with far := s.net.far.map fun (x : Nat × Far) => (x.1, if x.2.h = some h then { x.2 with h := none } else x.2) } }
  let left := (List.range 4).any fun i => (s.ctx (coreOf h * 4 + i)).st != .free
  s.modCore (coreOf h) fun k => { k with holder := if k.holder = some (h % 4) then none else k.holder, fenced := k.fenced && left }

/-- The STATUS that a record and that a queue entry give for an end (R88, R312): 0 normal, 1 an unhandled trap, 2 a kill, and
inside the model 12 a fence and reset (R326) and 13 the end of the span (R366, R368). -/
def endStatus (v : Nat) : Nat := if v ≥ 8 then 2 else v
def queueStatus (v : Nat) : Nat := if v = 0 then 0 else if v = 1 then 3 else if v = 12 then 5 else if v = 13 then 9 else 4

/-- What a member's end means for its entry (R87, R90, R96): the largest cycle count, the first abnormal status, which
stops the other members, and, after the last member, the copies outward or the record. -/
def State.childEnd (s : State) (h tab ent status : Nat) (ccy : Word) : State :=
  let e := s.call tab ent
  let first := e.status = 0 ∧ status ≠ 0
  let s := s.modCall tab ent fun e =>
    { e with alive := e.alive - 1, status := if e.status = 0 then status else e.status,
             cycles := if e.cycles.toNat < ccy.toNat then ccy else e.cycles }
  let s := if first then e.ctxs.foldl (fun s k =>
      if k ≠ h ∧ (s.ctx k).task.bind (·.parent) = some (tab, ent) then s.failTask k status else s) s else s
  let e := s.call tab ent
  if e.alive ≠ 0 then s
  else if e.dead then s.modCall tab ent fun e => { CallEnt.zero with gen := e.gen }
  else if e.status = 0 then (s.modCall tab ent fun e => { e with st := .copyOut }).sched 1 (.outwardCopyStart tab ent)
  else (s.modCall tab ent fun e => { e with st := .record }).sched 1 (.recordWrite tab ent)

/-- The latches of a task at its end committed, cycle after cycle: what it issued takes effect (R138, R212). -/
def State.flush (s : State) (h : Nat) : Nat → State
  | 0 => s
  | n + 1 =>
    if (s.ctx h).lats.isEmpty then s
    else
      match execLatchCommit h s with
      | .next s1 => (s1.modCtx h fun c => { c with lats := c.lats.map Latch.nearer }).flush h n
      | _ => s

/-- A member's report kept with the entry it belongs to (R319): of its checks (kind 0), of its reservation (kind
2), or of the end of its task. -/
def State.entryReport (s : State) (ent key kind status : Nat) (ccy : Word) : State :=
  let put (e : QEnt) : QEnt :=
    if e.id ≠ ent then e
    else if kind = 0 then { e with checks := mins e.checks key status }
    else if kind = 2 then { e with checks := mins e.checks key 256 }
    else { e with ends := mins e.ends key (status, ccy) }
  { s with bel := { s.bel with qs := s.bel.qs.map fun x => (x.1, { x.2 with ents := x.2.ents.map put }) } }

/-- The report of the end of a launched task, kept here or sent to the launching member (R319). -/
def State.reportEnd (s : State) (t : Task) (status : Nat) (ccy : Word) : State :=
  match t.queue with
  | none => s
  | some ent =>
    if t.lead = 0 then
      (s.entryReport ent (memberKey s.net.fpeer t.dev) 1 (queueStatus status) ccy).schedOnce 1 .entryComplete
    else s.send { Pkt.zero with ty := 257, src := s.net.fpeer, ssub := t.dev, dst := (t.lead - 1) / 8, dsub := (t.lead - 1) % 8,
                                ctx := t.dctx, flux := .report ent 1 (queueStatus status) ccy }

/-- Whether an access of a context is still under way: in a queue, or for the task of a queue entry also on its way to
a peer (R138, R311). -/
def State.stillOut (s : State) (h : Nat) (c : Ctx) : Bool :=
  c.wc.ld != 0 || c.wc.st != 0 || c.wc.cp != 0 || !(c.q.lq.all Acc.isAlign) || !(c.stores.all Acc.isAlign) ||
  ((c.task.bind (·.queue)).isSome && s.net.far.any fun x => x.2.h == some h)

/-- What an abnormal end does not wait for (R97, R113, R260): loads that wait for a conversion, collectives, and suspended
copies. -/
def State.dropWaits (s : State) (h : Nat) : State :=
  match (s.ctx h).task with
  | none => s
  | some t =>
    let toks := (s.dc t.dev t.dctx).waiting h
    let mine (w : Waiter) : Bool := match w with | .ldp x _ => x == h | .entry _ => false
    let s := s.modDc t.dev t.dctx fun d => { d with place := d.place.map fun e =>
      (e.1, { e.2 with conv := e.2.conv.map fun k => { k with wait := k.wait.filter fun w => !mine w } }) }
    let s := toks.foldl (fun s tok => s.failLoad h tok) s
    let gone (c : Cmd) : Bool := c.kind == .copy h && (c.susp.isSome || c.deny)
    let n := (s.colls.filter fun x => x.2.h == some h).length + (s.cmds.filter fun x => gone x.2).length
    ({ s with colls := s.colls.filter fun x => x.2.h != some h, cmds := s.cmds.filter fun x => !gone x.2 }).modCtx h fun c =>
      { c with wc := { c.wc with cp := c.wc.cp - n } }

/-- TASK_END (R89, R90, R138, R212): with its calls ended and its accesses performed, the task ends and its context is
FREE; after an abnormal end its live calls and spawns end first. -/
def execTaskEnd (h : Nat) (s : State) : Host.Outcome State Fault Refusal :=
  let c := s.ctx h
  match c.fin, c.task with
  | some v, some t =>
    let v := if v = 0 ∧ !c.trp.fq.isEmpty then 1 else v
    let s := s.modCtx h fun c => { c with fin := some v, halt := false }
    let again (s : State) : State := s.schedOnce 1 (.taskEnd h)
    let s : State := if v = 0 then s else (s.callsOf h).foldl (fun (s : State) (x : Nat × Nat) => s.abandon x.1 x.2 v) (s.dropWaits h)
    let open' := (s.callsOf h).filter fun x => v ≠ 0 || (s.call x.1 x.2).st != .done
    let lats := (match c.trp.aside with | some a => a.lats | none => []) ++ c.lats
    if !open'.isEmpty ∨ lats.any (!·.here) then .next (again s)
    else
      let s := (s.modCtx h fun c => { c with lats := lats, trp := { c.trp with aside := none } }).flush h 65536
      if s.stillOut h (s.ctx h) then .next (again s)
      else
        let s : State := (s.callsOf h).foldl (fun (s : State) (x : Nat × Nat) => s.modCall x.1 x.2 fun e => { CallEnt.zero with gen := e.gen }) s
        let s := (s.freeCtx h).reportEnd t v c.ccy
        .next (match t.parent with
          | some (tab, ent) => s.childEnd h tab ent (endStatus v) c.ccy
          | none => s)
  | _, _ => .next s

/-! The quench clock (R324). -/

/-- The limits T1 to T3 of a queue in µs, 0 where disabled: one not above the limit before it that is not zero. -/
def Queue.limits (q : Queue) : List Nat :=
  let t1 := fld q.lim 31 0
  let t2 := fld q.lim 63 32
  let t3 := fld q.lim3 31 0
  [t1, if t2 ≤ t1 then 0 else t2, if t3 ≤ (if t2 = 0 then t1 else t2) then 0 else t3]

/-- TYPE of an entry (R311). -/
def QEnt.ty (e : QEnt) : Nat := fld (e.ws.getD 0 0) 63 56

/-- The entry whose quench clock counts: the oldest launch that has started and not completed. -/
def Queue.clocked (q : Queue) : Option QEnt := q.ents.find? fun e => e.started && e.fin.isNone && (e.ty == 3 || e.ty == 4)

/-- The clock of an entry in wall cycles, plus 1 once it has run. -/
def QEnt.elapsed (e : QEnt) (wall : Nat) : Nat :=
  match e.since with
  | some t => e.clk + (wall - t)
  | none => e.clk

/-- The wall cycles of a time in µs. -/
def usCycles (n : Nat) : Nat := n * 1100

/-- The stages still to come of a queue's running clock put into the agenda. -/
def State.armQuench (s : State) (q : Nat) : State :=
  match mfind s.bel.qs q with
  | none => s
  | some k =>
    match k.clocked with
    | none => s
    | some e =>
      if e.since.isNone then s
      else
        let arm (s : State) (i : Nat) (ev : Instr) : State :=
          let t := k.limits.getD i 0
          if t = 0 ∨ e.stage / 2 ^ i % 2 = 1 then s else s.schedOnce (usCycles t + 1 - e.elapsed s.clk.wall) ev
        arm (arm (arm s 0 (.quenchT1 q)) 1 (.quenchT2 q)) 2 (.quenchT3 q)

/-- The clock of an entry begins with the first issue of its task. -/
def State.clockStart (s : State) (ent : Nat) : State :=
  match s.bel.qs.find? fun x => x.2.ents.any fun e => e.id == ent && e.clk == 0 with
  | none => s
  | some (q, k) =>
    let es := k.ents.map fun e => if e.id = ent then { e with clk := 1, since := some s.clk.wall } else e
    ({ s with bel := { s.bel with qs := mins s.bel.qs q { k with ents := es } } }).armQuench q

end Sys2Proof.Machine
end

