-- ==== Sys2Proof/Machine/Swap.lean ====
section
/-! DEFINITION. Pre-emption and swap (R62, R63, R98, R142, R143, R160, R161, R317), the timed events of a span and their
tokens (R328), and the timebase (R327). -/

namespace Sys2Proof.Machine

/-! The image of a partition. -/

/-- The resident device context of a device, if any (R308). -/
def State.resident (s : State) (dev : Nat) : Option Nat :=
  match mget 0 s.res dev with
  | 0 => none
  | c + 1 => some c

/-- Whether an event belongs to the partition of a device, and so stops and resumes with it. -/
def State.inPartition (s : State) (dev : Nat) (i : Instr) : Bool :=
  let ctx (h : Nat) : Bool := s.devOf h == dev
  let tab (t : Nat) : Bool := (if t < 80 then s.devOfDie (t / 10) else (t - 80) / 16) == dev
  let cmd (id : Nat) : Bool := match mfind s.cmds id with | some c => c.dev == dev | none => false
  let coll (id : Nat) : Bool := match mfind s.colls id with | some c => c.dev == dev && s.resident dev == some c.dctx | none => false
  match i with
  | .loadArrive h _ => ctx h
  | .portFetch h _ => ctx h
  | .memoryAccessPerform h _ _ => ctx h
  | .egressRelease h _ => ctx h
  | .taskEnd h => ctx h
  | .callLeaveWait t _ => tab t
  | .inwardCopyLanded t _ => tab t
  | .childStart t _ => tab t
  | .gangReadyTimeout t _ => tab t
  | .outwardCopyStart t _ => tab t
  | .outwardCopyLanded t _ => tab t
  | .recordWrite t _ => tab t
  | .copyComplete id => cmd id
  | .copyFault id => cmd id
  | .backoffResend id => (match mfind s.net.far id with | some r => (match r.h with | some h => ctx h | none => false) | none => false)
  | .conversionStart d c _ => d == dev && s.resident dev == some c
  | .conversionComplete d c _ => d == dev && s.resident dev == some c
  | .collStart id => coll id
  | .chunkFinal id _ => coll id
  | _ => false

/-- Whether an engine command of a halted partition is where its image takes it (R98, R161): a gather delivers its rows first, unless it waits
for an acquire, for a conversion or for the reply to a fault. -/
def State.cmdStill (s : State) (c : Cmd) : Bool :=
  match c.kind with
  | .gather h _ _ => c.susp.isSome || c.deny || (match c.acq with | some (seq, sc) => !s.allAt h seq sc | none => false) ||
      (match c.rows with | row :: _ => s.rowWaits row | [] => false)
  | _ => true

/-- Whether a halted partition may be exchanged (R142, R143, R161): its queues are settled, its gathers have their rows, and no packet is out but
those that may stay out. -/
def State.quiet (s : State) (dev : Nat) : Bool :=
  (s.hw.all fun x => s.devOf x.1 != dev || s.settled x.1 x.2) &&
  (s.cmds.all fun x => x.2.dev != dev || s.cmdStill x.2) &&
  (s.net.far.all fun x => match x.2.h with
    | some h => s.devOf h != dev || s.mayStayOut x.1 x.2
    | none => true) &&
  (s.bel.tasks.all fun h => s.devOf h != dev)

/-- The runs that the read ports hold dropped, to be fetched again after the swap-in (R183). -/
def Ctx.unfetch (c : Ctx) : Ctx :=
  let go (m : SMap (Option Gen)) (n : Nat) : SMap (Option Gen) :=
    match mget none m n with
    | none => m
    | some x => mput none m n (some { x with fetched := [], fidx := x.idx, fover := x.past })
  { c with q := { c.q with ag := [0, 1, 2, 3].foldl go c.q.ag } }

/-- The image of a partition (R62). The fence counters, the pending fences and the sequence numbers of R143 are kept by device context in `Net`,
so that they stay as they are until the resumption, and a packet that comes meanwhile finds them. -/
def State.image (s : State) (dev : Nat) : Image :=
  { hw := (s.hw.filter fun x => s.devOf x.1 == dev).map fun x => (x.1, x.2.unfetch),
    sp := s.mem.sp.filter fun x => s.devOfDie (x.1 / 2 ^ 18 / 640) == dev,
    spTag := s.mem.spTag.filter fun x => s.devOfDie (x.1 / 2 ^ 12 / 640) == dev,
    cores := (s.cores.filter fun x => s.devOfDie (x.1 / 640) == dev).map fun x => (x.1, x.2.holder),
    calls := (s.clus.filter fun x => s.devOfDie (x.1 / 10) == dev).map fun x => (x.1, x.2.calls),
    cmds := s.cmds.filter fun x => x.2.dev == dev,
    far := s.net.far.filter fun x => match x.2.h with | some h => s.devOf h == dev | none => false,
    launch := s.bel.launch.filter fun x => s.devOf x.1 == dev,
    evs := (s.agenda.filter fun x => s.inPartition dev x.2).map fun x => (x.1 - s.clk.wall, x.2) }

/-- The partition of a device emptied (R63). -/
def State.vacate (s : State) (dev : Nat) : State :=
  { s with
    agenda := s.agenda.filter fun x => !s.inPartition dev x.2,
    hw := s.hw.filter fun x => s.devOf x.1 != dev,
    mem := { s.mem with sp := s.mem.sp.filter fun x => s.devOfDie (x.1 / 2 ^ 18 / 640) != dev,
                        spTag := s.mem.spTag.filter fun x => s.devOfDie (x.1 / 2 ^ 12 / 640) != dev },
    cores := s.cores.map fun x => if s.devOfDie (x.1 / 640) = dev then (x.1, { x.2 with holder := none }) else x,
    clus := s.clus.map fun x => if s.devOfDie (x.1 / 10) = dev then (x.1, { x.2 with calls := [], tlb := [], old := x.2.tlb ++ x.2.old }) else x,
    cmds := s.cmds.filter fun x => x.2.dev != dev,
    net := { s.net with far := s.net.far.filter fun x => match x.2.h with | some h => s.devOf h != dev | none => true },
    bel := { s.bel with launch := s.bel.launch.filter fun x => s.devOf x.1 != dev },
    mgt := { s.mgt with bad := s.mgt.bad.filter fun g => !(g < spSpace / 64 && s.devOfDie (g / 2 ^ 12 / 640) == dev) },
    res := mput 0 s.res dev 0 }

/-- Entries of one map laid into another. -/
def mmerge {α : Type} (m n : SMap α) : SMap α := n.foldl (fun m x => mins m x.1 x.2) m

/-- An image made live (R63). -/
def State.install (s : State) (dev c : Nat) (i : Image) : State :=
  let s := { s with
    hw := mmerge s.hw i.hw,
    mem := { s.mem with sp := i.sp.foldl (fun m x => mput 0 m x.1 x.2) s.mem.sp,
                        spTag := i.spTag.foldl (fun m x => mput 0 m x.1 x.2) s.mem.spTag },
    cmds := mmerge s.cmds i.cmds,
    net := { s.net with far := mmerge s.net.far i.far },
    bel := { s.bel with launch := mmerge s.bel.launch i.launch },
    res := mput 0 s.res dev (c + 1) }
  let s := i.cores.foldl (fun s x => s.modCore x.1 fun k => { k with holder := x.2 }) s
  let s := i.calls.foldl (fun s x => s.modClu x.1 fun k => { k with calls := x.2 }) s
  i.evs.foldl (fun s x => s.sched x.1 x.2) s

/-- Every context of a partition halted, or resumed (R160, R161). -/
def State.setHalt (s : State) (dev : Nat) (b : Bool) : State :=
  { s with hw := s.hw.map fun x => if s.devOf x.1 = dev then (x.1, { x.2 with halt := b }) else x }

/-- The pre-emption of a device's partition. -/
def State.partOf (s : State) (dev : Nat) : Part := (mfind s.part dev).getD Part.zero
def State.setPart (s : State) (dev : Nat) (p : Part) : State := { s with part := mins s.part dev p }

/-! Which context should be resident (R309, R310, R317). -/

/-- The device that a queue is assigned to (R309). -/
def State.queueDev (s : State) (q : Nat) : Nat := if s.dieMode = 0 then 0 else if s.dieMode = 1 then q / 32 else q / 8

/-- A queue. -/
def State.queue (s : State) (q : Nat) : Queue := (mfind s.bel.qs q).getD Queue.zero
def State.modQueue (s : State) (q : Nat) (f : Queue → Queue) : State :=
  { s with bel := { s.bel with qs := mins s.bel.qs q (f (s.queue q)) } }

def Queue.en (q : Queue) : Bool := bitOf q.cfg 0
def Queue.ctx (q : Queue) : Nat := fld q.cfg 35 32
def Queue.prio (q : Queue) : Nat := fld q.cfg 10 8
def Queue.size (q : Queue) : Nat := fld q.cfg 47 40

/-- Whether a queue has an entry that it may take: its last one has started (R310). -/
def Queue.takeable (q : Queue) : Bool := q.en && q.head != q.tail && q.ents.all (·.started)

/-- The queues of a device whose CTX is a device context. -/
def State.queuesOf (s : State) (dev c : Nat) : List (Nat × Queue) :=
  s.bel.qs.filter fun x => s.queueDev x.1 == dev && x.2.ctx == c

/-- The highest PRIO, plus 1, of the queues of a context that meet a test; 0 where none does. -/
def State.rank (s : State) (dev c : Nat) (f : Queue → Bool) : Nat :=
  (((s.queuesOf dev c).filter fun x => f x.2).map fun x => x.2.prio + 1).foldl max 0

/-- The contexts of a device context, live or in its image. -/
def State.ctxsOf (s : State) (dev c : Nat) : List Ctx :=
  if s.resident dev = some c then (s.hw.filter fun x => s.devOf x.1 == dev).map (·.2)
  else (((mfind s.images (dev * 16 + c)).map (·.hw)).getD []).map (·.2)

/-- Whether an entry needs its context on the cores or in the flux engine: a launch, a collective or a conversion. -/
def QEnt.needs (e : QEnt) : Bool := 3 ≤ e.ty && e.ty ≤ 6

/-- The rank that a launch message asks a context to come in with on this member: the PRIO it carries, plus 1 (R319). -/
def State.called (s : State) (dev c : Nat) : Nat :=
  s.agenda.foldl (fun r x => match x.2 with
    | .launchMessage p => (match p.flux with
      | .launch go _ _ prio _ _ => if go ≠ 0 ∧ p.dsub = dev ∧ p.ctx = c then max r (prio + 1) else r
      | _ => r)
    | _ => r) 0

/-- The rank of a context by its queues that have an entry to take, and by those with an entry to take or not completed. The
management context's entries are taken at once, and count only while they need the context (assumption log 17). -/
def State.want (s : State) (dev c : Nat) : Nat :=
  max (s.called dev c) (s.rank dev c fun q => if c = 0 then q.ents.any fun e => e.needs && !e.started && e.fin.isNone else q.takeable)
def State.work (s : State) (dev c : Nat) : Nat :=
  max (s.called dev c)
    (s.rank dev c fun q => if c = 0 then q.ents.any fun e => e.needs && e.fin.isNone else q.takeable || !q.ents.isEmpty)

/-- The device context, other than the one given, that ranks highest among those that may be swapped in; the lowest number
among equals (R317); assumption log 17. -/
def State.candidate (s : State) (dev : Nat) (cur : Option Nat) : Option Nat :=
  let l := (List.range 16).filter fun c => (s.dc dev c).live && !(s.dc dev c).away && some c != cur && s.work dev c > 0
  l.foldl (fun r c => match r with
    | none => some c
    | some b => if s.want dev c > s.want dev b ∨ (s.want dev c = s.want dev b ∧ s.work dev c > s.work dev b) then some c else r) none

/-- PRIORITY_PREEMPT (R317): a higher queue of a context that is not resident pre-empts the resident one; for a context that
spans devices by a timed pre-emption 100 µs on, and such a context comes back with its tasks by a timed resumption;
assumption log 17. The queues of the resident context are served. -/
def execPriorityPreempt (s : State) : Host.Outcome State Fault Refusal :=
  let go (s : State) (dev : Nat) : State :=
    let cur := s.resident dev
    let s := match cur with
      | some k => (s.queuesOf dev k).foldl (fun (s : State) (x : Nat × Queue) => if x.2.takeable then s.schedOnce 0 (.entryTake x.1) else s) s
      | none => s
    match s.candidate dev cur with
    | none => s
    | some c =>
      let better : Bool := match cur with
        | none => true
        | some k => s.want dev c > s.want dev k ||
          (s.work dev k == 0 && !(s.ctxsOf dev k).any fun x => x.task.isSome)
      if !better ∨ (s.partOf dev).asked then s
      else
        let spans : Bool := match cur with | some k => (s.dc dev k).members.length > 1 | none => false
        let back := (s.dc dev c).members.length > 1 && (s.ctxsOf dev c).any fun x => x.task.isSome
        match cur, spans with
        | some k, true =>
          if (s.dc dev k).timed.any fun e => e.kind == 2 && !e.done then s
          else s.armSpan dev k (Timed.new 2 (s.now dev + BitVec.ofNat 64 ns100) ((s.dc dev k).evnum + 1))
        | _, _ => if back then
            (if (s.dc dev c).timed.any fun e => e.kind == 4 && !e.done then s
             else s.armSpan dev c (Timed.new 4 (s.now dev + BitVec.ofNat 64 ns100) ((s.dc dev c).evnum + 1)))
          else (s.setPart dev { asked := true, halt := false, next := c + 1, num := 0 }).schedOnce 0 .preemptRequest
  .next ((List.range 8).foldl go s)

/-- PREEMPT_REQUEST (R160): every core of a partition asked for stops at its issue boundary; the exchange follows. -/
def execPreemptRequest (s : State) : Host.Outcome State Fault Refusal :=
  .next (s.part.foldl (fun s x =>
    if x.2.asked ∧ !x.2.halt then ((s.setHalt x.1 true).setPart x.1 { x.2 with halt := true }).sched 1 (.contextSwap x.1) else s) s)

/-- The quench clocks of a context's entries stopped, and set going again (R324). -/
def State.holdClocks (s : State) (dev c : Nat) : State :=
  (s.queuesOf dev c).foldl (fun s x => s.modQueue x.1 fun k =>
    { k with ents := k.ents.map fun e => if e.since.isSome then { e with clk := e.elapsed s.clk.wall, since := none } else e }) s
def State.runClocks (s : State) (dev c : Nat) : State :=
  (s.queuesOf dev c).foldl (fun s x => (s.modQueue x.1 fun k =>
    { k with ents := k.ents.map fun e => if e.clk ≠ 0 ∧ e.fin.isNone then { e with since := some s.clk.wall } else e }).armQuench x.1) s

/-- The partition of a device exchanged: the live image saved, that of another context made live and resumed. -/
def State.exchange (s : State) (dev : Nat) (next : Option Nat) : State :=
  let s := match s.resident dev with
    | some c => (({ s with images := mins s.images (dev * 16 + c) (s.image dev),
                           mgt := { s.mgt with ember := mput 0 s.mgt.ember dev (c + 1) } }).vacate dev).holdClocks dev c
    | none => { s with mgt := { s.mgt with ember := if next = some (mget 0 s.mgt.ember dev - 1) then mput 0 s.mgt.ember dev 0 else s.mgt.ember } }
  match next with
  | none => s
  | some c =>
    let i := (mfind s.images (dev * 16 + c)).getD Image.zero
    ((({ s with images := mdel s.images (dev * 16 + c) }).install dev c i).setHalt dev false).runClocks dev c

/-- CONTEXT_SWAP (R161, R317): once the halted partition is quiet, it is exchanged. A member that was halted by a timed
pre-emption says so. -/
def execContextSwap (d : Nat) (s : State) : Host.Outcome State Fault Refusal :=
  let p := s.partOf d
  if !p.halt then .next s
  else if !s.quiet d then .next (s.sched 1 (.contextSwap d))
  else
    let cur := s.resident d
    let next := if p.num ≠ 0 ∨ p.next = 0 then s.candidate d cur else some (p.next - 1)
    let s := (s.exchange d next).setPart d Part.zero
    match cur with
    | none => .next (s.schedOnce 1 .priorityPreempt)
    | some c =>
      match (s.dc d c).timed.find? fun e => p.num ≠ 0 && e.num + 1 == p.num with
      | none => .next (s.schedOnce 1 .priorityPreempt)
      | some e =>
        let s := s.modDc d c fun x => { x with away := e.asker ≠ 0 ∨ e.qent.isSome ∨ x.away }
        .next ((s.ackTimed d c { e with kind := 10 }).schedOnce 1 .priorityPreempt)

/-! Timed events (R328). -/

/-- A halt carried out by this member: the partition halts, where the context is resident, the record is written, and the
member acknowledges. The coordinator sends its token. -/
def State.carryHalt (s : State) (dev dctx : Nat) (e : Timed) : State :=
  let s := if s.coordinates dev dctx then s.tellAll dev dctx 14 (.token e.kind e.t) else s
  let here := s.resident dev == some dctx
  let s := if here then (s.setHalt dev true).setPart dev { asked := true, halt := true, next := 0, num := e.num + 1 } else s
  let s := (s.timeLog dev dctx e.kind e.num e.t (s.now dev)).modTimed dev dctx e.kind e.t fun x => { x with done := true }
  let s := s.ackTimed dev dctx e
  if e.kind = 3 then s.sched 1 .checkpointHalt
  else if here then s.sched 1 (.contextSwap dev)
  else s.ackTimed dev dctx { e with kind := 10 }

/-- Whether a member acts on a timed event by itself, or waits for a token: in token mode every member but the coordinator
waits (R328). An event of this device alone waits for nobody. -/
def State.acts (s : State) (dev dctx : Nat) (e : Timed) : Bool := (s.tb dev).mode != 2 || s.coordinates dev dctx || e.strag == 3

/-- TIMED_HALT (R262, R264, R328): the first boundary at which `now` has reached the timestamp. -/
def execTimedHalt (d c num : Nat) (s : State) : Host.Outcome State Fault Refusal :=
  match (s.dc d c).timed.find? fun e => e.num == num && (e.kind == 2 || e.kind == 3) && !e.done with
  | none => .next s
  | some e =>
    if !s.reached d e.t then .next (s.sched 1 (.timedHalt d c num))
    else if !s.acts d c e then .next s
    else .next (s.carryHalt d c e)

/-- The record and the acknowledgement of a start that has come about. -/
def State.started (s : State) (dev dctx : Nat) (e : Timed) : State :=
  let s := (s.timeLog dev dctx e.kind e.num e.t (s.now dev)).modTimed dev dctx e.kind e.t fun x => { x with done := true }
  s.ackTimed dev dctx e

/-- A start carried out: the child of a `tlaunch` once it is READY, the tasks reserved by a TLAUNCH, or the resumption of a
swapped or rolled-back context; it is tried again until it can take place. -/
def State.carryStart (s : State) (dev dctx : Nat) (e : Timed) : State :=
  let s := if s.coordinates dev dctx ∧ !e.acks.contains (memberKey s.net.fpeer dev) ∧ s.reached dev e.t ∧ e.strag = 0 then
      s.tellAll dev dctx 14 (.token e.kind e.t) else s
  let again (s : State) : State := s.sched 1 (.timedStart dev dctx e.num)
  if e.kind = 4 then
    if s.resident dev = some dctx ∧ !(s.partOf dev).halt then s.started dev dctx e
    else if s.resident dev = some dctx ∧ (s.partOf dev).next = 0 then
      ((s.setHalt dev false).setPart dev Part.zero).started dev dctx e
    else
      let s := s.modDc dev dctx fun x => { x with away := false }
      if (s.partOf dev).asked then again s
      else again ((s.setPart dev { asked := true, halt := false, next := dctx + 1, num := 0 }).schedOnce 0 .preemptRequest)
  else
    match e.ent with
    | some i =>
      let tab := 80 + dev * 16 + dctx
      let k := s.call tab i
      if k.st = .free ∨ k.dead then s.modTimed dev dctx e.kind e.t fun x => { x with done := true }
      else
        match execChildStart tab i (s.modCall tab i fun x => { x with start := none }) with
        | .next s1 =>
          if (s1.call tab i).st = .run then s1.started dev dctx e
          else again (s.modCall tab i fun x => { x with start := k.start })
        | _ => s
    | none =>
      let hs := (s.bel.launch.filter fun x => x.2.at' == some e.t && x.2.dev == dev && x.2.dctx == dctx).map (·.1)
      if (s.partOf dev).halt ∨ s.resident dev ≠ some dctx then again s
      else
        let s := { s with bel := { s.bel with tasks := s.bel.tasks ++ hs.filter fun h => !s.bel.tasks.contains h } }
        (s.schedOnce 0 .taskStart).started dev dctx e

/-- TIMED_START (R263, R328): the first cycle in which `now` has reached the timestamp. -/
def execTimedStart (d c num : Nat) (s : State) : Host.Outcome State Fault Refusal :=
  match (s.dc d c).timed.find? fun e => e.num == num && (e.kind == 1 || e.kind == 4) && !e.done with
  | none => .next s
  | some e =>
    if !s.reached d e.t then .next (s.sched 1 (.timedStart d c num))
    else if !s.acts d c e then .next s
    else .next (s.carryStart d c e)

/-- Whether a packet is taken in: its source is in state 1 of the peer table, else it is dropped and counted (R332). -/
def State.takenIn (s : State) (p : Pkt) : Bool × State :=
  if s.peerUp p.src then (true, s) else (false, s.countErr 5)

/-- START_OR_STOP_TOKEN (R328): a token in token mode carries its event out. The message that arms an event on a member comes
in the same packet type; assumption log 16. -/
def execStartOrStopToken (p : Pkt) (s : State) : Host.Outcome State Fault Refusal :=
  let (ok, s) := s.takenIn p
  if !ok ∨ !(s.dc p.dsub p.ctx).live then .next s
  else
    match p.flux with
    | .arm kind t num =>
      let who := memberKey p.src p.ssub + 1
      (match s.findTimed p.dsub p.ctx kind t with
       | some _ => .next (s.modTimed p.dsub p.ctx kind t fun e => { e with asker := who })
       | none => .next (s.armTimed p.dsub p.ctx { Timed.new kind t num with asker := who }))
    | .token kind t =>
      (match s.findTimed p.dsub p.ctx kind t with
       | some e =>
         if e.done ∨ (s.tb p.dsub).mode ≠ 2 then .next s
         else if kind = 2 ∨ kind = 3 then .next (s.carryHalt p.dsub p.ctx e)
         else .next (s.carryStart p.dsub p.ctx e)
       | none => .next s)
    | _ => .next s

/-- The device contexts of this package, as device and number. -/
def State.dctxs (s : State) : List (Nat × Nat) := (s.dctx.filter fun x => x.2.live).map fun x => (x.1 / 16, x.1 % 16)

/-- A timed event whose stragglers the coordinator of this device has to look at, from `after` ns past its timestamp on. -/
def State.latecomers (s : State) (strag after : Nat) : List (Nat × Nat × Timed) :=
  s.dctxs.flatMap fun x =>
    if !s.coordinates x.1 x.2 then []
    else ((s.dc x.1 x.2).timed.filter fun e =>
      e.strag == strag && e.kind != 6 && s.reached x.1 (e.t + BitVec.ofNat 64 after)).map fun e => (x.1, x.2, e)

/-- A rollback decided by the coordinator, on every member, with the resumption 1 ms on (R328, R365); assumption log 16. -/
def State.orderRollback (s : State) (dev dctx lost : Nat) : State :=
  let done := ((mfind s.ckpts (dev * 16 + dctx)).getD []).filter (·.full)
  let num := (done.map (·.num)).foldl max 0
  let t := s.now dev + BitVec.ofNat 64 ns1000
  let s := s.modDc dev dctx fun d => { d with back := some (num, t, lost) }
  (s.tellAll dev dctx 258 (.back num t lost)).schedOnce 0 .rollback

/-- STRAGGLER_TIMEOUT (R328): 20 µs after a timestamp the coordinator waits longer for a member that has not acknowledged, or
has the span rolled back, by SPOL. -/
def execStragglerTimeout (s : State) : Host.Outcome State Fault Refusal :=
  .next ((s.latecomers 0 ns20).foldl (fun s (d, c, e) =>
    if (s.dc d c).allAcked e then s.modTimed d c e.kind e.t fun x => { x with strag := 3 }
    else
      let s := s.modTimed d c e.kind e.t fun x => { x with strag := 1 }
      if (s.dc d c).spol = 0 then s.sched (nsCycles ns1000) .stragglerWaitExpiry
      else (s.modTimed d c e.kind e.t fun x => { x with strag := 3 }).orderRollback d c 0) s)

/-- STRAGGLER_WAIT_EXPIRY (R328): a member still has not acknowledged 1 ms later, and the span is rolled back. -/
def execStragglerWaitExpiry (s : State) : Host.Outcome State Fault Refusal :=
  .next ((s.latecomers 1 (ns20 + ns1000 - 2)).foldl (fun s (d, c, e) =>
    let s := s.modTimed d c e.kind e.t fun x => { x with strag := 3 }
    if (s.dc d c).allAcked e then s else s.orderRollback d c 0) s)

/-! The timebase (R327). -/

/-- 1 s in ns, and the silence after which the servo is in holdover, 2 s; assumption log 18. -/
def nsSecond : Nat := 1000000000

/-- IEEE_1588_MESSAGE (R327): the offset of the device it reaches is to be slewed away, and the uncertainty is what the message leaves. -/
def execIeee1588Message (p : Pkt) (s : State) : Host.Outcome State Fault Refusal :=
  let (ok, s) := s.takenIn p
  match ok, p.flux with
  | true, .time off unc =>
    let t := s.tb p.dsub
    let now := s.now p.dsub
    let below := if unc < 1000 then t.below.orElse fun _ => some now else none
    let s := s.modTb p.dsub fun t =>
      { t with off := off, unc := unc, slew := -off, last := now, below := below, mode := if t.mode = 1 then 0 else t.mode }
    let s := s.sched (nsCycles (2 * nsSecond)) .holdoverEnter
    let s := if unc > 2000 then s.schedOnce 0 .tokenModeEnter else s
    .next (if t.mode = 2 ∧ below.isSome then s.schedOnce (nsCycles nsSecond) .lockRegain else s)
  | _, _ => .next s

/-- The devices whose sync messages have stopped. -/
def State.silent (s : State) : List Nat :=
  s.devices.filter fun d => (s.tb d).last.toNat + 2 * nsSecond - 10 ≤ (s.now d).toNat

/-- The uncertainty of a device in holdover, grown by a free amount. -/
def State.driftOff (s : State) (dev : Nat) : State :=
  let unc := (s.tb dev).unc + (Config.freeWord s.clk.frees).toNat % 1000 + 1
  (s.modTb dev fun t =>
    { t with mode := if t.mode = 2 then 2 else 1, unc := unc, below := if unc < 1000 then t.below else none }).draw

/-- HOLDOVER_ENTER (R327): on the devices whose sync messages have stopped, the uncertainty grows by a free amount each second. -/
def execHoldoverEnter (s : State) : Host.Outcome State Fault Refusal :=
  let l := s.silent
  if l.isEmpty then .next s
  else
    let s := (l.foldl State.driftOff s).sched (nsCycles nsSecond) .holdoverEnter
    .next (if l.any fun d => (s.tb d).unc > 2000 then s.schedOnce 0 .tokenModeEnter else s)

/-- TOKEN_MODE_ENTER (R327): U of a device exceeds 2 µs. -/
def execTokenModeEnter (s : State) : Host.Outcome State Fault Refusal :=
  .next (s.devices.foldl (fun s d => if (s.tb d).unc > 2000 then s.modTb d fun t => { t with mode := 2, below := none } else s) s)

/-- The time at which a device in token mode has stayed below 1 µs long enough (R327). -/
def Timebase.lockAt (t : Timebase) : Option Nat :=
  match t.mode, t.below with | 2, some b => some (b.toNat + nsSecond) | _, _ => none

/-- LOCK_REGAIN (R327): U of a device in token mode has stayed below 1 µs for 1 s. -/
def execLockRegain (s : State) : Host.Outcome State Fault Refusal :=
  let s := s.devices.foldl (fun s d => match (s.tb d).lockAt with
    | some n => if n ≤ (s.now d).toNat then s.modTb d fun t => { t with mode := 0 } else s
    | none => s) s
  .next (if s.devices.any fun d => (s.tb d).lockAt.isSome then s.schedOnce (nsCycles nsSecond) .lockRegain else s)

end Sys2Proof.Machine
end

