-- ==== Sys2Proof/Machine/Quench.lean ====
section
/-! DEFINITION. The quench (R319, R324 to R326): pre-emption, kill, and fence and reset of the task of a queue entry. -/

namespace Sys2Proof.Machine

/-- The launched task at the root of a context's calls: its entry and launching member. -/
def State.rootOf (s : State) (h : Nat) : Nat → Option (Nat × Nat)
  | 0 => none
  | n + 1 =>
    match (s.ctx h).task with
    | none => none
    | some t =>
      match t.queue, t.parent with
      | some e, _ => some (e, t.lead)
      | none, some (tab, ent) => s.rootOf (s.call tab ent).parent n
      | none, none => none

/-- The contexts of a device that run the task of an entry, or a descendant of it. -/
def State.runners (s : State) (dev lead ent : Nat) : List Nat :=
  (s.hw.filter fun x => s.devOf x.1 == dev && s.rootOf x.1 8 == some (ent, lead)).map (·.1)

/-- Stage T2 (R325): every context that runs the task halts and ends abnormally, its descendants with it (R90). -/
def State.killHere (s : State) (dev lead ent : Nat) : State :=
  (s.runners dev lead ent).foldl (fun s h => s.failTask h 2) s

/-- A context of a fenced core: its queues are dropped and its task ends. -/
def State.crush (s : State) (h : Nat) : State :=
  let s := { s with cmds := s.cmds.filter fun x => s.cmdCtx x.2 != h, colls := s.colls.filter fun x => x.2.h != some h }
  let s := s.modCtx h fun c =>
    { c with fin := some 12, q := Ctx.zero.q, wc := Ctx.zero.wc, lats := [], trp := { c.trp with aside := none } }
  s.schedOnce 0 (.taskEnd h)

/-- A core taken out of issue and reset, with its arrays zero (R326). -/
def State.fenceCore (s : State) (k : Nat) : State :=
  let s := ((List.range 4).filter fun i => (s.ctx (k * 4 + i)).task.isSome).foldl (fun s i => s.crush (k * 4 + i)) s
  let m := { s.mem with sp := s.mem.sp.filter fun x => x.1 / 2 ^ 18 != k, spTag := s.mem.spTag.filter fun x => x.1 / 2 ^ 12 != k }
  { s with mem := m }.modCore k fun x => { x with holder := none, fenced := true }

/-- Stage T3 on a device: whether a context of the task had not ended, and the state with its cores fenced. -/
def State.fenceHere (s : State) (dev lead ent : Nat) : Bool × State :=
  let ks := ((s.runners dev lead ent).map coreOf).eraseDups
  if ks.isEmpty then (false, s) else (true, (ks.foldl (fun s k => s.fenceCore k) s).mgmtIrq)

/-- A stage that the launching member has sent (R319). -/
def State.quenchHere (s : State) (dev dctx lead ent stage : Nat) : State :=
  if s.resident dev ≠ some dctx then s
  else if stage = 2 then s.killHere dev lead ent else (s.fenceHere dev lead ent).2

/-- A stage of a queue acts on the entry whose clock has reached its limit, once. -/
def State.quench (s : State) (q i : Nat) (act : State → Nat → Nat → QEnt → State) : State :=
  let k := s.queue q
  match k.clocked with
  | none => s
  | some e =>
    let t := k.limits.getD i 0
    if t = 0 ∨ e.since.isNone ∨ e.stage / 2 ^ i % 2 = 1 then s
    else if e.elapsed s.clk.wall < usCycles t + 1 then s.armQuench q
    else
      let s := s.modQueue q fun k =>
        { k with ents := k.ents.map fun x => if x.id = e.id then { x with stage := x.stage + 2 ^ i } else x }
      act s (s.queueDev q) k.ctx e

/-- QUENCH_T1 (R319, R325): PRE, and the context is pre-empted. -/
def execQuenchT1 (q : Nat) (s : State) : Host.Outcome State Fault Refusal :=
  .next (s.quench q 0 fun s dev c _ =>
    let s := s.modQueue q fun k => { k with pre := true }
    if (s.dc dev c).members.length > 1 then
      s.armSpan dev c (Timed.new 2 (s.now dev + BitVec.ofNat 64 ns100) ((s.dc dev c).evnum + 1))
    else if (s.partOf dev).asked then s
    else (s.setPart dev { asked := true, halt := false, next := 0, num := 0 }).schedOnce 0 .preemptRequest)

/-- QUENCH_T2 (R319, R325): KILLED, on every member. -/
def execQuenchT2 (q : Nat) (s : State) : Host.Outcome State Fault Refusal :=
  .next (s.quench q 1 fun s dev c e =>
    let s := (s.modQueue q fun k => { k with killed := true }).killHere dev 0 e.id
    if e.checks.isEmpty then s else s.tellAll dev c 258 (.quench 2 e.id))

/-- QUENCH_T3 (R319, R326): the cores of contexts that have still not ended are fenced and reset, on every member. -/
def execQuenchT3 (q : Nat) (s : State) : Host.Outcome State Fault Refusal :=
  .next (s.quench q 2 fun s dev c e =>
    let (hit, s) := s.fenceHere dev 0 e.id
    let s := if hit then s.modQueue q fun k => { k with fenced := true } else s
    if e.checks.isEmpty then s else s.tellAll dev c 258 (.quench 3 e.id))

end Sys2Proof.Machine
end

