-- ==== Sys2Proof/Machine/Recover.lean ====
section
/-! DEFINITION. Errors, checkpoints, mirrored boxes, rollback and standby takeover (R76, R78, R363 to R370). -/

namespace Sys2Proof.Machine

/-- The checkpoint, at most one, that the bytes of a stream stand for (R368), whose layout the spec does not give; assumption log 80. -/
opaque ckptOf : List Byte → List Ckpt

/-- The complete checkpoints of a device context, and whether it may have any (R366, R370). -/
def State.ckptsOf (s : State) (dev dctx : Nat) : List Ckpt := (mfind s.ckpts (dev * 16 + dctx)).getD []
def DCtx.ckptArea (d : DCtx) : Bool := fld (mget 0 d.ckcfg 0) 47 12 != 0 && fld (mget 0 d.ckcfg 1) 47 12 != 0
def State.hasCkpt (s : State) (dev dctx : Nat) : Bool :=
  (s.dc dev dctx).ckptArea && (s.ckptsOf dev dctx).any (·.full)

/-! Errors and whom they affect (R78). -/

/-- Behind scratchpads and device memory an error address names the register spaces by context, the ember stores by core, the tables of
a device context by device and context, and the tables of the package (R53, R78). -/
def regSpace : Nat := spSpace + 2 ^ 39
def emberSpace : Nat := regSpace + 5120 * 2 ^ 16
def tableSpace : Nat := emberSpace + 5120 * 327680

/-- The devices and device contexts that an address belongs to: of a scratchpad or a register space the resident one, of device memory
those whose key the granule was last written under, of an ember store the one whose image it holds; the package tables belong to all. -/
def State.ownersOf (s : State) (a : Nat) : List (Nat × Nat) :=
  let here (dev : Nat) : List (Nat × Nat) := match s.resident dev with | some c => [(dev, c)] | none => []
  if a < spSpace then here (s.devOfDie (a / 2 ^ 18 / 640))
  else if a < regSpace then
    let dev := s.devOfStack (a - spSpace)
    let k := s.mem.keyOf (a - spSpace)
    ((List.range 16).filter fun c => (s.dc dev c).live && k != 0 && (s.dc dev c).key == sealKey (k - 1)).map fun c => (dev, c)
  else if a < emberSpace then here (s.devOf ((a - regSpace) / 16384))
  else if a < tableSpace then
    let dev := s.devOfDie ((a - emberSpace) / 327680 / 640)
    match mget 0 s.mgt.ember dev with
    | 0 => []
    | c + 1 => if (s.dc dev c).live then [(dev, c)] else []
  else if a < tableSpace + 128 then
    let k := a - tableSpace
    if (s.dc (k / 16) (k % 16)).live then [(k / 16, k % 16)] else []
  else s.dctxs

/-- What errors hold back of a device context, and of none, held back no longer: its bytes are restored, or never delivered. -/
def State.unhold (s : State) (dev dctx : Nat) : State :=
  { s with mgt := { s.mgt with bad := s.mgt.bad.filter fun g =>
      let l := s.ownersOf (64 * g); !l.isEmpty && !l.contains (dev, dctx) } }

/-- RCVREC written, and the management interrupt raised (R369). -/
def State.recovery (s : State) (kind lost num : Nat) (tckp tres : Word) : State :=
  let ws : List Word := [atBit kind 0, atBit (num % 2 ^ 32) 32 ||| atBit (lost % 2048) 21, tckp, tres]
  ({ s with mgt := { s.mgt with rcv := mputs 0 s.mgt.rcv 0 ws } }).mgmtIrq

/-- Bits 31:0 of the final ccy of the task of an entry among contexts (R311). -/
def finalCcy (l : List Ctx) (id : Nat) : Nat :=
  (l.foldl (fun a c => if c.task.bind (·.queue) = some id then max a c.ccy.toNat else a) 0) % 2 ^ 32

/-- The fault id that a FAULTREPLY names (R313). -/
def QEnt.faultId (e : QEnt) : Nat := if e.ty = 10 then fld (e.ws.getD 1 0) 31 0 else 0

/-- INFO of an entry that ends for another's sake (R311): the final ccy of a launch among contexts, the sequence number of a COLL or CONV,
the fault id of a FAULTREPLY. -/
def QEnt.info (e : QEnt) (l : List Ctx) : Nat :=
  if e.ty = 3 ∨ e.ty = 4 then finalCcy l e.id else if e.ty = 5 ∨ e.ty = 6 then e.num else e.faultId

/-- An entry of a queue that has started and not completed, given its completion. -/
def Queue.finish (q : Queue) (st : Nat) (l : List Ctx) : Queue :=
  { q with ents := q.ents.map fun e => if e.started ∧ e.fin.isNone then { e with fin := some (st, e.info l) } else e }

/-- The queues of a device context changed. -/
def State.modQueues (s : State) (dev c : Nat) (f : Queue → Queue) : State :=
  { s with bel := { s.bel with qs := s.bel.qs.map fun x => if s.queueDev x.1 = dev ∧ x.2.ctx = c then (x.1, f x.2) else x } }

/-- The management context as the firmware creates it (R308). -/
def State.mgmtDc (s : State) (dev : Nat) : DCtx :=
  { DCtx.zero with live := true, psplit := 65536, msh := atBit 1 34 ||| atBit 1 22 ||| atBit 1 11 ||| atBit 1 0,
                   mtab := mput 0 [] 0 (dev * 2048 + s.net.fpeer), coord := s.net.fpeer, buddy := s.net.fpeer,
                   fq := 0, tlog := 0x20000 }

/-- Context 0 of a device created: its fault area and its time log are zeroed, and it is resident (R308). -/
def State.newMgmt (s : State) (dev : Nat) : State :=
  let s := s.setDc dev 0 (s.mgmtDc dev)
  let s := (List.range (0x30000 / 64)).foldl (fun s g =>
    let p := s.hbmPlace dev (64 * g) 0
    (s.writeBytes p (List.replicate 64 0)).writeTag p 0) s
  { s with res := mput 0 s.res dev 1 }

/-- A command or a collective dropped lowers cp, and a gather's latch is released. -/
def State.releaseCmd (s : State) (c : Cmd) : State :=
  match c.kind with
  | .copy h => s.modCtx h Ctx.dropCp
  | .gather h tok _ => (s.modCtx h fun x => x.fill tok []).debugDrained h
  | _ => s
def State.releaseColl (s : State) (x : Coll) : State := match x.h with | some h => s.modCtx h Ctx.dropCp | none => s

/-- Commands, conversions and collectives of a device context stopped; nothing further is written, what waits for them waits no longer,
and TGT is 0 where CIP is not 1 (R107, R122, R260, R366). -/
def State.stopFlux (s : State) (dev dctx : Nat) : State :=
  let colls := s.colls.filter fun x => x.2.dev == dev && x.2.dctx == dctx
  let cmds := s.cmds.filter fun x => x.2.dev == dev && x.2.dctx == dctx
  let waits := (s.dc dev dctx).place.flatMap fun x => match x.2.conv with
    | some k => k.wait.filterMap fun w => match w with | .ldp h tok => some (h, tok) | .entry _ => none
    | none => []
  let s := { s with colls := s.colls.filter fun x => !(x.2.dev == dev && x.2.dctx == dctx),
                    cmds := s.cmds.filter fun x => !(x.2.dev == dev && x.2.dctx == dctx) }
  let s := colls.foldl (fun s x => s.releaseColl x.2) s
  let s := cmds.foldl (fun s x => s.releaseCmd x.2) s
  let s := s.modDc dev dctx fun d =>
    { d with place := d.place.map fun x =>
               if x.2.cip then (x.1, { x.2 with w0 := putFld (x.2.w0 &&& ~~~(1#64 <<< 62)) 59 48 0, conv := none }) else x,
             flux := [] }
  waits.foldl (fun s x => s.failLoad x.1 x.2) s

/-- The tasks of a device context brought to an abnormal end on this device (R90); of one that is swapped out nothing is
left but the completion of its entries. -/
def State.endTasks (s : State) (dev dctx v : Nat) : State :=
  if s.resident dev = some dctx then
    let s := { s with bel := { s.bel with launch := s.bel.launch.filter fun x => s.devOf x.1 != dev } }
    (s.hw.filter fun (x : Nat × Ctx) => s.devOf x.1 == dev && x.2.task.isSome).foldl (fun (s : State) (x : Nat × Ctx) => s.failTask x.1 v) s
  else { s with images := mdel s.images (dev * 16 + dctx) }

/-- A device context ended on this device after a failure beyond recovery (R366, R368). -/
def State.endSpan (s : State) (dev dctx kind lost : Nat) : State :=
  let l := s.ctxsOf dev dctx
  let s := ((s.unhold dev dctx).stopFlux dev dctx).endTasks dev dctx 13
  let s := s.modQueues dev dctx fun q => q.finish 9 l
  let s := { s with bel := { s.bel with dones := s.bel.dones ++ (s.queuesOf dev dctx).flatMap fun (x : Nat × Queue) => x.2.ents.map fun (e : QEnt) => (x.1, e.id) } }
  let s := s.schedOnce 1 .entryComplete
  let s := if dctx ≠ 0 then s else
    (s.modDc dev 0 fun d =>
      { s.mgmtDc dev with fqcnt := d.fqcnt, tlcnt := d.tlcnt, ckcfg := d.ckcfg, ckNext := d.ckNext, drcfg := d.drcfg }).modQueues dev 0 fun q =>
      { q with cfg := q.cfg &&& ~~~(1#64) }
  s.recovery kind lost 0 0 0

/-! Errors (R76, R78). -/

/-- A device context struck by an error beyond correction (R366): the span rolls back, or ends. -/
def State.strike (s : State) (dev dctx : Nat) : State :=
  if s.hasCkpt dev dctx then s.orderRollback dev dctx 0
  else (s.tellAll dev dctx 258 (.ended 4 0)).endSpan dev dctx 4 0

/-- MACHINE_CHECK (R78): an error beyond correction at an address: what reads it is held, and every device context it affects is
restored or ended; a member that does not coordinate reports it. The firmware writes a table again from its source, with the values it
had (R53). -/
def execMachineCheck (a : Nat) (s : State) : Host.Outcome State Fault Refusal :=
  let s := s.countErr 2
  let l := s.ownersOf a
  let s := if l.isEmpty || a ≥ regSpace then s else { s with mgt := { s.mgt with bad := a / 64 :: s.mgt.bad } }
  .next (l.foldl (fun s (dev, c) =>
    if s.coordinates dev c ∨ !s.hasCkpt dev c then s.strike dev c
    else s.tell dev c 258 (s.dc dev c).coordinator .struck) s)

/-- SCRUB (R76, R78): a granule of device memory is read and written back corrected; whether an error was corrected there, and whether
one was corrected meanwhile in an array of the compute dies, is free. The next granule follows within the interval that covers all of them in 24 hours. -/
def execScrub (a : Nat) (s : State) : Host.Outcome State Fault Refusal :=
  let hit := Config.freePick s.clk.frees % 2 = 1
  let s := s.draw
  let sram := Config.freePick s.clk.frees % 2 = 1
  let s := s.draw.sched 11000 (.scrub ((a + 1) % 2 ^ 33))
  let s := if hit then s.countErr 1 else s
  .next (if sram then s.countErr 0 else s)

/-! Checkpoints (R365). -/

/-- A message with the bytes that stream with it. -/
def State.stream (s : State) (dev dctx : Nat) (dst : Nat × Nat) (msg : FluxMsg) (bs : List Byte) : State :=
  s.send { Pkt.zero with ty := 258, src := s.net.fpeer, ssub := dev, dst := dst.1, dsub := dst.2, ctx := dctx, data := bs, flux := msg }

/-- A message to the buddy, which is the device of the same SUB of the peer that BUDDY names; assumption log 16. -/
def State.tellBuddy (s : State) (dev dctx : Nat) (msg : FluxMsg) : State :=
  s.tell dev dctx 258 ((s.dc dev dctx).buddy, dev) msg

/-- The bytes of a checkpoint slot: 416 MiB for each compute die of a device (R370). -/
def State.slotSize (s : State) : Nat := s.stacks * 416 * 2 ^ 20

/-- An image copied into a slot of the OWN area (R365, R370): the spec gives no layout of it there, so what the slot holds is free. -/
def State.fillSlot (s : State) (dev dctx slot : Nat) : State :=
  let d := s.dc dev dctx
  let pages := s.pagesOf dev dctx d.key (fld (mget 0 d.ckcfg 0) 47 12 * 4096 + slot * s.slotSize) s.slotSize
  let va := fld (mget 0 d.ckcfg 0) 47 12 * 4096 + slot * s.slotSize
  { s with mem := s.mem.forgetWhere fun a =>
      s.devOfStack a == dev && pages.any fun (pg, base) =>
        let x := pg + (s.physOf a - base)
        base ≤ s.physOf a && s.physOf a < base + 65536 && va ≤ x && x < va + s.slotSize }

/-- The checkpoint of a device context taken from an image: it goes to the slot that the last complete one does not lie in, and to the
buddy. -/
def State.takeCkpt (s : State) (dev dctx : Nat) (e : Timed) (i : Image) : State :=
  let keep := (s.ckptsOf dev dctx).filter (·.full)
  let slot := if keep.any fun k => k.slot == 0 then 1 else 0
  let k : Ckpt := { num := e.num, t := e.t, img := i, dc := s.dc dev dctx, qs := s.queuesOf dev dctx,
                    eg := s.net.eg.filter fun x => x.1 / 16384 == dev * 16 + dctx,
                    ing := s.net.ing.filter fun x => x.1 / 16384 == dev * 16 + dctx,
                    slot := slot, full := false }
  let s := { s.fillSlot dev dctx slot with ckpts := mins s.ckpts (dev * 16 + dctx) (keep ++ [k]) }
  (s.stream dev dctx ((s.dc dev dctx).buddy, dev) (.stream e.num e.t) (Config.imageBytes s.clk.frees)).draw

/-- The timed checkpoints at which this device has halted and whose image it has not taken. -/
def State.toTake (s : State) : List (Nat × Nat × Timed) :=
  s.dctxs.flatMap fun x =>
    ((s.dc x.1 x.2).timed.filter fun e => e.kind == 3 && e.done && !((s.ckptsOf x.1 x.2).any fun k => k.num == e.num)).map
      fun e => (x.1, x.2, e)

/-- CHECKPOINT_HALT (R365): once the halted partition is quiet, its image is copied to the free slot, the span resumes, and
the slot is streamed to the buddy. -/
def execCheckpointHalt (s : State) : Host.Outcome State Fault Refusal :=
  .next (s.toTake.foldl (fun s (dev, c, e) =>
    if s.resident dev ≠ some c then
      s.takeCkpt dev c e ((mfind s.images (dev * 16 + c)).getD Image.zero)
    else if !s.quiet dev then s.schedOnce 1 .checkpointHalt
    else ((s.takeCkpt dev c e (s.image dev)).setHalt dev false).setPart dev Part.zero) s)

/-- A record of KIND 0x05 (R262); the fields the spec gives no value for are free. -/
def ckptRec (s : State) (num status : Nat) : BitVec 128 :=
  let lo := atBit (num % 65536) 0 ||| atBit 5 16 ||| atBit status 24 |||
    atBit ((Config.freeWord (s.clk.frees + 1)).toNat % 2 ^ 32) 32
  Config.freeWord s.clk.frees ++ lo

/-- CHECKPOINT_COMPLETE (R262, R365): the stream has landed on every member, or the checkpoint was refused; the contexts that
asked receive their records, once there is room. -/
def execCheckpointComplete (d c num : Nat) (s : State) : Host.Outcome State Fault Refusal :=
  match (s.dc d c).timed.find? fun e => e.num == num && (e.kind == 3 || e.kind == 6) with
  | none => .next s
  | some e =>
    let ks := (s.ckptsOf d c).map fun k => if k.num = num then { k with full := true } else k
    let s := if e.kind = 6 then s
      else ({ s with ckpts := mins s.ckpts (d * 16 + c) (ks.filter fun k => k.num ≥ num) }).modDc d c fun x => { x with risk := [] }
    if s.resident d ≠ some c ∨ e.who.any (fun h => (s.ctx h).q.eq.length ≥ 32) then
      .next (if e.who.isEmpty then s else s.sched 1 (.checkpointComplete d c num))
    else
      let s := e.who.foldl (fun s h =>
        (s.modCtx h fun x => { x with q := { x.q with eq := x.q.eq ++ [ckptRec s num (if e.kind = 6 then 7 else 0)] },
                                      wc := { x.wc with cp := x.wc.cp - 1 } }).draw.draw) s
      .next (s.modDc d c fun x => { x with timed := x.timed.filter fun y => y.num != num })

/-- CHECKPOINT_PERIOD (R370): the coordinator calls a checkpoint for each device context whose period has passed. -/
def execCheckpointPeriod (s : State) : Host.Outcome State Fault Refusal :=
  .next (s.dctxs.foldl (fun s (dev, c) =>
    let d := s.dc dev c
    let per := fld (mget 0 d.ckcfg 2) 63 32
    if per = 0 ∨ !s.coordinates dev c ∨ !s.reached dev d.ckNext then s
    else
      let t := d.ckNext + BitVec.ofNat 64 (per * ns1000)
      let s := (s.modDc dev c fun d => { d with ckNext := t }).sched (s.until dev t + 2) .checkpointPeriod
      if d.ckptArea then s.callCkpt dev c (s.now dev + BitVec.ofNat 64 ns20) else s) s)

/-! Wards (R365, R367). -/

/-- A ward of a device context, by the member it is and the context. -/
def wardKey (peer sub dctx : Nat) : Nat := memberKey peer sub * 16 + dctx
def Ward.zero : Ward := { copy := [], tags := [], log := [], num := 0, t := 0, image := [] }
def State.wardOf (s : State) (k : Nat) : Ward := (mfind s.ward k).getD Ward.zero

/-- The bytes in a journal. -/
def Ward.held (w : Ward) : Nat := (w.log.map fun x => x.2.2.1.length).foldl (· + ·) 0

/-- The journal applied to the copy as an image comes in (R367). -/
def Ward.applied (w : Ward) (num : Nat) (t : Word) (image : List Byte) : Ward :=
  { copy := w.log.foldl (fun m x => minss m x.1 x.2.2.1) w.copy,
    tags := w.log.foldl (fun m x => match x.2.2.2 with | some g => mins m (x.1 / 64) g | none => m) w.tags,
    log := [], num := num, t := t, image := image }

/-- The runs of bytes that a copy holds of a range. -/
def copyRuns (m : SMap Byte) (a : Nat) : Nat → List (Nat × List Byte)
  | 0 => []
  | n + 1 =>
    let l := copyRuns m (a + 1) n
    match mfind m a, l with
    | none, _ => l
    | some b, (x, bs) :: r => if x = a + 1 then (a, b :: bs) :: r else (a, [b]) :: l
    | some b, [] => [(a, [b])]

/-- A granule of a ward's copy sent to a device as it stands there, with its tag; a write packet with OP 3, assumption log 81. -/
def State.sendGranule (s : State) (w : Ward) (dev dctx key : Nat) (dst : Nat × Nat) (g : Nat) : State :=
  (copyRuns w.copy (64 * g) 64).foldl (fun s x =>
    s.send { Pkt.zero with ty := 1, src := s.net.fpeer, ssub := dev, dst := dst.1, dsub := dst.2, ctx := dctx, key := key,
                           va := x.1, len := x.2.length, op := 3, data := x.2, tags := [mfind w.tags g] }) s

/-- The checkpoint contents of every granule that a journal names, returned to the ward (R367); the journal is discarded. -/
def State.returnWard (s : State) (dev dctx peer sub : Nat) : State :=
  let k := wardKey peer sub dctx
  let w := s.wardOf k
  let s := { s with ward := mins s.ward k { w with log := [] } }
  ((w.log.map fun x => (x.1 / 64, x.2.1)).eraseDups).foldl (fun s x => s.sendGranule w dev dctx x.2 (peer, sub) x.1) s

/-- The last complete image of a lost member and its mirrored boxes streamed to the standby, which becomes the ward (R368); the
journal is discarded. -/
def State.moveWard (s : State) (dev dctx lost new : Nat) : State :=
  match mfind s.ward (wardKey lost dev dctx) with
  | none => s
  | some w =>
    let w := { w with log := [] }
    let s := { s with ward := mins (mdel s.ward (wardKey lost dev dctx)) (wardKey new dev dctx) w }
    let s := s.stream dev dctx (new, dev) (.image w.num w.t) w.image
    ((w.copy.map fun x => x.1 / 64).eraseDups).foldl (fun s g => s.sendGranule w dev dctx (s.dc dev dctx).key (new, dev) g) s

/-! Rollback and takeover (R365, R368, R369). -/

/-- The standby of a lost peer: the first peer in state 3 (R368). -/
def State.standby (s : State) : Option Nat := (s.net.peers.find? fun x => x.2 == 3).map (·.1)

/-- A standby admitted in the place of a lost peer (R368): peer table, mesh table, and router tables, of which the spec does not say what
they become: they lose the entry of the lost peer (DESIGN CHOICE, assumption log 16). The standby is the new buddy where the buddy was lost, the
owner key is passed to it, and what is kept for the lost member streams to it. -/
def State.admitStandby (s : State) (dev dctx lost new : Nat) : State :=
  let s := { s with net := { s.net with
    peers := mput 0 (mput 0 s.net.peers new 1) lost 2,
    route := mput 0 (mput 0 s.net.route lost 0) (2048 + lost) 0 } }
  let s := s.modDc dev dctx fun d =>
    { d with mtab := d.mtab.map fun x => if x.2 % 2048 = lost then (x.1, x.2 / 2048 * 2048 + new) else x,
             buddy := if d.buddy = lost then new else d.buddy, misses := [], buddies := d.buddies.filter fun x => x.1 / 8 != lost }
  let k := (s.dc dev dctx).key
  (s.emit (.key k new (match mfind s.keys k with | some x => x.grant | none => false))).moveWard dev dctx lost new

/-- A member rolled back to a checkpoint, to resume at a timestamp (R365). -/
def State.rollTo (s : State) (dev dctx : Nat) (k : Ckpt) (t : Word) (lost : Nat) : State :=
  let live := s.resident dev == some dctx
  let d := s.dc dev dctx
  let num := d.evnum
  let s := s.unhold dev dctx
  let s := if live then s.vacate dev else { s with images := mdel s.images (dev * 16 + dctx) }
  let s := { s with
    colls := s.colls.filter fun x => !(x.2.dev == dev && x.2.dctx == dctx),
    net := { s.net with
      far := s.net.far.filter fun x => !(x.2.pkt.ssub == dev && x.2.pkt.ctx == dctx),
      eg := mmerge (s.net.eg.filter fun x => x.1 / 16384 != dev * 16 + dctx) k.eg,
      ing := mmerge (s.net.ing.filter fun x => x.1 / 16384 != dev * 16 + dctx) k.ing } }
  let s := s.setDc dev dctx { k.dc with
    fqcnt := d.fqcnt, tlcnt := d.tlcnt, drcnt := d.drcnt, evnum := num, mirror := d.mirror, mtab := d.mtab, buddy := d.buddy,
    ckcfg := d.ckcfg, drcfg := d.drcfg, ckNext := d.ckNext, away := false, lost := none, misses := [], back := none,
    buddies := d.buddies, risk := d.risk, gone := d.gone,
    timed := k.dc.timed.filter fun e => !e.done && !s.reached dev e.t }
  let s := k.qs.foldl (fun s x => (s.modQueue x.1 fun q =>
    { q with head := x.2.head,
             ents := x.2.ents.map fun e => if e.since.isSome then { e with since := some s.clk.wall } else e }).armQuench x.1) s
  let s := s.tellBuddy dev dctx .restore
  let s := if live then ((s.install dev dctx k.img).setHalt dev true).setPart dev { asked := true, halt := true, next := 0, num := 0 }
    else { s with images := mins s.images (dev * 16 + dctx) k.img }
  let s := s.armTimed dev dctx (Timed.new 4 t num)
  s.recovery (if lost = 0 then 1 else 2) (lost - 1) k.num k.t t

/-- ROLLBACK (R365): every device context of this package that a rollback has been ordered for. -/
def execRollback (s : State) : Host.Outcome State Fault Refusal :=
  .next (s.dctxs.foldl (fun s (dev, c) =>
    match (s.dc dev c).back with
    | none => s
    | some (num, t, lost) =>
      let s := s.modDc dev c fun d => { d with back := none }
      let s := match lost, s.standby with
        | 0, _ => s
        | p + 1, some new => if (s.dc dev c).members.any fun m => m.1 == p then s.admitStandby dev c p new else s
        | _, none => s
      match (s.ckptsOf dev c).find? fun k => k.num == num && k.full with
      | some k => s.rollTo dev c k t lost
      | none => s.endSpan dev c 4 0) s)

/-- The buddies that the members of a peer have named, and the peers whose members have named it. -/
def DCtx.buddiesOf (d : DCtx) (peer : Nat) : List Nat := (d.buddies.filter fun x => x.1 / 8 == peer).map (·.2)
def DCtx.wardsOf (d : DCtx) (peer : Nat) : List Nat := (d.buddies.filter fun x => x.2 == peer).map (·.1 / 8)

/-- Whether the loss of a peer cannot be recovered (R368): it is its own buddy, or it and its buddy are lost before a checkpoint
completes after the first loss; or no standby is in state 3; or there is no complete checkpoint (R366). -/
def State.unrecoverable (s : State) (dev dctx peer : Nat) : Bool :=
  let d := s.dc dev dctx
  s.standby.isNone || !s.hasCkpt dev dctx || (d.buddiesOf peer).contains peer || d.risk.contains peer

/-- A span ended for an unrecoverable loss (R368). -/
def State.loseSpan (s : State) (dev dctx peer : Nat) : State :=
  ((s.tellAll dev dctx 258 (.ended 3 peer)).endSpan dev dctx 3 peer).modDc dev dctx fun d => { d with lost := none, gone := peer :: d.gone }

/-- DEVICE_LOST (R363, R368): the coordinator halts each span of the lost peer, or ends it where the loss is unrecoverable; a loss
that can be recovered waits for the end of the recovery that is under way. -/
def execDeviceLost (peer : Nat) (s : State) : Host.Outcome State Fault Refusal :=
  .next (s.dctxs.foldl (fun s (dev, c) =>
    let d := s.dc dev c
    if !s.coordinates dev c ∨ !(d.members.any fun m => m.1 == peer) ∨ d.lost == some peer ∨ d.gone.contains peer then s
    else if s.unrecoverable dev c peer then s.loseSpan dev c peer
    else if d.lost.isSome then s.schedOnce (nsCycles ns100) (.deviceLost peer)
    else
      ((s.modDc dev c fun d => { d with lost := some peer, risk := d.risk ++ d.buddiesOf peer ++ d.wardsOf peer }).armSpan dev c
        (Timed.new 2 (s.now dev + BitVec.ofNat 64 ns100) (d.evnum + 1))).sched (nsCycles (2 * ns100)) .takeoverAdmission) s)

/-- TAKEOVER_ADMISSION (R368): once the span has halted, the standby becomes state 1, and the mesh names it in the place of
the lost peer. -/
def execTakeoverAdmission (s : State) : Host.Outcome State Fault Refusal :=
  .next (s.dctxs.foldl (fun s (dev, c) =>
    match (s.dc dev c).lost with
    | none => s
    | some p =>
      if (s.resident dev == some c && !(s.partOf dev).halt) || !((s.dc dev c).members.any fun m => m.1 == p) then
        s.schedOnce (nsCycles ns100) .takeoverAdmission
      else
        match s.standby with
        | none => s.loseSpan dev c p
        | some new => (s.admitStandby dev c p new).sched 1 .takeoverRestore) s)

/-- TAKEOVER_RESTORE (R368): every member rolls back to the last complete checkpoint, and a checkpoint is called once the span
has resumed. -/
def execTakeoverRestore (s : State) : Host.Outcome State Fault Refusal :=
  .next (s.dctxs.foldl (fun s (dev, c) =>
    match (s.dc dev c).lost with
    | none => s
    | some p =>
      let s := (s.modDc dev c fun d => { d with lost := none }).orderRollback dev c (p + 1)
      s.callCkpt dev c (s.now dev + BitVec.ofNat 64 (2 * ns1000))) s)

/-- HEARTBEAT_SEND (R363): a heartbeat to the coordinator every 100 µs; the coordinator counts those missing, and a member
with ten missing in a row, or whose peer state has left 1, is lost. -/
def execHeartbeatSend (d c : Nat) (s : State) : Host.Outcome State Fault Refusal :=
  let x := s.dc d c
  if !x.live ∨ !s.mgt.beats ∨ x.members.length ≤ 1 then .next s
  else
    let s := s.sched (nsCycles ns100) (.heartbeatSend d c)
    if !s.coordinates d c then .next (s.tell d c 258 x.coordinator (.beat x.buddy))
    else
      let others := x.members.filter fun m => m != (s.net.fpeer, d)
      let s := s.modDc d c fun x => { x with misses := others.foldl (fun m k => mmod 0 m (memberKey k.1 k.2) (· + 1)) x.misses }
      .next (others.foldl (fun s m =>
        if mget 0 (s.dc d c).misses (memberKey m.1 m.2) = 11 ∨ (m.1 ≠ s.net.fpeer ∧ mget 0 s.net.peers m.1 ≠ 1) then s.schedOnce 0 (.deviceLost m.1) else s) s)

/-- A checkpoint whose streams have all been taken in is complete, and every member is told (R365). -/
def State.settle (s : State) (d c : Nat) (t : Word) : State :=
  match s.findTimed d c 3 t with
  | some e =>
    if s.coordinates d c ∧ (s.dc d c).allDone e then
      (s.tellAll d c 258 (.ack 11 t)).schedOnce 0 (.checkpointComplete d c e.num)
    else s
  | none => s

/-- MEMBER_ACKNOWLEDGEMENT (R328): an acknowledgement of a timed event, or of a step of a checkpoint. The other messages of a
span come in the same packet type; assumption log 16. -/
def execMemberAcknowledgement (p : Pkt) (s : State) : Host.Outcome State Fault Refusal :=
  let (ok, s) := s.takenIn p
  let d := p.dsub
  let c := p.ctx
  let key := memberKey p.src p.ssub
  if !ok then .next s
  else
    match p.flux with
    | .ack kind t =>
      if kind = 12 then
        -- the buddy has taken the stream in: the coordinator is told
        let s := s.gotAck d c (memberKey s.net.fpeer d) 9 t
        let s := if s.coordinates d c then s else s.tell d c 258 (s.dc d c).coordinator (.ack 9 t)
        .next (s.settle d c t)
      else if kind = 11 then
        match s.findTimed d c 3 t with
        | some e => .next (s.sched 0 (.checkpointComplete d c e.num))
        | none => .next s
      else .next ((s.gotAck d c key kind t).settle d c t)
    | .stream num t =>
      let k := wardKey p.src p.ssub c
      .next (({ s with ward := mins s.ward k ((s.wardOf k).applied num t p.data) }).tell d c 258 (p.src, p.ssub) (.ack 12 t))
    | .image num t =>
      -- the standby takes the image of the member whose place it has, to be rolled to
      .next { s with ckpts := mins s.ckpts (d * 16 + c) (((ckptOf p.data).take 1).map fun k => { k with num := num, t := t, full := true }) }
    | .back num t lost => .next ((s.modDc d c fun x => { x with back := some (num, t, lost) }).schedOnce 0 .rollback)
    | .restore => .next (s.returnWard d c p.src p.ssub)
    | .beat b => .next (s.modDc d c fun x => { x with misses := mput 0 x.misses key 0, buddies := mins x.buddies key b })
    | .struck => .next (s.strike d c)
    | .ended kind lost => .next (s.endSpan d c kind lost)
    | .askCkpt =>
      let soon := (s.dc d c).timed.any fun e => e.kind == 3 && !e.done
      .next (if soon then s else s.callCkpt d c (s.now d + BitVec.ofNat 64 ns1000))
    | .quench stage ent =>
      if s.resident d = some c ∨ (mfind s.images (d * 16 + c)).isNone then .next (s.quenchHere d c (key + 1) ent stage)
      else .next (s.sched 1 (.memberAcknowledgement p))
    | _ => .next s

end Sys2Proof.Machine
end

