-- ==== Sys2Proof/Machine/Fabric.lean ====
section
/-! DEFINITION. Packets at their targets and their answers (R139, R140, R242 to R244, R332, R339, R341): remote accesses,
fences, cancellations, back-off, and channel elements. -/

namespace Sys2Proof.Machine

/-! The target of a remote access (R243, R335, R339). -/

/-- An answer to a packet, toward its source. -/
def answer (s : State) (p : Pkt) (ty : Nat) : Pkt :=
  { Pkt.zero with ty := ty, src := s.net.fpeer, ssub := p.dsub, dst := p.src, dsub := p.ssub, ctx := p.ctx, seq := p.seq,
                  id := p.id, op := p.op }

/-- The pieces of device memory that a packet reaches, in the context of the same number (R339): none where a translation
or a permission fails, or where the device does not hold the context. -/
def State.target (s : State) (p : Pkt) (n : Nat) (wr : Bool) : Option (List (Place × Nat)) :=
  if !(s.dc p.dsub p.ctx).live then none
  else
    let cut := cutGran p.va n (n / 64 + 2)
    let ps := cut.map fun x =>
      match s.xlate p.dsub p.ctx x.1 p.key wr with
      | .ok pa => some (s.hbmPlace p.dsub pa p.key, x.2)
      | _ => none
    if ps.any Option.isNone then none else some (ps.filterMap id)

/-- Whether any byte of an access lies in a converting tensor of the target (R120). -/
def State.targetConverts (s : State) (p : Pkt) (n : Nat) : Bool :=
  (cutGran p.va n (n / 64 + 2)).any fun x => s.convertingVa p.dsub p.ctx x.1

/-- Receiver-not-ready (R339): counted, in all and by its source, and answered; OPA 1 tells a refusal by a converting tensor. -/
def State.refuse (s : State) (p : Pkt) (conv : Bool) : State :=
  ({ s.countErr 6 with net := { s.net with refused := mmod 0 s.net.refused (memberKey p.src p.ssub) (· + 1) } }).send { answer s p 8 with opa := if conv then 1 else 0 }

/-- Whether a number of a pair has been committed already (R365). -/
def State.seen (s : State) (p : Pkt) : Bool :=
  let i := s.net.ingress (pairKey p.dsub p.ctx p.src p.ssub)
  p.seq < i.c || i.above.contains p.seq

/-- Bytes laid to places in order, with the tags that come with them. -/
def layPlaces : List (Place × Nat) → List Byte → List (Option Tag) → List (Place × List Byte × Option Tag)
  | [], _, _ => []
  | (pl, n) :: l, bs, ts => (pl, bs.take n, ts.headD none) :: layPlaces l (bs.drop n) (ts.drop 1)

/-- Whether every part of a write has been accepted by the buddy where it must be (R367); the duplicates missing are sent. -/
def State.mirroredAll (s : State) (l : List (Place × List Byte × Option Tag)) : Bool × State :=
  let accepted (s : State) (pl : Place) : Bool := match pl with
    | .sp _ => true
    | .hbm a _ => s.net.mir.any fun x => x.1 == a && x.2.2
  let tried := l.foldl (fun (r : Bool × State) x =>
    if accepted r.2 x.1 then r else let (ok, s1) := r.2.mirrored x.1 x.2.1 x.2.2; (r.1 && ok, s1)) (true, s)
  if tried.1 then (true, l.foldl (fun s x => (s.mirrored x.1 x.2.1 x.2.2).2) tried.2) else tried

/-- The parts of a write written at their homes. -/
def State.writeParts (s : State) (l : List (Place × List Byte × Option Tag)) : State :=
  l.foldl (fun s x =>
    let s := s.writeBytes x.1 x.2.1
    match x.2.2 with | some t => s.writeTag x.1 t | none => s) s

/-- A duplicate kept in the journal of a ward (R367): one that finds the journal full waits, and one that takes it past three
quarters has the coordinator call a checkpoint. -/
def State.journal (s : State) (p : Pkt) : State :=
  let k := wardKey p.src p.ssub p.ctx
  let w := s.wardOf k
  if w.held + p.data.length > 2 ^ 32 then s.sched 1000 (.writePacket p)
  else
    let w := { w with log := w.log ++ [(p.va, p.key, p.data, p.tags.headD none)] }
    let s := ({ s with ward := mins s.ward k w }).send (answer s p 9)
    if w.held * 4 > 3 * 2 ^ 32 then s.tell p.dsub p.ctx 258 (s.dc p.dsub p.ctx).coordinator .askCkpt else s

/-- WRITE_PACKET (R139, R243, R339): a numbered write is made at its homes, its number commits, and it is acknowledged; or it
is refused. A number committed before is acknowledged and not made again (R365). -/
def execWritePacket (p : Pkt) (s : State) : Host.Outcome State Fault Refusal :=
  let (ok, s) := s.takenIn p
  if !ok then .next s
  else if p.op = 1 then .next (s.journal p)
  else
    let n := p.data.length
    let tags := (cutGran p.va n (n / 64 + 2)).zipIdx.map fun (_, j) => p.tags.getD j none
    if p.op = 3 then
      match s.target p n true with
      | some ps => .next (s.writeParts (layPlaces ps p.data tags))
      | none => .next s
    else if s.seen p then .next (s.send (answer s p 9))
    else
      match s.target p n true with
      | none => .next (s.refuse p false)
      | some ps =>
        if s.targetConverts p n then .next (s.refuse p true)
        else
          let l := layPlaces ps p.data tags
          let (ok, s) := s.mirroredAll l
          if !ok then .next (s.sched 1 (.writePacket p))
          else .next (((s.writeParts l).commitNumber p).send (answer s p 9))

/-- READ_REQUEST (R120, R242, R243): the data are read at their homes and returned; in a converting tensor the request waits. -/
def execReadRequest (p : Pkt) (s : State) : Host.Outcome State Fault Refusal :=
  let (ok, s) := s.takenIn p
  if !ok then .next s
  else
    match s.target p p.len false with
    | none => .next (s.refuse p false)
    | some ps =>
      if s.targetConverts p p.len then .next (s.sched 1 (.readRequest p))
      else
        let (l, s) := s.takeHomes (ps.map fun x => { pl := x.1, n := x.2, hl := 4, lvl := 0, stamp := 0, data := [], tag := none })
        .next (s.send { answer s p 3 with opa := p.opa, data := l.flatMap (·.data), tags := l.map (·.tag) })

/-- ATOMIC_PACKET (R70, R139, R242, R243): the operation is presented to the crucible of its home; or it is refused. -/
def execAtomicPacket (p : Pkt) (s : State) : Host.Outcome State Fault Refusal :=
  let (ok, s) := s.takenIn p
  if !ok then .next s
  else
    match s.target p p.len true with
    | none => .next (s.refuse p false)
    | some ps =>
      if s.targetConverts p p.len then .next (s.refuse p true)
      else
        match ps with
        | [] => .next s
        | x :: _ =>
          if s.seen p then
            let (bs, s) := s.readBytes x.1 p.len
            .next (s.send (atomAnswer s p bs))
          else
            .next (s.present { h := none, rem := some p, pl := x.1, op := p.op, fmt := p.len, v := p.opa, cmp := p.opb } 64)

/-- FENCE_PACKET (R139): the fence waits at the ingress router until the fence counter reaches its number; or it is refused,
where its flag cannot be written (R339). -/
def execFencePacket (p : Pkt) (s : State) : Host.Outcome State Fault Refusal :=
  let (ok, s) := s.takenIn p
  if !ok then .next s
  else if s.seen p then .next (s.send (answer s p 9))
  else
    match s.target p p.data.length true with
    | none => .next (s.refuse p false)
    | some _ =>
      if s.targetConverts p p.data.length then .next (s.refuse p true)
      else
        let key := pairKey p.dsub p.ctx p.src p.ssub
        let i := s.net.ingress key
        let i := if i.fences.any fun f => f.seq == p.seq then i else { i with fences := i.fences ++ [p] }
        let s := { s with net := { s.net with ing := mins s.net.ing key i } }
        .next (if p.seq ≤ i.c then s.schedOnce 0 (.fenceFlagWrite p.dsub key) else s)

/-- The fence of the lowest number. -/
def firstFence : List Pkt → Option Pkt
  | [] => none
  | f :: l => match firstFence l with
    | none => some f
    | some g => if g.seq < f.seq then some g else some f

/-- FENCE_FLAG_WRITE (R139, R246): the flags of the fences whose numbers the counter has reached are written, in the order of
their numbers; `c` is the key of the pair. -/
def execFenceFlagWrite (d c : Nat) (s : State) : Host.Outcome State Fault Refusal :=
  let i := s.net.ingress c
  match firstFence i.fences with
  | none => .next s
  | some f =>
    if f.seq > i.c then .next s
    else
      let drop (s : State) : State :=
        let i := s.net.ingress c
        { s with net := { s.net with ing := mins s.net.ing c { i with fences := i.fences.filter fun g => g.seq != f.seq } } }
      let n := f.data.length
      match s.target f n true with
      | none => .next ((drop s).refuse f false)
      | some ps =>
        if s.targetConverts f n then .next ((drop s).refuse f true)
        else
          let l := layPlaces ps f.data []
          let (ok, s) := s.mirroredAll l
          if !ok then .next (s.sched 1 (.fenceFlagWrite d c))
          else .next ((((drop s).writeParts l).commitNumber f).send (answer s f 9))

/-- CANCEL (R140): the counter passes the number, and the fences that cover it are discarded without their flags. -/
def execCancel (p : Pkt) (s : State) : Host.Outcome State Fault Refusal :=
  let (ok, s) := s.takenIn p
  if !ok then .next s
  else
    let key := pairKey p.dsub p.ctx p.src p.ssub
    let i := s.net.ingress key
    let gone := i.fences.filter fun f => f.seq > p.seq
    let s := { s with net := { s.net with ing := mins s.net.ing key { i with fences := i.fences.filter fun f => f.seq ≤ p.seq } } }
    .next ((gone.foldl (fun s f => (s.commitNumber f).send (answer s f 9)) s).commitNumber p)

/-! The source (R139, R140, R243, R244). -/

/-- A packet no longer under way: its number is acknowledged. -/
def State.dropFar (s : State) (id : Nat) (r : Far) : State :=
  let key := pairKey r.pkt.ssub r.pkt.ctx r.pkt.dst r.pkt.dsub
  let e := s.net.egress key
  let eg := if r.pkt.ty = 2 then s.net.eg else mins s.net.eg key { e with pend := e.pend.filter (· != r.pkt.seq) }
  { s with net := { s.net with far := mdel s.net.far id, eg := eg } }

/-- Data laid into the pieces of an entry from one on. -/
def layPieces : List Piece → Nat → List Byte → List (Option Tag) → List Piece
  | [], _, _, _ => []
  | p :: l, k, bs, ts =>
    if k > 0 then p :: layPieces l (k - 1) bs ts
    else if bs.isEmpty then p :: l
    else { p with lvl := p.hl, data := bs.take p.n, tag := ts.headD none } :: layPieces l 0 (bs.drop p.n) (ts.drop 1)

/-- An answer's data in the load queue of the context it serves; the load arrives once all of it is there. -/
def State.fillFar (s : State) (r : Far) (part : Nat) (bs : List Byte) (ts : List (Option Tag)) : State :=
  match r.h with
  | none => s
  | some h =>
    let put (a : Acc) : Acc := if a.tok = r.tok ∧ !a.isAlign then { a with ps := layPieces a.ps part bs ts } else a
    let s := s.modCtx h fun c => ({ c with q := { c.q with lq := c.q.lq.map put } }).sweep
    match (s.ctx h).q.lq.find? fun a => a.tok == r.tok && !a.isAlign with
    | some a => if a.ps.all Piece.done then s.sched 1 (.loadArrive h r.tok) else s
    | none => s

/-- An answer whose access is in an image comes to it with the swap-in (R143). -/
def State.toImage (s : State) (id : Nat) (ev : Instr) : State :=
  { s with images := s.images.map fun x => if (mfind x.2.far id).isSome then (x.1, { x.2 with evs := x.2.evs ++ [(0, ev)] }) else x }

/-- READ_DATA (R243). -/
def execReadData (p : Pkt) (s : State) : Host.Outcome State Fault Refusal :=
  let (ok, s) := s.takenIn p
  match ok, mfind s.net.far p.id with
  | true, some r => .next ((s.dropFar p.id r).fillFar r p.opa.toNat p.data p.tags)
  | true, none => .next (s.toImage p.id (.readData p))
  | false, _ => .next s

/-- ATOMIC_RESULT (R243): the value before the operation, and the acknowledgement of its number. -/
def execAtomicResult (p : Pkt) (s : State) : Host.Outcome State Fault Refusal :=
  let (ok, s) := s.takenIn p
  match ok, mfind s.net.far p.id with
  | true, some r => .next ((s.dropFar p.id r).fillFar r 0 p.data [none])
  | _, _ => .next s

/-- WRITE_ACKNOWLEDGEMENT (R139, R257, R367): a number has committed at its home, or the buddy has accepted a duplicate. -/
def execWriteAcknowledgement (p : Pkt) (s : State) : Host.Outcome State Fault Refusal :=
  let (ok, s) := s.takenIn p
  if !ok then .next s
  else if p.op = 1 then
    .next { s with net := { s.net with mir := s.net.mir.map fun x => if x.2.1 = p.id then (x.1, x.2.1, true) else x } }
  else
    match mfind s.net.far p.id with
    | none => .next s
    | some r =>
      let s := s.dropFar p.id r
      match r.cmd with
      | some k => .next (s.modCmd k fun c => { c with wait := c.wait - 1 })
      | none => .next s

/-- The back-off base in ns (R339). -/
def State.backoff (s : State) : Nat := max 100 (fld s.net.fbko 31 0)

/-- The cancellation of a number (R140). -/
def State.cancelNumber (s : State) (r : Far) : State :=
  s.send { Pkt.zero with ty := 7, src := s.net.fpeer, ssub := r.pkt.ssub, dst := r.pkt.dst, dsub := r.pkt.dsub, ctx := r.pkt.ctx,
                         seq := r.pkt.seq }

/-- The end of a back-off (R140, R230, R232, R244): the access fails, its number is cancelled, and the context gets a record. A
bulk copy stops, and all its numbers are cancelled. -/
def State.farFault (s : State) (id : Nat) (r : Far) : State :=
  let plf := plfOf r.pkt.seq r.pkt.dst 0 3 r.place
  let cause := if r.conv then 0x10 else 0x0E
  let rec' := asyncRec cause (if r.cmd.isSome ∧ !r.conv then 4 else 1) r.pkt.seq r.pkt.dst (if r.conv then some plf else none)
  let s := match r.cmd with
    | none => if r.pkt.ty = 2 then s.dropFar id r else (s.dropFar id r).cancelNumber r
    | some k =>
      let mine := s.net.far.filter fun x => x.2.cmd == some k
      let s := mine.foldl (fun s x => (s.dropFar x.1 x.2).cancelNumber x.2) s
      match mfind s.cmds k with
      | some c => (match c.kind with
        | .copy h => (s.modCtx h Ctx.dropCp).endCmd k
        | _ => s.endCmd k)
      | none => s
  match r.h with
  | none => s
  | some h => (if r.pkt.ty = 2 ∨ r.pkt.ty = 4 then s.failLoad h r.tok else s).postAsync h rec'

/-- RECEIVER_NOT_READY (R244): the k-th refusal waits base x 2^(k-1) for a resend; the twelfth is the end of the back-off. -/
def execReceiverNotReady (p : Pkt) (s : State) : Host.Outcome State Fault Refusal :=
  let (ok, s) := s.takenIn p
  match ok, mfind s.net.far p.id with
  | true, some r =>
    let r := { r with conv := p.opa == 1, tries := r.tries + 1 }
    let s := { s with net := { s.net with far := mins s.net.far p.id r } }
    .next (s.sched (if r.tries > 11 then 0 else nsCycles (s.backoff * 2 ^ (r.tries - 1))) (.backoffResend p.id))
  | _, _ => .next s

/-- BACKOFF_RESEND (R244): the packet is sent again, with its number; after the refusal of the eleventh resend the access
faults. -/
def execBackoffResend (id : Nat) (s : State) : Host.Outcome State Fault Refusal :=
  match mfind s.net.far id with
  | some r => .next (if r.tries > 11 then s.farFault id r else s.send r.pkt)
  | none => .next s

/-- EGRESS_RELEASE (R139): a write held at the egress leaves once the window is open. -/
def execEgressRelease (h tok : Nat) (s : State) : Host.Outcome State Fault Refusal :=
  match (s.ctx h).stores.find? fun a => a.tok == tok && !a.isAlign with
  | some a =>
    (match a.kind with
     | .remote (p :: ps) place _ => .next (s.performFarStore h a p ps place)
     | _ => .next s)
  | none => .next s

/-! Channels (R340, R341). -/

/-- The elements that have come placed in the order of the channel sequence. -/
def State.placeElems (s : State) (dev dctx i : Nat) : Nat → State
  | 0 => s
  | n + 1 =>
    let d := s.dc dev dctx
    let (w0, w1) := (mfind d.chan i).getD (0, 0)
    let buf := (mfind d.chbuf i).getD []
    match mfind buf (fld w1 15 0) with
    | none => s
    | some (bs, _) =>
      let q := fld w1 15 0
      let w1 := putFld (putFld w1 15 0 (q + 1)) 22 16 (fld w1 22 16 + 1)
      (s.modDc dev dctx fun d =>
        { d with chan := mins d.chan i (w0, w1), chbuf := mins d.chbuf i (mdel buf q),
                 chq := mins d.chq i ((mfind d.chq i).getD [] ++ [bs]) }).placeElems dev dctx i n

/-- CHANNEL_ELEMENT (R341): an element joins the receive end in the order of its sequence; one of another shape is refused. -/
def execChannelElement (p : Pkt) (s : State) : Host.Outcome State Fault Refusal :=
  let (ok, s) := s.takenIn p
  let i := fld p.opa 5 0
  let d := s.dc p.dsub p.ctx
  let (w0, w1) := (mfind d.chan i).getD (0, 0)
  if !ok then .next s
  else if !d.live ∨ !bitOf w0 63 ∨ fld w0 62 61 ≠ 1 then .next (s.countErr 5)
  else if fld p.opb 14 0 ≠ fld w0 14 0 then
    .next (s.modDc p.dsub p.ctx fun d => { d with chan := mins d.chan i (w0, w1 ||| (1#64 <<< 63)) })
  else
    let buf := mins ((mfind d.chbuf i).getD []) (p.seq % 65536) (p.data, 0)
    .next ((s.modDc p.dsub p.ctx fun d => { d with chbuf := mins d.chbuf i buf }).placeElems p.dsub p.ctx i 64)

/-- CHANNEL_CREDIT (R341): a credit comes back to the send end. -/
def execChannelCredit (p : Pkt) (s : State) : Host.Outcome State Fault Refusal :=
  let (ok, s) := s.takenIn p
  let i := fld p.opa 5 0
  let (w0, w1) := (mfind (s.dc p.dsub p.ctx).chan i).getD (0, 0)
  if !ok ∨ fld w0 62 61 ≠ 0 then .next s
  else .next (s.modDc p.dsub p.ctx fun d => { d with chan := mins d.chan i (w0, putFld w1 22 16 (fld w1 22 16 + 1)) })

end Sys2Proof.Machine
end

