-- ==== Sys2Proof/Machine/Flux.lean ====
section
/-! DEFINITION. The flux engine (R102 to R122, R258 to R260, R399): elements and granules, sums, conversions and
collectives. -/

namespace Sys2Proof.Machine

/-! The end of a queue entry (R311). -/

/-- An entry's STATUS and INFO are known: it is due to complete. -/
def State.finEntry (s : State) (id st info : Nat) : State :=
  match s.bel.qs.find? fun x => x.2.ents.any fun e => e.id == id with
  | none => s
  | some (q, _) =>
    let s := s.modQueue q fun k =>
      { k with ents := k.ents.map fun e => if e.id = id ∧ e.fin.isNone then { e with fin := some (st, info) } else e }
    ({ s with bel := { s.bel with dones := s.bel.dones ++ [(q, id)] } }).schedOnce 1 .entryComplete

/-! Elements and granules (R17, R36, R114). -/

/-- The element code at a place of a group of members, with the tag of its granule; none where no member holds it (R399). -/
abbrev Elem := Option (Nat × Tag)

/-- A run of elements of a row cut at granules: the granule of the row, the first element in it, and how many. -/
def cutElems (per c0 n : Nat) : Nat → List (Nat × Nat × Nat)
  | 0 => []
  | f + 1 =>
    if n = 0 then []
    else
      let m := min n (per - c0 % per)
      (c0 / per, c0 % per, m) :: cutElems per (c0 + m) (n - m) f

/-- The granules that a run of a row of a box reaches: virtual address, first element, and count. -/
def Desc.runGrans (b : Desc) (c : List Nat) (n : Nat) : List (Nat × Nat × Nat) :=
  (cutElems (fmtPer b.fmt) (c.getD 0 0) n (n + 1)).map fun x =>
    (b.granLoc (x.1 * fmtPer b.fmt) (c.getD 1 0) (c.getD 2 0) (c.getD 3 0), x.2)

/-- The granules of all rows of a window at the origin of a box. -/
def Desc.winGrans (b : Desc) (ext : List Nat) : List (Nat × Nat × Nat) :=
  (windowRows ext).flatMap fun (i, j, k) => b.runGrans [0, i, j, k] (ext.getD 0 0)

/-- The places of granules, or the first that fails: whether a permission failed, and the address (R112). -/
def State.granPlaces (s : State) (dev dctx : Nat) (b : Desc) (wr : Bool) :
    List (Nat × Nat × Nat) → Except (Bool × Nat) (List (Place × Nat × Nat))
  | [] => .ok []
  | (va, x) :: l =>
    match s.xlate dev dctx va b.key wr with
    | .noPage => .error (false, va)
    | .denied => .error (true, va)
    | .ok pa =>
      match s.granPlaces dev dctx b wr l with
      | .error e => .error e
      | .ok ps => .ok ((s.hbmPlace dev pa b.key, x) :: ps)

/-- The elements of granules read in order. -/
def State.readElems (s : State) (fmt : Nat) : List (Place × Nat × Nat) → List (Nat × Tag) × State
  | [] => ([], s)
  | (p, k0, n) :: l =>
    let (bs, s1) := s.readBytes p 64
    let (t, s2) := s1.readTag p
    let (es, s3) := s2.readElems fmt l
    (((List.range n).map fun k => (elemOf fmt bs (k0 + k), t)) ++ es, s3)

/-- Codes packed in a row of bits, the first lowest. -/
def packCodes (bits : Nat) : List Nat → Nat
  | [] => 0
  | c :: l => c % 2 ^ bits + 2 ^ bits * packCodes bits l

/-- The codes of elements, each that no member holds a free value. -/
def State.codes (s : State) (bits : Nat) : List Elem → List Nat × State
  | [] => ([], s)
  | some x :: l => let (cs, s1) := s.codes bits l; (x.1 :: cs, s1)
  | none :: l =>
    let (cs, s1) := s.draw.codes bits l
    ((Config.freeWord s.clk.frees).toNat % 2 ^ bits :: cs, s1)

/-- The bytes of a run of codes in a granule (R36): a whole granule is written whole, bytes 60 to 63 of a 6-bit block as 0; bits of the
last byte past the run stay as they stand. -/
def State.codeBytesAt (s : State) (p : Place) (bits : Nat) (whole : Bool) (cs : List Nat) : List Byte × State :=
  let n := cs.length * bits
  let v := packCodes bits cs
  if whole then (toBytes 64 v, s)
  else if n % 8 = 0 then (toBytes (n / 8) v, s)
  else
    let (old, s) := s.readBytes (p.add (n / 8)) 1
    (toBytes (cdiv n 8) (v + ofBytes old / 2 ^ (n % 8) * 2 ^ n), s)

/-- What a granule's run of elements writes: place, bytes, and the tag that the granule takes (R37, R114): that of the source
granule of the first element where the granule is written whole or is a block of a tagged class, 0 for sums. -/
def State.granWrite (s : State) (fmt : Nat) (sums : Bool) (p : Place) (k0 : Nat) (es : List Elem) :
    (Place × List Byte × Option Tag) × State :=
  let bits := fmtBits fmt
  let (cs, s) := s.codes bits es
  let whole := k0 == 0 && es.length == fmtPer fmt
  let tag := if es.any Option.isNone || k0 != 0 || !(whole || fmtTagged fmt) then none
    else if sums then some 0 else (es.head?.join).map (·.2)
  let at' := p.add (k0 * bits / 8)
  let (bs, s) := s.codeBytesAt at' bits whole cs
  ((at', bs, tag), s)

/-- The writes of elements laid over granules in order. -/
def State.granWrites (s : State) (fmt : Nat) (sums : Bool) :
    List (Place × Nat × Nat) → List Elem → List (Place × List Byte × Option Tag) × State
  | [], _ => ([], s)
  | (p, k0, n) :: l, es =>
    let (w, s1) := s.granWrite fmt sums p k0 (es.take n)
    let (ws, s2) := s1.granWrites fmt sums l (es.drop n)
    (w :: ws, s2)

/-! Sums (R115, R118, R119). -/

/-- One addition in the element format. -/
def elemAdd (f a b : Nat) : Nat :=
  if fmtFloat f then (fAdd (ffmt f) 0 (fDecode (ffmt f) a) (fDecode (ffmt f) b)).1 else (a + b) % 2 ^ fmtBits f

/-- TREE order over the members (R118). -/
def comb (add : Nat → Nat → Nat) : Nat → List Nat → Nat
  | 0, l => l.headD 0
  | f + 1, l =>
    if l.length ≤ 1 then l.headD 0
    else
      let h := 2 ^ Nat.log2 (l.length - 1)
      add (comb add f (l.take h)) (comb add f (l.drop h))

/-- The others' partials added in the order of their arrival. -/
def addArrivals (add : Nat → Nat → Nat) (pick : Nat → Nat) : Nat → Nat → List Nat → Nat
  | 0, acc, _ => acc
  | f + 1, acc, l =>
    if l.isEmpty then acc
    else
      let k := pick (f + 1) % l.length
      addArrivals add pick f (add acc (l.getD k 0)) (l.eraseIdx k)

/-- ARRIVAL order (R119): the reducer starts from its own partial. -/
def arrivalSum (add : Nat → Nat → Nat) (pick : Nat → Nat) (l : List Nat) : Nat :=
  let r := pick 0 % l.length
  addArrivals add pick l.length (l.getD r 0) (l.eraseIdx r)

/-- A sum over the members in an order. -/
def memberSum (fmt ord : Nat) (pick : Nat → Nat) (l : List Nat) : Nat :=
  if ord = 0 then comb (elemAdd fmt) l.length l else if l.length ≤ 1 then l.headD 0 else arrivalSum (elemAdd fmt) pick l

/-! Conversions (R112 to R116, R399). -/

/-- The conversion of a device context with a mask and a sequence number. -/
def DCtx.convOf (d : DCtx) (mask seq : Nat) : Option (Nat × PlEnt × Conv) :=
  d.place.findSome? fun x => match x.2.conv with
    | some k => if k.mask = mask ∧ k.seq = seq then some (x.1, x.2, k) else none
    | none => none

/-- The conversion of a placement index changed. -/
def State.modConv (s : State) (dev dctx pl : Nat) (f : Conv → Conv) : State :=
  s.modDc dev dctx fun d => { d with place := d.place.map fun x => if x.1 = pl then (x.1, { x.2 with conv := x.2.conv.map f }) else x }

/-- The group index of a member among the members of a mask. -/
def DCtx.indexOf (d : DCtx) (mask : Nat) (m : Nat × Nat) : Nat := (d.groupPeers (maskAxes mask)).findIdx (· == m)

/-- The first field in which first packets differ: the lowest of the causes 4 to 6 (R121). -/
def First.differs (a b : First) : Option Nat :=
  if a.place ≠ b.place then some 4
  else if a.mask ≠ b.mask ∨ a.tgt ≠ b.tgt then some 5
  else if a.cur ≠ b.cur ∨ a.ord ≠ b.ord then some 6
  else none

/-- Whether a sequence number lies ahead of another, modulo 2^32. -/
def seqAhead (a b : Nat) : Bool := let x := (a + 2 ^ 32 - b % 2 ^ 32) % 2 ^ 32; 0 < x && x < 2 ^ 31

/-- The peers of a mask whose packets in the buffer show that a number will never come from them (R113): the fabric keeps
steps under their sequence numbers (R334). -/
def DCtx.skipped (d : DCtx) (mask seq : Nat) (i : Nat) : Bool :=
  match (d.groupPeers (maskAxes mask))[i]? with
  | none => false
  | some m => d.flux.any fun p => p.src == m.1 && p.ssub == m.2 && seqAhead p.seq seq &&
      (match p.flux with | .convFirst _ k _ _ _ => k == mask | _ => false)

/-- The first member whose first packet differs from the own one, with the cause. A number passed over counts only where the conversion
has traffic, since a local slice sends no packet (R114). -/
def DCtx.mismatch (d : DCtx) (k : Conv) (traffic : Bool) : Option (Nat × Nat) :=
  let g := (d.groupPeers (maskAxes k.mask)).length
  match mfind k.firsts (d.indexOf k.mask (d.peerOf d.mco)) with
  | none => none
  | some own =>
    (List.range g).findSome? fun i =>
      match mfind k.firsts i with
      | some f => (own.differs f).map fun c => (i, c)
      | none => if traffic && d.skipped k.mask k.seq i then some (i, 7) else none

/-- A waiting load fails, or a waiting entry completes, when a conversion is abandoned. -/
def State.failWaiter (s : State) (cause seq peer : Nat) (plf : Option Word) (st : Nat) (w : Waiter) : State :=
  match w with
  | .ldp h tok => (s.failLoad h tok).postAsync h (asyncRec cause 2 seq peer plf)
  | .entry q => s.finEntry q st seq

/-- CIP and TGT cleared, and LAST set; CUR stays (R112, R113). -/
def State.clearConv (s : State) (dev dctx pl last : Nat) : State :=
  s.modDc dev dctx fun d => { d with place := d.place.map fun x =>
    if x.1 = pl then (pl, { w0 := putFld (x.2.w0 &&& ~~~(1#64 <<< 62)) 59 48 0, w1 := putFld x.2.w1 3 0 last, conv := none }) else x }

/-- A conversion abandoned on this device: on a collective mismatch with a member (LAST 2), or on a fault (LAST 3). -/
def State.dropConv (s : State) (dev dctx pl : Nat) (k : Conv) (last cause peer : Nat) (plf : Option Word) : State :=
  let s := s.clearConv dev dctx pl last
  k.wait.foldl (fun s w => s.failWaiter cause k.seq peer plf (if last = 2 then 6 else 8) w) s

/-- The collective-mismatch fault with a member (R113, R121). -/
def State.mismatched (s : State) (dev dctx pl : Nat) (k : Conv) (i cause : Nat) : State :=
  let peer := (((s.dc dev dctx).groupPeers (maskAxes k.mask)).getD i (0, 0)).1
  s.dropConv dev dctx pl k 2 0x11 peer (some (plfOf k.seq peer k.mask cause pl))

/-- A conversion abandoned on every member after a fault (R112). -/
def State.abandonConv (s : State) (dev dctx pl : Nat) (k : Conv) (cause : Nat) : State :=
  let d := s.dc dev dctx
  let others := (d.groupPeers (maskAxes k.mask)).filter fun m => m != d.peerOf d.mco
  let s := others.foldl (fun s m => s.send (fluxPkt s dev dctx m k.seq (.convDrop pl k.mask 3 cause) 4 [])) s
  s.dropConv dev dctx pl k 3 cause 0 none

/-- A fault that the flux engine meets (R112): a translation fault suspends the conversion behind its record, a permission
trap abandons it. -/
def State.convFault (s : State) (dev dctx pl : Nat) (k : Conv) (deny : Bool) (va : Nat) : State :=
  if deny then (s.postFault dev dctx 2 1 0 0 va none).abandonConv dev dctx pl k 0x0D
  else (s.modConv dev dctx pl fun k => { k with susp := some va }).postFault dev dctx 2 0 0 0 va (some (.conv pl))

/-- Whether a load is one that the conversion of a placement index serves (R111). -/
def DCtx.pledged (d : DCtx) (h pl tok : Nat) : Bool :=
  match (mfind d.place pl).bind (·.conv) with | some k => k.wait.contains (.ldp h tok) | none => false

/-- Whether what the demanding contexts did before, and what any context of the device wrote to the footprint, has performed (R116): an
`ldp` is a release at `.sys`, so its context's earlier loads too (R130), but for those that wait for the conversion themselves (R120). -/
def State.convReady (s : State) (dev pl : Nat) (fp : List Nat) (w : List Waiter) : Bool :=
  (w.all fun x => match x with
    | .entry _ => true
    | .ldp h tok =>
      let c := s.ctx h
      (match c.q.lq.find? fun a => a.tok == tok && !a.isAlign with
       | some a => c.storesBefore a.seq 4 && !s.farLeft h a.seq &&
           c.q.lq.all fun x => x.seq ≥ a.seq || x.isAlign || x.done || x.conv == some pl || (s.taskDc c).pledged h pl x.tok
       | none => true) &&
      (s.net.far.all fun y => y.2.h != some h || (match y.2.cmd with | some id => id > tok | none => true)) &&
      (s.cmds.all fun y => y.2.kind != .copy h || y.1 > tok) && (s.colls.all fun y => y.2.h != some h || y.1 > tok)) &&
  (s.hw.all fun x => s.devOf x.1 != dev || x.2.stores.all fun a => a.ps.all fun p =>
    p.done || (match p.pl with | .hbm a _ => !fp.contains (a / 64) | .sp _ => true))

/-- The granules of a footprint that translate, by number. -/
def State.footprint (s : State) (dev dctx : Nat) (b : Desc) : List Nat :=
  (b.winGrans b.exts).filterMap fun x => match s.xlate dev dctx x.1 b.key false with
    | .ok pa => some (s.hbmAddr dev pa / 64)
    | _ => none

/-- The bytes of the elements of a format that a run of bytes of a granule touches, as address and length. -/
def touched (fmt a n : Nat) : Nat × Nat :=
  let u := if fmtBits fmt % 8 = 0 then fmtBits fmt / 8 else if fmtBits fmt = 4 then 1 else 64
  (a / u * u, cdiv (a + n) u * u - a / u * u)

/-- The elements of a packet. -/
def fluxElems (fmt : Nat) (p : Pkt) : List (Nat × Tag) :=
  let n := cdiv (fmtBits fmt) 8
  (chunksOf n p.data (p.data.length + 1)).zipIdx.map fun (bs, i) => (ofBytes bs, (p.tags.getD i none).getD 0)

/-- A collective of a device context by its channel and the low bits of its number. -/
def State.collNo (s : State) (dev dctx chan seq : Nat) : Option (Nat × Coll) :=
  s.colls.find? fun x => x.2.dev == dev && x.2.dctx == dctx && x.2.chan == chan && x.2.count % 2 ^ 32 == seq % 2 ^ 32

/-- A member of the group of the conversion in progress on an entry whose first packet is still awaited, and which demands the same
entry under another mask: its place in the group (R113, R121 CAUSE 5). -/
def DCtx.crossed (d : DCtx) (place mask : Nat) (m : Nat × Nat) : Option Nat :=
  match mfind d.place place with
  | some e =>
    (match e.conv with
     | some k =>
       let i := d.indexOf k.mask m
       if k.mask ≠ mask ∧ convTraffic e.cur k.mask k.tgt ∧ i < (d.groupPeers (maskAxes k.mask)).length ∧ (mfind k.firsts i).isNone then some i
       else none
     | none => none)
  | none => none

/-- A step of a member taken in: by the conversion or collective it belongs to, or kept until that is issued here. A member
that issues a number after its peers have abandoned it receives the abandonment in reply (R113). -/
def State.fluxTake (s : State) (p : Pkt) : State :=
  let dev := p.dsub
  let c := p.ctx
  let d := s.dc dev c
  let keep := s.modDc dev c fun d => { d with flux := d.flux ++ [p] }
  match p.flux with
  | .convFirst place mask tgt cur ord =>
    let f : First := { seq := p.seq, place := place, mask := mask, tgt := tgt, cur := cur, ord := ord }
    (match d.convOf mask p.seq with
     | some (pl, _, _) => s.modConv dev c pl fun k => { k with firsts := mins k.firsts (d.indexOf mask (p.src, p.ssub)) f }
     | none =>
       if !seqAhead p.seq (mget 0 d.seqc mask) then s.send (fluxPkt s dev c (p.src, p.ssub) p.seq (.convDrop place mask 2 0) 4 [])
       else match d.crossed place mask (p.src, p.ssub) with
         | some i => s.modConv dev c place fun k => { k with firsts := mins k.firsts i f }
         | none => keep)
  | .convPart _ mask =>
    (match d.convOf mask p.seq with
     | some (pl, _, k) =>
       s.modConv dev c pl fun x => { x with parts := mins x.parts (d.indexOf mask (p.src, p.ssub)) (fluxElems k.desc.fmt p) }
     | none => s)
  | .convDrop _ mask last cause =>
    (match d.convOf mask p.seq with
     | some (pl, _, k) =>
       if s.resident dev ≠ some c then keep
       else if last = 3 then s.dropConv dev c pl k 3 cause 0 none
       else
         let (i, cause) := (d.mismatch k true).getD (d.indexOf mask (p.src, p.ssub), 7)
         s.mismatched dev c pl k i cause
     | none => s)
  | .collFirst chan k n chunk =>
    (match s.collNo dev c chan p.seq with
     | some (id, x) =>
       let i := x.peers.findIdx (· == (p.src, p.ssub))
       { s with colls := mins s.colls id { x with firsts := mins x.firsts i [k, n, chunk] } }
     | none => if seqAhead p.seq ((mfind d.chan chan).getD (0, 0)).2.toNat then keep else s)
  | .collPart chan =>
    (match s.collNo dev c chan p.seq with
     | some (id, x) =>
       let i := x.peers.findIdx (· == (p.src, p.ssub))
       { s with colls := mins s.colls id { x with parts := mins x.parts i (fluxElems x.src.fmt p) } }
     | none => s)
  | _ => s

/-- The steps kept taken in again. -/
def State.refeed (s : State) (dev dctx : Nat) : State :=
  let l := (s.dc dev dctx).flux
  l.foldl (fun s p => s.fluxTake p) (s.modDc dev dctx fun d => { d with flux := [] })

/-- FLUX_ENGINE_STEP (R102, R112, R113, R259): a step arrives from a member. -/
def execFluxEngineStep (p : Pkt) (s : State) : Host.Outcome State Fault Refusal :=
  let (ok, s) := s.takenIn p
  if !ok ∨ !(s.dc p.dsub p.ctx).live then .next s else .next (s.fluxTake p)

/-- CONVERSION_START (R113, R116): once the first packets of all members agree, and the stores before the demand have
performed, the shard is read and sent to the members. -/
def execConversionStart (d c pl : Nat) (s : State) : Host.Outcome State Fault Refusal :=
  let s := s.refeed d c
  let x := s.dc d c
  match (mfind x.place pl).bind fun e => e.conv.map fun k => (e, k) with
  | none => .next s
  | some (e, k) =>
    let again := s.sched 1 (.conversionStart d c pl)
    let b := k.desc
    let axes := maskAxes k.mask
    let peers := x.groupPeers axes
    let traffic := convTraffic e.cur k.mask k.tgt
    if k.refused then .next (s.abandonConv d c pl k 0x0C)
    else if k.going ∨ k.susp.isSome then .next s
    else match x.mismatch k traffic with
    | some (i, cause) => .next (s.mismatched d c pl k i cause)
    | none =>
      if traffic ∧ !((List.range peers.length).all fun i => (mfind k.firsts i).isSome) then .next again
      else if !s.convReady d pl (s.footprint d c b) k.wait then .next again
      else
        -- the shard's pages, and those that the conversion writes, are checked before anything moves
        match s.granPlaces d c b false (b.winGrans (shardExts x.msh x.mco b e.cur)),
              s.granPlaces d c b true (b.winGrans (shardExts x.msh x.mco b k.tgt)) with
        | .error (deny, va), _ => .next (s.convFault d c pl k deny va)
        | _, .error (deny, va) => .next (s.convFault d c pl k deny va)
        | .ok ps, .ok _ =>
          let (es, s) := s.readElems b.fmt ps
          let me := x.indexOf k.mask (x.peerOf x.mco)
          let s := s.modConv d c pl fun k => { k with going := true, parts := mins k.parts me es }
          let s := peers.zipIdx.foldl (fun s m =>
            if m.2 = me ∨ !traffic then s else s.send (fluxPkt s d c m.1 k.seq (.convPart pl k.mask) b.fmt es)) s
          .next (s.sched 1 (.conversionComplete d c pl))

/-- The place of an element in a shard read row by row. -/
def shardPlace (ext l : List Nat) : Nat :=
  ((l.getD 3 0 * ext.getD 2 0 + l.getD 2 0) * ext.getD 1 0 + l.getD 1 0) * ext.getD 0 0 + l.getD 0 0

/-- The origin of a member's shard (R105). -/
def shardOrg (msh m : Word) (b : Desc) (cur : Nat) : List Nat :=
  (List.range 4).map fun i => (shardDim msh m b.fmt cur (b.ext i) i).1

/-- What the members hold of a global element in the current state, in group-index order: of an axis in R, and of one in P
that stays so, the own coordinate counts (R104, R114). -/
def convHolders (d : DCtx) (cur : Nat) (k : Conv) (g : List Nat) : List (Nat × Tag) :=
  let axes := maskAxes k.mask
  let own (m : Word) : Bool := axes.all fun a =>
    axis m a == axis d.mco a ||
    !(axisState cur a == 4 || (axisState cur a == 8 && axisState k.tgt a == 8))
  (groupCoords d.msh d.mco axes).zipIdx.filterMap fun (m, i) =>
    let o := shardOrg d.msh m k.desc cur
    let x := shardExts d.msh m k.desc cur
    let inside := (List.range 4).all fun j => o.getD j 0 ≤ g.getD j 0 && g.getD j 0 < o.getD j 0 + x.getD j 0
    if own m ∧ inside then ((mfind k.parts i).getD [])[shardPlace x ((List.range 4).map fun j => g.getD j 0 - o.getD j 0)]?
    else none

/-- The element of the converted tensor: moved, or the sum over the axes that leave P. -/
def convElem (key : Nat) (d : DCtx) (e : PlEnt) (k : Conv) (g : List Nat) : Elem :=
  match convHolders d e.cur k g with
  | [] => none
  | [x] => some x
  | x :: l => some (memberSum k.desc.fmt e.ord (Config.arrival key k.seq (shardPlace k.desc.exts g)) ((x :: l).map (·.1)), 0)

/-- Whether a conversion forms sums. -/
def convSums (cur : Nat) (k : Conv) : Bool :=
  (maskAxes k.mask).any fun a => axisState cur a == 8 && axisState k.tgt a != 8

/-- Which elements of a shard read granule by granule a run of bytes touches. -/
def touchedElems (fmt : Nat) (ps : List (Place × Nat × Nat)) (x : Nat × Nat) : List Bool :=
  let bits := fmtBits fmt
  ps.flatMap fun (p, k0, n) => (List.range n).map fun k =>
    match p with
    | .hbm a _ => decide (8 * x.1 < 8 * a + (k0 + k + 1) * bits) && decide (8 * a + (k0 + k) * bits < 8 * (x.1 + x.2))
    | .sp _ => false

/-- Elements marked take free values. -/
def State.spoil (s : State) (bits : Nat) : List (Nat × Tag) → List Bool → List (Nat × Tag) × State
  | x :: l, b :: bs =>
    if b then
      let (r, s1) := s.draw.spoil bits l bs
      (((Config.freeWord s.clk.frees).toNat % 2 ^ bits, x.2) :: r, s1)
    else
      let (r, s1) := s.spoil bits l bs
      (x :: r, s1)
  | l, _ => (l, s)

/-- Elements that the host touches after a conversion has read them are unspecified at their new places too (R356): the part that this
member gave to the conversion, as every device of the package holds it. -/
def State.spoilParts (s : State) (dev c pl : Nat) (e : PlEnt) (k : Conv) (x : Nat × Nat) : State :=
  let d := s.dc dev c
  match s.granPlaces dev c k.desc false (k.desc.winGrans (shardExts d.msh d.mco k.desc e.cur)) with
  | .error _ => s
  | .ok ps =>
    let i := d.indexOf k.mask (d.peerOf d.mco)
    (List.range 8).foldl (fun s dev' =>
      match (mfind (s.dc dev' c).place pl).bind (·.conv) with
      | some k' =>
        (match mfind k'.parts i with
         | some l =>
           if k'.mask = k.mask ∧ k'.seq = k.seq then
             let (l', s) := s.spoil (fmtBits k.desc.fmt) l (touchedElems k.desc.fmt ps x)
             s.modConv dev' c pl fun k => { k with parts := mins k.parts i l' }
           else s
         | none => s)
      | none => s) s

/-- What the host has written to a granule of a converting tensor (R356): the elements it touches hold nothing, and are noted. -/
def State.hitBy (s : State) (a n : Nat) : State :=
  let dev := s.devOfStack a
  (List.range 16).foldl (fun s c => (s.dc dev c).place.foldl (fun s e =>
    match e.2.conv with
    | some k =>
      if e.2.cip ∧ (s.footprint dev c k.desc).contains (a / 64) then
        let x := touched k.desc.fmt a n
        let s := { s.modConv dev c e.1 fun k => { k with hit := k.hit ++ [x] } with mem := s.mem.forget x.1 x.2 }
        s.spoilParts dev c e.1 e.2 k x
      else s
    | none => s) s) s

/-- The elements that the host has touched meanwhile hold nothing after the conversion (R356). -/
def State.forgetHits (s : State) (k : Conv) : State := { s with mem := k.hit.foldl (fun m x => m.forget x.1 x.2) s.mem }

/-- The footprint beside the new shard, of unspecified contents after a conversion (R106): elements alone, since the bytes past the end
of a row are no part of the box (R17, R399). -/
def State.forgetBeside (s : State) (dev dctx : Nat) (b : Desc) (ext : List Nat) : State :=
  let bits := fmtBits b.fmt
  let gone (s : State) (va off n : Nat) : State :=
    match s.xlate dev dctx va b.key true with
    | .ok pa =>
      let a := s.hbmAddr dev pa
      if s.mem.keyOf a = s.seal pa b.key + 1 then { s with mem := s.mem.forget (a + off) n } else s
    | _ => s
  let inside := b.winGrans ext
  (b.winGrans b.exts).foldl (fun s (va, _, m) =>
    let all := cdiv (m * bits) 8
    match inside.find? fun y => y.1 == va with
    | none => gone s va 0 all
    | some (_, _, n) => let used := cdiv (n * bits) 8; gone s va used (all - used)) s

/-- The key of a group's sums. -/
def groupKey (peers : List (Nat × Nat)) (dctx x : Nat) : Nat :=
  let m := peers.headD (0, 0)
  (memberKey m.1 m.2 * 16 + dctx) * 2 ^ 20 + x

/-- CONVERSION_COMPLETE (R106, R112, R114 to R119, R356, R399): with every member's shard here, the new shard is written, the entry
takes its target, and the loads are made. -/
def execConversionComplete (d c pl : Nat) (s : State) : Host.Outcome State Fault Refusal :=
  let s := s.refeed d c
  let x := s.dc d c
  match (mfind x.place pl).bind fun e => e.conv.map fun k => (e, k) with
  | none => .next s
  | some (e, k) =>
    let again (s : State) : State := s.sched 1 (.conversionComplete d c pl)
    let b := k.desc
    let peers := x.groupPeers (maskAxes k.mask)
    let traffic := convTraffic e.cur k.mask k.tgt
    let ext := shardExts x.msh x.mco b k.tgt
    if k.refused then .next (s.abandonConv d c pl k 0x0C)
    else if !k.going ∨ k.susp.isSome then .next s
    else if (traffic ∧ !((List.range peers.length).all fun i => (mfind k.parts i).isSome)) ∨ !s.convReady d pl [] k.wait then
      .next (again s)
    else
      match s.granPlaces d c b true (b.winGrans ext) with
      | .error (deny, va) => .next (s.convFault d c pl k deny va)
      | .ok ps =>
        let org := shardOrg x.msh x.mco b k.tgt
        let key := groupKey peers c (k.mask * 1024 + pl)
        let es := (windowRows ext).flatMap fun (i, j, l) => (List.range (ext.getD 0 0)).map fun a =>
          convElem key x e k [org.getD 0 0 + a, org.getD 1 0 + i, org.getD 2 0 + j, org.getD 3 0 + l]
        let (ws, s1) := s.granWrites b.fmt (convSums e.cur k) ps es
        let (ok, s1) := s1.mirroredAll ws
        if !ok then .next (again { s1 with clk := { s1.clk with frees := s.clk.frees } })
        else
          let s := ((s1.writeParts ws).forgetBeside d c b ext).forgetHits k
          let s := s.modDc d c fun x => { x with place := x.place.map fun y =>
            if y.1 = pl then
              (pl, { w0 := putFld (putFld (putFld (y.2.w0 &&& ~~~(1#64 <<< 62)) 59 48 0) 11 0 k.tgt) 47 32 (y.2.ver + 1),
                     w1 := putFld y.2.w1 3 0 1, conv := none })
            else y }
          .next (k.wait.foldl (fun s w => match w with
            | .entry q => s.finEntry q 0 k.seq
            | .ldp h tok =>
              match (s.ctx h).q.lq.find? fun a => a.tok == tok && !a.isAlign with
              | some a => (List.range (max 1 a.ps.length)).foldl (fun s i => s.sched 1 (.memoryAccessPerform h tok i)) s
              | none => s) s)

/-! Collectives (R258 to R260). -/

/-- A collective removed. -/
def State.endColl (s : State) (id : Nat) : State := { s with colls := mdel s.colls id }

/-- A collective mismatch with a member (R259): nothing is written. -/
def State.collMismatch (s : State) (id : Nat) (x : Coll) (i cause : Nat) : State :=
  let peer := (x.peers.getD i (0, 0)).1
  let seq := x.count % 2 ^ 32
  let s := s.endColl id
  let s := match x.h with
    | some h => (s.modCtx h Ctx.dropCp).postAsync h (asyncRec 0x11 3 seq peer (some (plfOf seq peer 0 cause 0)))
    | none => s
  match x.q with | some q => s.finEntry q 6 seq | none => s

/-- A collective abandoned after a fault. -/
def State.abandonColl (s : State) (id : Nat) (x : Coll) : State :=
  let s := s.endColl id
  let s := match x.h with | some h => s.modCtx h Ctx.dropCp | none => s
  match x.q with | some q => s.finEntry q 8 (x.count % 2 ^ 32) | none => s

/-- A fault that a collective meets after its issue: suspended behind its record, or abandoned; assumption log 19. -/
def State.collFault (s : State) (id : Nat) (x : Coll) (deny : Bool) (va : Nat) : State :=
  if deny then (s.postFault x.dev x.dctx 2 1 0 0 va none).abandonColl id x
  else ({ s with colls := mins s.colls id { x with susp := some va } }).postFault x.dev x.dctx 2 0 0 0 va (some (.coll id))

/-- The first member whose first packet differs: CAUSE 5, or CAUSE 7 where its number has been passed over. -/
def collDiffers (d : DCtx) (x : Coll) : Option (Nat × Nat) :=
  (List.range x.peers.length).findSome? fun i =>
    if i = x.me then none
    else match mfind x.firsts i with
    | some f => if f = [x.k, x.n, x.chunk] then none else some (i, 5)
    | none =>
      let m := x.peers.getD i (0, 0)
      if d.flux.any fun p => p.src == m.1 && p.ssub == m.2 && seqAhead p.seq x.count &&
          (match p.flux with | .collFirst ch _ _ _ => ch == x.chan | _ => false) then some (i, 7) else none

/-- COLL_START (R259): once every member's first packet agrees, the source run is read and sent to the members. -/
def execCollStart (id : Nat) (s : State) : Host.Outcome State Fault Refusal :=
  match mfind s.colls id with
  | none => .next s
  | some y =>
    let s := s.refeed y.dev y.dctx
    match mfind s.colls id with
    | none => .next s
    | some x =>
      let again := s.sched 1 (.collStart id)
      let held : Bool := match x.h, x.acq with | some h, some (seq, sc) => !s.allAt h seq sc | _, _ => false
      if x.refused then .next (s.abandonColl id x)
      else if x.going ∨ x.susp.isSome then .next s
      else match collDiffers (s.dc x.dev x.dctx) x with
      | some (i, cause) => .next (s.collMismatch id x i cause)
      | none =>
        if held ∨ !((List.range x.g).all fun i => i == x.me || (mfind x.firsts i).isSome) then .next again
        else
          match s.granPlaces x.dev x.dctx x.src false (x.src.runGrans x.sorg (collSrc x.k x.n x.g)) with
          | .error (deny, va) => .next (s.collFault id x deny va)
          | .ok ps =>
            let (es, s) := s.readElems x.src.fmt ps
            let s := { s with colls := mins s.colls id { x with going := true, parts := mins x.parts x.me es } }
            let s := x.peers.zipIdx.foldl (fun s m =>
              if m.2 = x.me then s
              else s.send (fluxPkt s x.dev x.dctx m.1 x.count (.collPart x.chan) x.src.fmt es)) s
            .next (s.sched 1 (.chunkFinal id 0))

/-- An element of the destination run (R258). -/
def collElem (x : Coll) (key i : Nat) : Elem :=
  let part (m j : Nat) : Elem := ((mfind x.parts m).getD [])[j]?
  let at' (m : Nat) : Nat := ((part m (if x.k = 0 then i else x.me * x.n + i)).map (·.1)).getD 0
  if x.k = 0 ∨ x.k = 2 then
    some (memberSum x.src.fmt x.ord (Config.arrival key x.count (if x.k = 0 then i else x.me * x.n + i)) ((List.range x.g).map at'), 0)
  else if x.k = 1 then part (i / x.n) (i % x.n)
  else part (i / x.n) (x.me * x.n + i % x.n)

/-- The origin of a run moved along d0. -/
def moveD0 (o : List Nat) (n : Nat) : List Nat := o.set 0 (o.getD 0 0 + n)

/-- CHUNK_FINAL (R115, R118, R119, R260): a chunk is written, then its counter; after the last one cp drops. -/
def execChunkFinal (id j : Nat) (s : State) : Host.Outcome State Fault Refusal :=
  match mfind s.colls id with
  | none => .next s
  | some x =>
    let again (s : State) : State := s.sched 1 (.chunkFinal id j)
    let run := collDst x.k x.n x.g
    let lo := j * x.chunk
    let n := min x.chunk (run - lo)
    if x.refused then .next (s.abandonColl id x)
    else if !x.going ∨ x.susp.isSome then .next s
    else if !((List.range x.g).all fun i => (mfind x.parts i).isSome) then .next (again s)
    else
      match s.granPlaces x.dev x.dctx x.dst true (x.dst.runGrans (moveD0 x.dorg lo) n),
            s.granPlaces x.dev x.dctx x.ctr true (x.ctr.runGrans (moveD0 x.corg j) 1) with
      | .error (deny, va), _ => .next (s.collFault id x deny va)
      | _, .error (deny, va) => .next (s.collFault id x deny va)
      | .ok ps, .ok cs =>
        let key := groupKey x.peers x.dctx (2 ^ 19 + x.chan)
        let (ws, s1) := s.granWrites x.dst.fmt (x.k = 0 ∨ x.k = 2) ps ((List.range n).map fun i => collElem x key (lo + i))
        let (vs, s1) := s1.granWrites 11 false cs [some (x.count % 2 ^ 64, 0)]
        let (ok, s1) := s1.mirroredAll (ws ++ vs)
        if !ok then .next (again { s1 with clk := { s1.clk with frees := s.clk.frees } })
        else
          let s := s1.writeParts (ws ++ vs)
          if lo + n < run then
            .next (({ s with colls := mins s.colls id { x with final := j + 1 } }).sched 1 (.chunkFinal id (j + 1)))
          else
            let s := s.endColl id
            let s := match x.h with | some h => s.modCtx h Ctx.dropCp | none => s
            .next (match x.q with | some q => s.finEntry q 0 (x.count % 2 ^ 32) | none => s)

end Sys2Proof.Machine
end

