-- ==== Sys2Proof/Machine/Bellows.lean ====
section
/-! DEFINITION. The bellows (R296, R297, R300, R301, R309 to R318): entries taken, started, served and completed, and what the argument
block and the image of a launch have to hold. -/

namespace Sys2Proof.Machine

/-! Reading and writing for an entry (R311, R313): in the space of the queue's context, under its key. -/

/-- Words from bytes. -/
def wordsOf (bs : List Byte) : Nat → List Word
  | 0 => []
  | n + 1 => BitVec.ofNat 64 (ofBytes (bs.take 8)) :: wordsOf (bs.drop 8) n

/-- Words read; none where translation fails. -/
def State.bellRead (s : State) (dev c va n : Nat) : Option (List Word) × State :=
  match s.virtRead dev c va (s.dc dev c).key (8 * n) with
  | (some bs, s1) => (some (wordsOf bs n), s1)
  | (none, s1) => (none, s1)

/-- Bytes written, with the duplicates that R367 asks for: none where translation fails, else whether they have been
written. -/
def State.bellWrite (s : State) (dev c va : Nat) (bs : List Byte) : Option (Bool × State) :=
  match s.target { Pkt.zero with dsub := dev, ctx := c, key := (s.dc dev c).key, va := va } bs.length true with
  | none => none
  | some ps =>
    let l := layPlaces ps bs []
    let (ok, s1) := s.mirroredAll l
    some (ok, if ok then s1.writeParts l else s1)

/-! Taking, starting and completing (R310 to R313, R317). -/

/-- An entry due to start. -/
def State.startEntry (s : State) (q id : Nat) : State :=
  ({ s with bel := { s.bel with starts := s.bel.starts ++ [(q, id)] } }).schedOnce 0 .entryStart

/-- An entry that starts and is due to complete with a status. -/
def State.endEntry (s : State) (q id st info : Nat) : State := (s.startEntry q id).finEntry id st info

/-- The event of an entry type. -/
def entryEvent (ty : Nat) : Option Instr :=
  if ty = 0 then some .nop else if ty = 1 then some .create else if ty = 2 then some .destroy else if ty = 3 then some .launch
  else if ty = 4 then some .tlaunchEntry else if ty = 5 then some .coll else if ty = 6 then some .conv else if ty = 7 then some .signal
  else if ty = 8 then some .waitval else if ty = 9 then some .tinval else if ty = 10 then some .faultreply
  else if ty = 11 then some .tpreEntry else if ty = 12 then some .tresume else none

/-- ADDR of a queue. -/
def Queue.addr (q : Queue) : Nat := fld q.base 47 7 * 128

/-- A queue stopped on an error (R309, R310). -/
def Queue.stop (q : Queue) : Queue := { q with err := true, cfg := q.cfg &&& ~~~(1#64) }

/-- ENTRY_TAKE (R310, R317): the entry at HEAD of an enabled queue of the resident context or of the management context is
read and taken; assumption log 17. -/
def execEntryTake (q : Nat) (s : State) : Host.Outcome State Fault Refusal :=
  let k := s.queue q
  let dev := s.queueDev q
  let d := s.dc dev k.ctx
  if !k.en then .next s
  else if (k.tail + 2 ^ 32 - k.head) % 2 ^ 32 > 2 ^ k.size then .next (s.modQueue q Queue.stop)
  else if !d.live ∨ d.ending ∨ !k.takeable then .next s
  else if k.ctx ≠ 0 ∧ (s.resident dev ≠ some k.ctx ∨ (s.partOf dev).asked) then .next (s.schedOnce 1 .priorityPreempt)
  else
    match s.bellRead dev k.ctx (k.addr + 128 * (k.head % 2 ^ k.size)) 16 with
    | (none, s1) => .next ((s1.modQueue q Queue.stop).mgmtIrq)
    | (some ws, s1) =>
      let id := s1.clk.tick
      let e : QEnt := { id := id, pos := k.head, ws := ws, started := false, ctxs := [], checks := [], ends := [], clk := 0, since := none,
                        stage := 0, num := 0, fin := none }
      let s := s1.bump.modQueue q fun k => { k with head := (k.head + 1) % 2 ^ 32, ents := k.ents ++ [e] }
      .next (match entryEvent e.ty with
        | some ev => (if k.ctx = 0 ∧ e.needs then s.schedOnce 1 .priorityPreempt else s).schedOnce 0 ev
        | none => s.endEntry q id 1 0)

/-- ENTRY_START (R310, R313): the entries due to start have started, and their queues take the next ones. -/
def execEntryStart (s : State) : Host.Outcome State Fault Refusal :=
  let l := s.bel.starts
  .next (l.foldl (fun s x => ((s.modQueue x.1 fun k =>
    { k with ents := k.ents.map fun e => if e.id = x.2 then { e with started := true } else e }).armQuench x.1).schedOnce 1 (.entryTake x.1))
    { s with bel := { s.bel with starts := [] } })

/-- The members that take part in the task of an entry, by key: this device, or all members of a level-3 launch. -/
def State.party (s : State) (dev c : Nat) (e : QEnt) : List Nat :=
  if e.checks.isEmpty then [memberKey s.net.fpeer dev] else (s.dc dev c).members.map fun m => memberKey m.1 m.2

/-- STATUS and INFO of an entry all of whose tasks have ended (R319): the status of the lowest peer among those that ended
abnormally, and the largest final ccy. -/
def launchOutcome (ends : SMap (Nat × Word)) : Nat × Nat :=
  (((ends.find? fun x => x.2.1 != 0).map (·.2.1)).getD 0,
   (ends.foldl (fun a x => if x.2.2.toNat > a then x.2.2.toNat else a) 0) % 2 ^ 32)

/-- The launches whose tasks have all ended are due to complete. -/
def State.reviewEnds (s : State) : State :=
  s.bel.qs.foldl (fun s x => x.2.ents.foldl (fun s e =>
    let dev := s.queueDev x.1
    if (e.ty = 3 ∨ e.ty = 4) ∧ e.fin.isNone ∧ !e.ends.isEmpty ∧ ((s.party dev x.2.ctx e).all fun k => (mfind e.ends k).isSome) then
      let (st, info) := launchOutcome e.ends
      s.finEntry e.id st info
    else s) s) s

/-- The first queue of a device (R309). -/
def State.firstQueue (s : State) (dev : Nat) : Nat := if s.dieMode = 0 then 0 else if s.dieMode = 1 then 32 * dev else 8 * dev

/-- One entry completed: word 15 is written, the interrupt of R352 and R353 is sent, and the entry leaves its queue; or its
write is still held by R367. -/
def State.completeEntry (s : State) (q : Nat) (e : QEnt) : Bool × State :=
  let k := s.queue q
  let dev := s.queueDev q
  match e.fin with
  | none => (true, s)
  | some (st, info) =>
    let w := atBit 1 63 ||| atBit st 48 ||| atBit (info % 2 ^ 32) 0
    let (ok, s) := match s.bellWrite dev k.ctx (k.addr + 128 * (e.pos % 2 ^ k.size) + 120) (toBytes 8 w.toNat) with
      | some r => r
      | none => (true, s)
    if !ok then (false, s)
    else
      let s := s.modQueue q fun k => { k with ents := k.ents.filter fun x => x.id != e.id }
      let s := if bitOf (e.ws.getD 0 0) 0 then
          (List.range 8).foldl (fun s f =>
            if bitOf (s.fn f).irqen q then s.interrupt f (1 + q - s.firstQueue dev) else s) s
        else s
      (true, (s.schedOnce 1 (.entryTake q)).armQuench q)

/-- ENTRY_COMPLETE (R311, R312, R353): the entries whose status is known complete in that order. -/
def execEntryComplete (s : State) : Host.Outcome State Fault Refusal :=
  let s := s.reviewEnds
  let l := s.bel.dones
  let s := l.foldl (fun s x =>
    match (s.queue x.1).ents.find? fun e => e.id == x.2 with
    | none => s
    | some e =>
      let (ok, s) := s.completeEntry x.1 e
      if ok then s else { s with bel := { s.bel with dones := s.bel.dones ++ [x] } })
    { s with bel := { s.bel with dones := [] } }
  let s := if s.bel.dones.isEmpty then s else s.schedOnce 1 .entryComplete
  .next (s.schedOnce 1 .priorityPreempt)

/-! Serving the entries of a type (R310, R313, R317). -/

/-- The entries of a type taken and not started. -/
def State.waiting (s : State) (ty : Nat) : List (Nat × QEnt) :=
  s.bel.qs.flatMap fun x => (x.2.ents.filter fun e =>
    e.ty == ty && !e.started && e.fin.isNone && !s.bel.starts.contains (x.1, e.id)).map fun e => (x.1, e)

/-- The entries of a type that have started and not completed. -/
def State.running (s : State) (ty : Nat) : List (Nat × QEnt) :=
  s.bel.qs.flatMap fun x => (x.2.ents.filter fun e =>
    e.ty == ty && e.fin.isNone && (e.started || s.bel.starts.contains (x.1, e.id))).map fun e => (x.1, e)

/-- Whether every earlier entry of the queue has completed. -/
def State.alone (s : State) (q : Nat) (e : QEnt) : Bool := ((s.queue q).ents.head?.map (·.id)) == some e.id

/-- Whether an entry may start as far as its queue goes: its context is resident where it needs that, and WAITALL holds. -/
def State.mayStart (s : State) (q : Nat) (e : QEnt) : Bool :=
  let k := s.queue q
  let dev := s.queueDev q
  (s.dc dev k.ctx).live && !(s.dc dev k.ctx).ending && ((k.ctx == 0 && !e.needs) || (s.resident dev == some k.ctx && !(s.partOf dev).asked)) && (!bitOf (e.ws.getD 0 0) 1 || s.alone q e)

/-- The entry served next: the highest PRIO, then the lowest queue above the one served last (R317). -/
def State.nextServed (s : State) (l : List (Nat × QEnt)) : Option (Nat × QEnt) :=
  let rank (q : Nat) : Nat := (q + 127 - mget 63 s.bel.served (s.queueDev q)) % 64
  l.foldl (fun r x => match r with
    | none => some x
    | some y =>
      let p := (s.queue x.1).prio
      let p' := (s.queue y.1).prio
      if p > p' ∨ (p = p' ∧ rank x.1 < rank y.1) then some x else some y) none

/-- Whether the words 1 to 14 of an entry hold only what its type uses, and the header nothing reserved (R311, R313). -/
def wordsOk (e : QEnt) (use : List (Nat × Word)) : Bool :=
  fld (e.ws.getD 0 0) 55 2 == 0 &&
  (List.range 14).all fun k =>
    let m := ((use.find? fun x => x.1 == k + 1).map (·.2)).getD 0
    (e.ws.getD (k + 1) 0 &&& ~~~m) == 0

/-- All bits of a word, and its low bits. -/
def wAll : Word := 0xFFFFFFFFFFFFFFFF
def wLow (n : Nat) : Word := BitVec.ofNat 64 (2 ^ n - 1)

/-! What an argument block and an image hold (R15, R296, R300, R314). -/

/-- Whether a descriptor is well formed (R15). -/
def descOk (b : Desc) : Bool :=
  let s := b.strides
  let gr := cdiv (b.ext 0) (fmtPer b.fmt)
  b.valid && !bitOf b.w3 32 && fmtOk b.fmt && b.base % 64 == 0 &&
  ((List.range 4).all fun i => if i < b.rank then b.ext i ≥ 1 else b.ext i == 1) &&
  ((List.range 3).all fun i => i + 1 < b.rank || s.getD i 0 == 0) &&
  (b.rank < 2 || s.getD 0 0 ≥ gr) && (b.rank < 3 || s.getD 1 0 ≥ s.getD 0 0 * b.ext 1) && (b.rank < 4 || s.getD 2 0 ≥ s.getD 1 0 * b.ext 2) &&
  (b.place == 0 || b.level == 3) && ((b.key == 0 && !b.mirror) || b.level ≥ 2) && b.span.1 + b.span.2 ≤ 2 ^ 48

/-- The granules of a box on a device: every element, or for a system box those of the own shard (R18, R316). -/
def State.boxGrans (s : State) (dev c : Nat) (b : Desc) : List (Nat × Nat × Nat) :=
  let d := s.dc dev c
  b.winGrans (if b.level = 3 then shardExts d.msh d.mco b (s.entry dev c b).cur else b.exts)

/-- Whether a descriptor of level 2 or 3 is well formed on a device: as `descOk` asks, and within the mapped pages (R15, R18). -/
def State.boxOk (s : State) (dev c : Nat) (b : Desc) : Bool :=
  descOk b && (match s.granPlaces dev c b false (s.boxGrans dev c b) with | .error (denied, _) => denied | .ok _ => true)

/-- The argument block (R314): the sixteen descriptors and RELOC; none where translation fails. -/
def State.argsAt (s : State) (dev c va : Nat) : Option (List Desc × Word) × State :=
  match s.bellRead dev c va 65 with
  | (none, s) => (none, s)
  | (some ws, s) =>
    (some ((List.range 16).map fun n => { w0 := ws.getD (4 * n) 0, w1 := ws.getD (4 * n + 1) 0, w2 := ws.getD (4 * n + 2) 0,
                                          w3 := ws.getD (4 * n + 3) 0 }, ws.getD 64 0), s)

/-- A launch that has passed its checks: its level, task-table words, boxes, code section and channels. -/
structure LaunchInfo where
  lvl   : Nat
  tws   : List Word
  boxes : List Desc
  cbase : Word
  csize : Nat
  chan  : SMap Nat

/-- Whether an image's stamp suits the device context (R296, R297). -/
def stampOk (st hmr : Word) : Bool := fld st 63 48 == 1 && fld st 47 40 == 1 && (bitOf st 1 || bitOf st 0 == bitOf hmr 0)

/-- The declaration of a channel in a task-table entry (R300): FMT and columns minus 1, where declared. -/
def chanDecl (tws : List Word) (k : Nat) : Option (Nat × Nat) :=
  let x := fld (tws.getD (8 + k / 4) 0) (16 * (k % 4) + 15) (16 * (k % 4))
  if nfld x 15 15 = 1 then some (nfld x 14 10, nfld x 9 0) else none

/-- Whether the byte of CHAN for a channel name is as R314 asks. -/
def chanOk (d : DCtx) (tws : List Word) (ch : Word) (k : Nat) : Bool :=
  let b := fld ch (8 * k + 7) (8 * k)
  match chanDecl tws k with
  | none => b == 0
  | some (fmt, cols) =>
    let w0 := ((mfind d.chan (b % 64)).getD (0, 0)).1
    128 ≤ b && b < 192 && bitOf w0 63 && fld w0 14 10 == fmt && fld w0 9 0 == cols &&
    fld w0 60 55 + 1 ≥ fld (tws.getD 3 0) (7 * k + 6) (7 * k)

/-- A slot's descriptor with RELOC applied (R314). -/
def relocated (image : Word) (doff : Nat) (reloc : Word) (b : Desc) (n : Nat) : Desc :=
  if bitOf reloc n then { b with w0 := image + BitVec.ofNat 64 doff + b.w0 } else b

/-- Whether a slot is as R314 asks. -/
def State.slotOk (s : State) (dev c : Nat) (tws : List Word) (lvl : Nat) (raw b : Desc) (reloc : Word) (n : Nat) : Bool :=
  match boxDecl tws n with
  | none => raw == Desc.none && !bitOf reloc n
  | some (acc, rank, fmt) => s.boxOk dev c b && b.level == lvl && b.acc == acc && b.rank == rank && b.fmt == fmt

/-- The boxes of a launch that its start zeroes: out and scratch ones (R316). -/
def zeroed (l : List Desc) : List Desc := l.filter fun b => b.valid && (b.acc == 1 || b.acc == 3)

/-- The footprints of descriptors with MIRROR set that are not in the mirror table yet (R367). -/
def newMirrors (d : DCtx) (l : List Desc) : List (Nat × Nat) :=
  (((l.filter fun b => b.valid && b.mirror && b.level ≥ 2).map Desc.span).filter fun x => !d.mirror.contains x).eraseDups

/-- Whether the mirror table, of 64 footprints, takes those of descriptors; and they are registered (R367). -/
def DCtx.mirrorRoom (d : DCtx) (l : List Desc) : Bool := d.mirror.length + (newMirrors d l).length ≤ 64
def DCtx.register (d : DCtx) (l : List Desc) : DCtx := { d with mirror := d.mirror ++ newMirrors d l }

/-- The checks of R314, R316 and R367 on the words of a launch: what it names, or its STATUS. Reserved bits set in a task-table entry
(R300: words 0 to 3, the other bits of BOXn) or in the stamp (R296, bits 39:2) have to be 0 by R6, which names no fault for them: DESIGN
CHOICE, the launch ignores them; assumption log 119. -/
def State.launchInfo (s : State) (dev c : Nat) (ws : List Word) : Except Nat LaunchInfo × State :=
  let w (k : Nat) : Word := ws.getD k 0
  let d := s.dc dev c
  let img := (w 1).toNat
  match s.bellRead dev c img 5 with
  | (none, s) => (.error 8, s)
  | (some hd, s) =>
    let ent := fld (w 2) 15 0
    if hd.getD 0 0 ≠ 0x31495654 ∨ ent ≥ fld (hd.getD 2 0) 63 32 then (.error 1, s)
    else
      match s.bellRead dev c (img + fld (hd.getD 2 0) 31 0 + 336 * ent) 42 with
      | (none, s) => (.error 8, s)
      | (some tws, s) =>
        let lvl := fld (tws.getD 0 0) 1 0
        if lvl < 2 ∨ (w 3).toNat % 8 ≠ 0 then (.error 1, s)
        else
          match s.argsAt dev c (w 3).toNat with
          | (none, s) => (.error 8, s)
          | (some (raw, reloc), s) =>
            let bx := raw.zipIdx.map fun x => relocated (w 1) (fld (hd.getD 4 0) 31 0) reloc x.1 x.2
            let slots := (List.range 16).all fun n => s.slotOk dev c tws lvl (raw.getD n Desc.none) (bx.getD n Desc.none) reloc n
            if fld reloc 63 16 ≠ 0 ∨ !slots ∨ !stampOk (hd.getD 1 0) d.hmr ∨ !((List.range 8).all (chanOk d tws (w 5))) ∨
                (w 6 &&& ~~~(sregMask 0x020)) ≠ 0 ∨ !d.mirrorRoom bx then (.error 1, s)
            else if (zeroed bx).any fun b => (match s.granPlaces dev c b true (s.boxGrans dev c b) with
                | .error _ => true | .ok _ => false) then (.error 8, s)
            else
              let ch := (List.range 8).foldl (fun m k =>
                if (chanDecl tws k).isSome then mput 0 m k (fld (w 5) (8 * k + 5) (8 * k) + 1) else m) []
              (.ok { lvl := lvl, tws := tws, boxes := bx, cbase := w 1 + BitVec.ofNat 64 (fld (hd.getD 3 0) 31 0),
                     csize := fld (hd.getD 3 0) 63 32, chan := ch }, s)

/-- The die from which the search of a queue starts. -/
def Queue.nextDie (q : Queue) : Nat := match q.lastDie with | some d => d + 1 | none => 0

/-- Whether a child is to be placed in this cycle, before any level-2 task (R320). -/
def State.childDue (s : State) : Bool :=
  s.agenda.any fun x => x.1 ≤ s.clk.wall && (match x.2 with | .childStart _ _ => true | _ => false)

/-- The level of the task that a launch names, where the image can be read and has such a task (R300, R314). -/
def State.launchLevel (s : State) (dev c : Nat) (ws : List Word) : Option Nat × State :=
  let img := (ws.getD 1 0).toNat
  match s.bellRead dev c img 5 with
  | (none, s) => (none, s)
  | (some hd, s) =>
    let ent := fld (ws.getD 2 0) 15 0
    if hd.getD 0 0 ≠ 0x31495654 ∨ ent ≥ fld (hd.getD 2 0) 63 32 then (none, s)
    else
      match s.bellRead dev c (img + fld (hd.getD 2 0) 31 0 + 336 * ent) 1 with
      | (none, s) => (none, s)
      | (some tws, s) => (some (fld (tws.getD 0 0) 1 0), s)

/-- Whether a launch can be acted on: it is refused, its context can be reserved, or its messages have not gone out. -/
def State.launchReady (s : State) (q : Nat) (e : QEnt) : Bool :=
  if e.stage / 8 % 2 = 1 ∨ s.childDue then false
  else
    let dev := s.queueDev q
    let lv := (s.launchLevel dev (s.queue q).ctx e.ws).1
    match (s.launchInfo dev (s.queue q).ctx e.ws).1 with
    | .error _ => true
    | .ok _ => lv == some 3 || (s.placeTask dev (s.queue q).nextDie).isSome

/-- The words of a launch. -/
def launchUse (t : Word) : List (Nat × Word) :=
  [(1, wAll), (2, wLow 16), (3, wAll), (4, wAll), (5, wAll), (6, wAll), (7, t)]

/-! Which entry is served next (R310, R313, R317). -/

/-- The bits that a type uses of words 1 to 14 (R313). -/
def entryUse (ty : Nat) : List (Nat × Word) :=
  if ty = 1 then [(1, wAll), (2, wLow 4)] else if ty = 2 then [(2, wLow 4)] else if ty = 3 then launchUse 0 else if ty = 4 then launchUse wAll
  else if ty = 5 then [(2, wLow 10), (3, wAll), (5, wAll)] ++ (List.range 5).map fun k => (8 + k, wAll)
  else if ty = 6 then [(2, wLow 4), (3, wAll), (4, wAll)] else if ty = 7 then [(1, wAll), (2, wAll)]
  else if ty = 8 then [(1, wAll), (2, wAll), (3, wLow 3)] else if ty = 9 then [(1, wAll), (2, wAll), (3, wLow 4)]
  else if ty = 10 then [(1, wLow 32), (2, wLow 1), (3, wLow 4)] else if ty = 11 ∨ ty = 12 then [(1, wAll), (2, wLow 4)] else []

/-- The types that only a queue of the management context may carry (R313). -/
def entryMgmt (ty : Nat) : Bool := ty == 1 || ty == 2 || ty ≥ 9

/-- A WAITVAL that names no aligned address or no condition (R400). -/
def QEnt.waitBad (e : QEnt) : Bool := (e.ws.getD 1 0).toNat % 8 != 0 || fld (e.ws.getD 3 0) 2 0 ≥ 6

/-- Whether what the type of an entry asks for its start holds (R313). -/
def State.typeReady (s : State) (q : Nat) (e : QEnt) : Bool :=
  if e.ty = 3 ∨ e.ty = 4 then s.launchReady q e
  else if e.ty = 7 then s.alone q e
  else if e.ty = 8 then
    e.waitBad || (match (s.bellRead (s.queueDev q) (s.queue q).ctx (e.ws.getD 1 0).toNat 1).1 with
      | none => true
      | some ws => waitvCond (fld (e.ws.getD 3 0) 2 0) (ws.getD 0 0) (e.ws.getD 2 0))
  else true

/-- Whether an entry is ready to start: one that is refused is. -/
def State.ready (s : State) (q : Nat) (e : QEnt) : Bool :=
  s.mayStart q e && (!wordsOk e (entryUse e.ty) || s.typeReady q e)

/-- The entries taken and not started, of every type. -/
def State.allWaiting (s : State) : List (Nat × QEnt) := (List.range 13).flatMap s.waiting

/-- Whether an entry is the one that the bellows of its device serves next. -/
def State.first (s : State) (q : Nat) (e : QEnt) : Bool :=
  (s.nextServed (s.allWaiting.filter fun x => s.queueDev x.1 == s.queueDev q && s.ready x.1 x.2)) == some (q, e)

/-- One entry of a type served, where no entry of another type comes before it: refused with STATUS 2 where it is privileged and its
context is not 0, with STATUS 1 where a reserved bit is set, else acted on; the event comes again while entries wait. -/
def State.serve (s : State) (ty : Nat) (ev : Instr) (act : State → Nat → Nat → Nat → QEnt → State) : State :=
  let l := s.waiting ty
  if l.isEmpty then s
  else
    match l.find? fun x => s.first x.1 x.2 with
    | none => s.schedOnce 1 ev
    | some (q, e) =>
      let dev := s.queueDev q
      let c := (s.queue q).ctx
      let s := { s with bel := { s.bel with served := mput 63 s.bel.served dev q } }
      let s := if entryMgmt ty ∧ c ≠ 0 then s.endEntry q e.id 2 e.faultId
        else if !wordsOk e (entryUse ty) then s.endEntry q e.id 1 e.faultId
        else act s q dev c e
      if (s.waiting ty).isEmpty then s else s.schedOnce 1 ev

/-- What the started entries of a type wait for looked at; the event comes again while one waits. -/
def State.follow (s : State) (ty : Nat) (ev : Instr) (look : State → Nat → QEnt → State) : State :=
  let s := (s.running ty).foldl (fun s x => look s (s.queueDev x.1) x.2) s
  if (s.running ty).isEmpty then s else s.schedOnce 1 ev

end Sys2Proof.Machine
end

