-- ==== Sys2Proof/Machine/Entries.lean ====
section
/-! DEFINITION. The entries that launch no task (R313, R321, R322, R400): their meanings, and the creation and the end of device
contexts. -/

namespace Sys2Proof.Machine

/-! Entries without a unit of their own (R313). -/

/-- NOP (R313). -/
def execNop (s : State) : Host.Outcome State Fault Refusal :=
  .next (s.serve 0 .nop fun s q _ _ e => s.endEntry q e.id 0 0)

/-- SIGNAL (R313, R400): once every earlier entry has completed, the value is written. -/
def execSignal (s : State) : Host.Outcome State Fault Refusal :=
  .next (s.serve 7 .signal fun s q dev c e =>
    let va := (e.ws.getD 1 0).toNat
    if va % 8 ≠ 0 then s.endEntry q e.id 1 0
    else match s.bellWrite dev c va (toBytes 8 (e.ws.getD 2 0).toNat) with
      | none => s.endEntry q e.id 8 0
      | some (true, s) => s.endEntry q e.id 0 0
      | some (false, s) => s)

/-- WAITVAL (R313, R400): the value at an address meets the condition. -/
def execWaitval (s : State) : Host.Outcome State Fault Refusal :=
  .next (s.serve 8 .waitval fun s q dev c e =>
      if e.waitBad then s.endEntry q e.id 1 0
      else match s.bellRead dev c (e.ws.getD 1 0).toNat 1 with
        | (none, s) => s.endEntry q e.id 8 0
        | (some _, s) => s.endEntry q e.id 0 0)

/-! Translation invalidated (R69). -/

/-- Whether a piece of storage lies in a page that a cached translation names. -/
def State.inPage (s : State) (dev : Nat) (t : TlbEnt) (p : Place) : Bool :=
  match p with
  | .sp _ => false
  | .hbm a _ => (List.range (t.size / 2048)).any fun k => s.hbmAddr dev (fld t.ent 38 8 * 256 + 2048 * k) == a / 2048 * 2048

/-- Whether an access that is not yet performed reaches a place: one of a task of a device context, a posted write of the host, or an
atomic at a crucible. -/
def State.accessIn (s : State) (dev c : Nat) (f : Place → Bool) : Bool :=
  ((s.ctxsOf dev c).any fun x => (x.q.lq ++ x.stores).any fun a => a.ps.any fun p => !p.done && f p.pl) ||
  (s.host.fns.any fun x => x.2.posted.any fun p => p.ps.any fun y => f y.2.pl) ||
  s.clus.any fun x => x.2.crq.any fun y => y.2.any fun q => f q.pl

/-- Translations dropped from every cache: those of the clusters and those of the ordering points (R68, R355). -/
def State.dropLeaves (s : State) (hit : TlbEnt → Bool) : State :=
  { s with clus := s.clus.map fun x => (x.1, { x.2 with tlb := x.2.tlb.filter fun t => !hit t, old := x.2.old.filter fun t => !hit t }),
           host := { s.host with apTlb := s.host.apTlb.map fun x => (x.1, x.2.filter fun t => !hit t) } }

/-- TINVAL (R69, R313, R400): complete once every access that used a translation in the range has performed and every cache
of the device has dropped it. -/
def execTinval (s : State) : Host.Outcome State Fault Refusal :=
  let s := s.serve 9 .tinval fun s q dev _ e =>
    let c := fld (e.ws.getD 3 0) 3 0
    if c = 0 ∨ !(s.dc dev c).live then s.endEntry q e.id 1 0 else s.startEntry q e.id
  .next (s.follow 9 .tinval fun s dev e =>
    let lo := (e.ws.getD 1 0).toNat
    let c := fld (e.ws.getD 3 0) 3 0
    let hit (t : TlbEnt) : Bool := t.dev == dev && t.dctx == c && t.va < lo + (e.ws.getD 2 0).toNat && lo < t.va + t.size
    let ents := (s.clus.flatMap fun x => (x.2.tlb ++ x.2.old).filter hit) ++ s.host.apTlb.flatMap fun x => x.2.filter hit
    if s.accessIn dev c fun p => ents.any fun t => s.inPage dev t p then s
    else (s.dropLeaves hit).finEntry e.id 0 0)

/-! Replies to faults (R97, R112, R313, R400). -/

/-- An event of a device context set going: at once, or when its image comes back. -/
def State.wakeIn (s : State) (dev c : Nat) (ev : Instr) : State :=
  if s.resident dev = some c then s.sched 0 ev
  else
    let k := dev * 16 + c
    match mfind s.images k with
    | some i => { s with images := mins s.images k { i with evs := i.evs ++ [(0, ev)] } }
    | none => s

/-- An engine command of a device context, live or in its image. -/
def State.cmdIn (s : State) (dev c id : Nat) : Option Cmd :=
  if s.resident dev = some c then mfind s.cmds id
  else (mfind s.images (dev * 16 + c)).bind fun i => mfind i.cmds id
def State.setCmdIn (s : State) (dev c id : Nat) (x : Cmd) : State :=
  if s.resident dev = some c then { s with cmds := mins s.cmds id x }
  else
    let k := dev * 16 + c
    match mfind s.images k with
    | some i => { s with images := mins s.images k { i with cmds := mins i.cmds id x } }
    | none => s

/-- A suspended copy, conversion or collective resumed or abandoned; none where it is no longer suspended. -/
def State.reply (s : State) (dev c : Nat) (resume : Bool) (x : Susp) : Option State :=
  let anyCtx := (s.diesOf dev).headD 0 * 2560
  match x with
  | .cmd id =>
    (s.cmdIn dev c id).bind fun k =>
      if k.susp.isNone then none
      else some ((s.setCmdIn dev c id { k with susp := none, deny := !resume }).wakeIn dev c
        (if resume then .memoryAccessPerform anyCtx id 0 else .copyFault id))
  | .conv pl =>
    ((mfind (s.dc dev c).place pl).bind (·.conv)).bind fun k =>
      if k.susp.isNone then none
      else some ((s.modConv dev c pl fun k => { k with susp := none, refused := !resume }).wakeIn dev c
        (if k.going then .conversionComplete dev c pl else .conversionStart dev c pl))
  | .coll id =>
    (mfind s.colls id).bind fun k =>
      if k.susp.isNone then none
      else some (({ s with colls := mins s.colls id { k with susp := none, refused := !resume } }).wakeIn dev c
        (if k.going then .chunkFinal id k.final else .collStart id))

/-- FAULTREPLY (R97, R112, R313, R400). -/
def execFaultreply (s : State) : Host.Outcome State Fault Refusal :=
  .next (s.serve 10 .faultreply fun s q dev _ e =>
    let c := fld (e.ws.getD 3 0) 3 0
    let fid := e.faultId
    let d := s.dc dev c
    if c = 0 ∨ !d.live then s.endEntry q e.id 1 fid
    else match (mfind d.susp fid).bind fun x => s.reply dev c (bitOf (e.ws.getD 2 0) 0) x with
      | none => s.endEntry q e.id 1 fid
      | some s => (s.modDc dev c fun d => { d with susp := mdel d.susp fid }).endEntry q e.id 0 fid)

/-! Timed entries (R313, R328, R400). -/

/-- A timed pre-emption or resumption asked for by an entry. -/
def State.timedEntry (s : State) (ty : Nat) (ev : Instr) (kind : Nat) (whole : DCtx → Timed → Bool) : State :=
  let s := s.serve ty ev fun s q dev _ e =>
    let c := fld (e.ws.getD 2 0) 3 0
    if c = 0 ∨ !(s.dc dev c).live then s.endEntry q e.id 1 0
    else (s.armSpan dev c { Timed.new kind (e.ws.getD 1 0) ((s.dc dev c).evnum + 1) with qent := some e.id }).startEntry q e.id
  s.follow ty ev fun s dev e =>
    let d := s.dc dev (fld (e.ws.getD 2 0) 3 0)
    match d.timed.find? fun t => t.qent == some e.id with
    | some t => if whole d t then s.finEntry e.id 0 0 else s
    | none => s

/-- TPRE (R313): complete once every member has halted and swapped. -/
def execTpreEntry (s : State) : Host.Outcome State Fault Refusal := .next (s.timedEntry 11 .tpreEntry 2 DCtx.allDone)
/-- TRESUME (R313): complete once every member has resumed. -/
def execTresume (s : State) : Host.Outcome State Fault Refusal := .next (s.timedEntry 12 .tresume 4 DCtx.allAcked)

/-! Creation (R321, R322). -/

/-- Sizes of the axes that a creation record declares, an undeclared axis having size 1; none where R100 is broken. -/
def recordSizes (w0 : Word) (nax : Nat) : Option (List Nat) :=
  let f (a : Nat) : Nat := fld w0 (11 * a + 10) (11 * a)
  if nax = 0 then none
  else if (List.range 3).all fun a => if a < nax then 1 ≤ f a && f a ≤ 1058 else f a ≤ 1 then
    some ((List.range 3).map fun a => if a < nax then f a else 1)
  else none

/-- Whether the top table of a device context holds a valid entry that is malformed. -/
def State.topBad (s : State) (dev ptb : Nat) : Bool :=
  (List.range 512).any fun k =>
    let e := s.pteAt dev (ptb + 8 * k)
    bitOf e 0 && pteBad e 3 4096 s.physSpace

/-- The coordinate word of a number in group-index order over all axes. -/
def coordOf (n : List Nat) (i : Nat) : Word :=
  meshWord (i / n.getD 2 1 / n.getD 1 1) (i / n.getD 2 1 % n.getD 1 1) (i % n.getD 2 1)

/-- Whether the creation record is refused before its mesh table is read (R322). -/
def State.recordBad (s : State) (dev new : Nat) (ws : List Word) : Bool :=
  let w0 := ws.getD 0 0
  let w1 := ws.getD 1 0
  let key := fld w0 55 48
  let dm := fld w0 41 40
  let ptb := (ws.getD 2 0).toNat
  let others := s.dctx.any fun x => x.1 % 16 != 0 && x.2.live
  new == 0 || (s.dc dev new).live || key == 0 || (mfind s.keys key).isNone || (dm != s.dieMode && others) || dm == 3 ||
  fld w0 39 36 == 0 || fld w1 35 34 == 0 || ptb % 4096 != 0 || ptb + 4096 > s.physSpace || s.topBad dev ptb ||
  !s.peerUp (fld w1 63 53) || !s.peerUp (fld w1 52 42)

/-- Whether the record has a reserved bit set. -/
def recordReserved (ws : List Word) : Bool :=
  let w0 := ws.getD 0 0
  let w1 := ws.getD 1 0
  fld w0 63 56 != 0 || fld w0 47 42 != 0 || fld w1 41 36 != 0 || fld w1 33 0 != 0 || (ws.drop 6).any (· != 0)

/-- The word of FCTL in a die mode (R349, R351): which device a function serves. -/
def fctlOf (mode f : Nat) (mgt : Bool) : Word :=
  let dev : Option Nat := if mode = 2 then some f else if f % 4 ≠ 0 then none else some (if mode = 0 then 0 else f / 4)
  (if mgt then atBit 1 7 else 0) ||| (match dev with | some d => atBit 1 3 ||| atBit d 0 | none => 0)

/-- The bits of IRQEN that a function has: those of its device's queues (R352). -/
def State.irqMask (s : State) (f : Nat) : Word :=
  let w := (s.fn f).fctl
  (List.range 64).foldl (fun m q => if bitOf w 3 ∧ fld w 2 0 = s.queueDev q then m ||| atBit 1 q else m) 0

/-- The die mode set: the functions serve its devices, with their queues' interrupts, and a device that it newly presents has its context
0; one that it no longer presents is gone (R308, R346, R349, R352). -/
def State.setMode (s : State) (m : Nat) : State :=
  let s := { s with dieMode := m }
  let s := (List.range 8).foldl (fun s f => s.modFn f fun x => { x with fctl := fctlOf m f (bitOf x.fctl 7) }) s
  let s := (List.range 8).foldl (fun s f => s.modFn f fun x => { x with irqen := x.irqen &&& s.irqMask f }) s
  let s := { s with dctx := s.dctx.filter fun x => s.devices.contains (x.1 / 16), res := s.res.filter fun x => s.devices.contains x.1 }
  s.devices.foldl (fun s d => if (s.dc d 0).live then s else s.newMgmt d) s

/-- The registers of a context number that no creation or end writes (R370, R377). -/
def DCtx.keepRegs (d old : DCtx) : DCtx := { d with ckcfg := old.ckcfg, ckNext := old.ckNext, drcfg := old.drcfg }

/-- A context created (R63, R108, R322). -/
def State.createDc (s : State) (dev new : Nat) (ws : List Word) (n : List Nat) (mesh : List Nat) (me : Nat) : State :=
  let w0 := ws.getD 0 0
  let w1 := ws.getD 1 0
  let d : DCtx := { DCtx.zero with
    live := true, key := fld w0 55 48, psplit := 16384 * fld w0 39 36, hmr := atBit (fld w0 35 34) 0,
    msh := meshWord (n.getD 0 1) (n.getD 1 1) (n.getD 2 1) ||| atBit (fld w1 35 34) 34, mco := coordOf n me,
    ptb := ws.getD 2 0, mtab := mputs 0 [] 0 mesh, dmode := fld w0 41 40, spol := fld w0 33 33, coord := fld w1 63 53,
    buddy := fld w1 52 42, fq := ws.getD 4 0, tlog := ws.getD 5 0 }.keepRegs (s.dc dev new)
  let s := if s.dieMode = d.dmode then s else s.setMode d.dmode
  let s := { (s.setDc dev new d) with images := mins s.images (dev * 16 + new) Image.zero }
  let s := (s.queuesOf dev new).foldl (fun s x => s.schedOnce 1 (.entryTake x.1)) s
  if mesh.length > 1 then s.sched (nsCycles ns100) (.heartbeatSend dev new) else s

/-- CREATE (R321, R322). -/
def execCreate (s : State) : Host.Outcome State Fault Refusal :=
  .next (s.serve 1 .create fun s q dev _ e =>
    let done (s : State) (st : Nat) : State := s.endEntry q e.id st 0
    let new := fld (e.ws.getD 2 0) 3 0
    match s.bellRead dev 0 (e.ws.getD 1 0).toNat 16 with
    | (none, s) => done s 8
    | (some ws, s) =>
      if recordReserved ws then done s 1
      else if s.recordBad dev new ws then done s 7
      else
        match recordSizes (ws.getD 0 0) (fld (ws.getD 1 0) 35 34) with
        | none => done s 7
        | some n =>
          let cnt := n.foldl (· * ·) 1
          if cnt > 2 ^ 14 then done s 7
          else
            match s.virtRead dev 0 (ws.getD 3 0).toNat 0 (2 * cnt) with
            | (none, s) => done s 8
            | (some bs, s) =>
              let mesh := (chunksOf 2 bs (cnt + 1)).map ofBytes
              let me := mesh.findIdx (· == dev * 2048 + s.net.fpeer)
              if mesh.any (fun x => x ≥ 2 ^ 14) ∨ twice mesh ∨ me ≥ mesh.length then done s 7
              else done (s.createDc dev new ws n mesh me) 0)

/-- The aperture windows of a context closed (R354). -/
def closeWindows (m : SMap Word) (c : Nat) : SMap Word :=
  m.map fun y => if (y.1 % 2 == 1) && (fld y.2 39 36 == c) then (y.1, y.2 &&& ~~~(1#64)) else y

/-- The end of a device context asked for (R400, steps 1 to 5). -/
def State.destroyDc (s : State) (dev c : Nat) : State :=
  let l := s.ctxsOf dev c
  let live := s.resident dev == some c
  let s := (s.stopFlux dev c).endTasks dev c 2
  let ends (e : QEnt) : Bool := live && e.started && l.any fun x => x.task.any fun t => t.queue == some e.id && t.lvl == 2
  let s := s.modQueues dev c fun k =>
    { k with ents := k.ents.map fun e => if e.fin.isNone ∧ !ends e then { e with fin := some (4, e.info l) } else e }
  let l := (s.queuesOf dev c).flatMap fun (x : Nat × Queue) => x.2.ents.map fun (e : QEnt) => (x.1, e.id)
  let s := ({ s with bel := { s.bel with dones := s.bel.dones ++ l } }).schedOnce 1 .entryComplete
  let s := (List.range 8).foldl (fun s f =>
    if fld (s.fn f).fctl 3 3 = 1 ∧ fld (s.fn f).fctl 2 0 = dev then
      s.modFn f fun x => { x with apw := closeWindows x.apw c }
    else s) s
  { s with ckpts := mdel s.ckpts (dev * 16 + c) }

/-- The fence counters and sequence numbers of a device context gone with it (R143). -/
def State.dropPairs (s : State) (dev c : Nat) : State :=
  { s with net := { s.net with eg := s.net.eg.filter fun x => x.1 / 16384 != dev * 16 + c,
                               ing := s.net.ing.filter fun x => x.1 / 16384 != dev * 16 + c } }

/-- DESTROY (R313, R400): complete once the tasks have ended and their entries have completed. -/
def execDestroy (s : State) : Host.Outcome State Fault Refusal :=
  let s := s.serve 2 .destroy fun s q dev _ e =>
    let c := fld (e.ws.getD 2 0) 3 0
    if c = 0 ∨ !(s.dc dev c).live then s.endEntry q e.id 1 0 else ((s.destroyDc dev c).modDc dev c fun d => { d with ending := true }).startEntry q e.id
  .next (s.follow 2 .destroy fun s dev e =>
    let c := fld (e.ws.getD 2 0) 3 0
    let stay := (s.resident dev == some c && s.hw.any fun x => s.devOf x.1 == dev && x.2.task.isSome) ||
      (s.queuesOf dev c).any fun x => !x.2.ents.isEmpty
    if stay then s
    else
      let s := (s.unhold dev c).dropPairs dev c
      let s := s.dropLeaves fun t => t.dev == dev && t.dctx == c
      let s := if s.resident dev = some c then s.vacate dev else s
      ({ (s.setDc dev c (DCtx.zero.keepRegs (s.dc dev c))) with images := mdel s.images (dev * 16 + c) }).finEntry e.id 0 0)

/-! Collectives and conversions of a queue (R258, R313, R314). -/

/-- A context that stands for the device in the checks of an entry: the descriptors of its argument block. -/
def argsCtx (dev c : Nat) (l : List Desc) : Ctx :=
  { Ctx.zero with
    bx := l.zipIdx.foldl (fun m x => mput Desc.none m x.2 x.1) [],
    task := some { dev := dev, dctx := c, lvl := 3, cbase := 0, csize := 0, key := 0, image := 0, parent := none, queue := none,
                   lead := 0, gang := none, chan := [], occ := [] } }

/-- The STATUS of a check that fails: an operand is a descriptor error, a translation failure 8, any other fault 6 (R313);
assumption log 20. -/
def badStatus (b : Bad) : Nat := if b.1 = 3 then 1 else if b.1 = 0x0C then 8 else 6

/-- The byte of CHAN for a channel name, where it binds one and the other bytes are 0. -/
def chanByte (w : Word) (n : Nat) : Option Nat :=
  let b := fld w (8 * n + 7) (8 * n)
  if b ≥ 128 ∧ b < 192 ∧ w = atBit b (8 * n) then some (b - 128) else none

/-- The checks of a collective's runs (R258): windows, access, alignment, conversions in progress, and translation. -/
def State.collRunsBad (s : State) (x : Coll) (c : Ctx) (w0 : Word) : Option Nat :=
  (collRuns x w0).findSome? fun (sl, o, e, wr) =>
    let b := c.box sl
    match slotWindow s c sl none o e !wr with
    | .error r => some (badStatus r)
    | .ok _ =>
      if !s.boxOk x.dev x.dctx b ∨ b.level < 2 then some 1
      else if wr ∧ b.acc = 0 ∨ !slotAligned s c sl none o e !wr ∨ (wr ∧ b.level = 3 ∧ (s.entry x.dev x.dctx b).cip) then some 6
      else match s.granPlaces x.dev x.dctx b wr (b.runGrans o (e.getD 0 0)) with
        | .error _ => some 8
        | .ok _ => none

/-- The sequence number that an entry has taken. -/
def State.numbered (s : State) (q id n : Nat) : State :=
  s.modQueue q fun k => { k with ents := k.ents.map fun e => if e.id = id then { e with num := n } else e }

/-- The number of the conversion in progress on a tensor. -/
def State.convSeq (s : State) (dev c : Nat) (b : Desc) : Nat :=
  ((mfind (s.dc dev c).place b.place).bind fun e => e.conv.map (·.seq)).getD 0

/-- COLL (R258, R259, R313, R314): the collective takes its number when the entry starts. -/
def execColl (s : State) : Host.Outcome State Fault Refusal :=
  .next (s.serve 5 .coll fun s q dev c e =>
    let w (k : Nat) : Word := e.ws.getD (8 + k) 0
    let fl := e.ws.getD 2 0
    let flOk := (!bitOf fl 0 || fld fl 3 1 ≤ 4) && (!bitOf fl 4 || fld fl 7 5 ≤ 4)
    let args := (e.ws.getD 3 0).toNat
    if !flOk ∨ args % 8 ≠ 0 then s.endEntry q e.id 1 0
    else
      match s.argsAt dev c args with
      | (none, s) => s.endEntry q e.id 8 0
      | (some (l, reloc), s) =>
        let cx := argsCtx dev c l
        match chanByte (e.ws.getD 5 0) (fld (w 0) 2 0) with
        | none => s.endEntry q e.id 1 0
        | some ch =>
          if reloc ≠ 0 ∨ !(s.dc dev c).mirrorRoom l then s.endEntry q e.id 1 0
          else
            match collOf s dev c cx.box (fld fl 9 8) w ch with
            | .error r => s.endEntry q e.id (badStatus r) 0
            | .ok x =>
              match s.collRunsBad x cx (w 0) with
              | some st => s.endEntry q e.id st 0
              | none => (((s.modDc dev c fun d => d.register l).startColl { x with q := some e.id }).numbered q e.id (x.count % 2 ^ 32)).startEntry q e.id)

/-- CONV (R110 to R113, R313, R314): an `ldp` without a load. -/
def execConv (s : State) : Host.Outcome State Fault Refusal :=
  .next (s.serve 6 .conv fun s q dev c e =>
    let args := (e.ws.getD 3 0).toNat
    let dem := e.ws.getD 4 0
    if args % 8 ≠ 0 then s.endEntry q e.id 1 0
    else
      match s.argsAt dev c args with
      | (none, s) => s.endEntry q e.id 8 0
      | (some (l, reloc), s) =>
        let b := l.getD (fld (e.ws.getD 2 0) 3 0) Desc.none
        if reloc ≠ 0 ∨ !s.boxOk dev c b ∨ !(s.dc dev c).mirrorRoom l then s.endEntry q e.id 1 0
        else
          let p := s.entry dev c b
          match demandCheck (s.dc dev c).msh b p dem true with
          | .error r => s.endEntry q e.id (badStatus r) 0
          | .ok full =>
            if full = p.cur ∧ !p.cip then s.draw.endEntry q e.id 0 ((Config.freeWord s.clk.frees).toNat % 2 ^ 32)
            else if !s.membersUp (s.dc dev c) p (fld dem 14 12) full then s.endEntry q e.id 6 0
            else
              let s := (s.modDc dev c fun d => d.register l).demand dev c b (fld dem 14 12) full (.entry e.id)
              (s.numbered q e.id (s.convSeq dev c b)).startEntry q e.id)

end Sys2Proof.Machine
end

