-- ==== Sys2Proof/Machine/Launch.lean ====
section
/-! DEFINITION. Launches (R297, R300, R301, R313 to R319, R328, R367): the checks of an image and its arguments, the contexts
reserved, the members of a span, and the start of tasks. -/

namespace Sys2Proof.Machine

/-! Contexts reserved (R318). -/

/-- The timestamp of a TLAUNCH. -/
def launchAt (ws : List Word) : Option Word := if fld (ws.getD 0 0) 63 56 = 4 then some (ws.getD 7 0) else none

/-- A context reserved for a task, with the mirrored footprints registered: one without a timestamp, or whose event has
come about before, starts at once. -/
def State.reserve (s : State) (h dev c ent lead : Nat) (ws : List Word) (boxes : List Desc) : State :=
  let t := launchAt ws
  let s := s.modDc dev c fun d => d.register boxes
  let r : Resv := { ent := ent, lead := lead, dev := dev, dctx := c, ws := ws, at' := t }
  let s := { s with bel := { s.bel with launch := mins s.bel.launch h r } }
  let now := match t with
    | none => true
    | some x => (s.dc dev c).timed.any fun e => e.kind == 1 && e.t == x && e.done && e.ent.isNone
  if now then ({ s with bel := { s.bel with tasks := s.bel.tasks ++ [h] } }).schedOnce 0 .taskStart else s

/-- The die from which a member searches for a launch of another member's queue, and the die remembered (R318, R319). -/
def State.peerDie (s : State) (p : Pkt) (queue : Nat) (first : Bool) : Nat :=
  match mfind s.bel.placed (memberKey p.src p.ssub * 64 + queue) with
  | some d => if first then 0 else d + 1
  | none => 0
def State.usedDie (s : State) (p : Pkt) (queue h : Nat) : State :=
  { s with bel := { s.bel with placed := mins s.bel.placed (memberKey p.src p.ssub * 64 + queue) (dieOf h) } }

/-- A context reserved by an entry of a queue of this device. -/
def State.reserveFor (s : State) (q h : Nat) (ent : Nat) : State :=
  s.modQueue q fun k =>
    { k with lastDie := some (dieOf h), ents := k.ents.map fun e => if e.id = ent then { e with ctxs := e.ctxs ++ [h] } else e }

/-- The launch messages of an entry to all members (R319). -/
def State.sendLaunch (s : State) (q dev c go : Nat) (e : QEnt) : State :=
  (s.dc dev c).members.foldl (fun s m => s.tell dev c 256 m (.launch go e.id q (s.queue q).prio (s.queue q).lastDie.isNone e.ws)) s

/-- A launch acted on (R313, R318, R319). -/
def State.launch (s : State) (q dev c : Nat) (e : QEnt) : State :=
  let (lv, s) := s.launchLevel dev c e.ws
  if lv = some 3 then
    (s.modQueue q fun k => { k with ents := k.ents.map fun x => if x.id = e.id then { x with stage := x.stage + 8 } else x }).sendLaunch
      q dev c 0 e
  else
    match s.launchInfo dev c e.ws with
    | (.error st, s) => s.endEntry q e.id st 0
    | (.ok i, s) =>
      match s.placeTask dev (s.queue q).nextDie with
      | none => s
      | some h =>
        let s := ((s.reserve h dev c e.id 0 e.ws i.boxes).reserveFor q h e.id).startEntry q e.id
        match launchAt e.ws with
        | some t => s.armTimed dev c { Timed.new 1 t ((s.dc dev c).evnum + 1) with qent := some e.id, strag := 3 }
        | none => s

/-- LAUNCH (R313, R314). -/
def execLaunch (s : State) : Host.Outcome State Fault Refusal :=
  .next (s.serve 3 .launch State.launch)

/-- TLAUNCH as a queue entry (R313, R318). -/
def execTlaunchEntry (s : State) : Host.Outcome State Fault Refusal :=
  .next (s.serve 4 .tlaunchEntry State.launch)

/-- LAUNCH_MESSAGE (R319): a member makes the checks and reports, or reserves its context and reports. -/
def execLaunchMessage (p : Pkt) (s : State) : Host.Outcome State Fault Refusal :=
  let (ok, s) := s.takenIn p
  let dev := p.dsub
  let c := p.ctx
  let report (s : State) (ent kind st : Nat) : State := s.tell dev c 257 (p.src, p.ssub) (.report ent kind st 0)
  match ok, p.flux with
  | true, .launch go ent queue _ first ws =>
    if !(s.dc dev c).live then .next (if go = 0 then report s ent 0 8 else s)
    else if go = 0 then
      match s.launchInfo dev c ws with
      | (.error st, s) => .next (report s ent 0 st)
      | (.ok _, s) => .next (report s ent 0 0)
    else
      let own := p.src == s.net.fpeer && p.ssub == dev
      let q := (s.bel.qs.find? fun x => x.2.ents.any fun e => e.id == ent).map (·.1)
      let q := if own then q else none
      let from' := match q with | some q => (s.queue q).nextDie | none => s.peerDie p queue first
      match s.launchInfo dev c ws, (if s.resident dev = some c ∧ !(s.partOf dev).asked then s.placeTask dev from' else none) with
      | (.ok i, s), some h =>
        let s := s.reserve h dev c ent (if own then 0 else memberKey p.src p.ssub + 1) ws i.boxes
        let s := match q with | some q => s.reserveFor q h ent | none => if own then s else s.usedDie p queue h
        .next (report s ent 2 0)
      | _, _ => .next ((s.sched 1 (.launchMessage p)).schedOnce 1 .priorityPreempt)
  | _, _ => .next s

/-- What the reports on an entry have come to (R319): every member's checks, then every member's reservation. -/
def State.reviewLaunch (s : State) (q : Nat) (e : QEnt) : State :=
  let dev := s.queueDev q
  let c := (s.queue q).ctx
  let l := (s.dc dev c).members.map fun m => mfind e.checks (memberKey m.1 m.2)
  if e.started ∨ e.fin.isSome ∨ s.bel.starts.contains (q, e.id) ∨ l.any Option.isNone then s
  else
    match e.checks.find? fun x => x.2 != 0 && x.2 != 256 with
    | some (_, st) => s.endEntry q e.id st 0
    | none =>
      if e.checks.all fun x => x.2 == 256 then s.startEntry q e.id
      else if e.stage / 16 % 2 = 1 then s
      else
        let s := s.modQueue q fun k => { k with ents := k.ents.map fun x => if x.id = e.id then { x with stage := x.stage + 16 } else x }
        let s := s.sendLaunch q dev c 1 e
        match launchAt e.ws with
        | some t => s.armSpan dev c { Timed.new 1 t ((s.dc dev c).evnum + 1) with qent := some e.id }
        | none => s

/-- MEMBER_REPORT (R319): a member reports on its checks, its reservation, or the end of its task. -/
def execMemberReport (p : Pkt) (s : State) : Host.Outcome State Fault Refusal :=
  let (ok, s) := s.takenIn p
  match ok, p.flux with
  | true, .report ent kind st ccy =>
    let s := s.entryReport ent (memberKey p.src p.ssub) kind st ccy
    if kind = 1 then .next (s.schedOnce 0 .entryComplete)
    else
      .next (match s.bel.qs.findSome? fun x => (x.2.ents.find? fun e => e.id == ent).map fun e => (x.1, e) with
        | some (q, e) => s.reviewLaunch q e
        | none => s)
  | _, _ => .next s

/-! The start of a task (R315, R316). -/

/-- The writes that zero a box, with tags 0 (R316). -/
def State.zeroWrites (s : State) (dev c : Nat) (b : Desc) : Option (List (Place × List Byte × Option Tag)) :=
  match s.granPlaces dev c b true (s.boxGrans dev c b) with
  | .error _ => none
  | .ok ps => some (ps.map fun (p, _, n) => (p, List.replicate (if n = fmtPer b.fmt then 64 else cdiv (n * fmtBits b.fmt) 8) 0, some 0))

/-- A reservation given up or used. -/
def State.dropResv (s : State) (h : Nat) : State :=
  { s with bel := { s.bel with launch := mdel s.bel.launch h, tasks := s.bel.tasks.filter (· != h) } }

/-- The task of a reserved context that cannot start, reported with STATUS 8. -/
def State.failStart (s : State) (h : Nat) (r : Resv) (st : Nat) : State :=
  let s := s.dropResv h
  if r.lead = 0 then (s.entryReport r.ent (memberKey s.net.fpeer r.dev) 1 st 0).schedOnce 1 .entryComplete
  else s.send { Pkt.zero with ty := 257, src := s.net.fpeer, ssub := r.dev, dst := (r.lead - 1) / 8, dsub := (r.lead - 1) % 8,
                              ctx := r.dctx, flux := .report r.ent 1 st 0 }

/-- The send ends that a task is the first to bind start with the credits of the receive end, DEPTH + 1 (R341). -/
def DCtx.startEnds (d : DCtx) (chan : SMap Nat) : DCtx :=
  chan.foldl (fun d x =>
    let e := x.2 - 1
    if mget false d.chnew e then
      let w0 := ((mfind d.chan e).getD (0, 0)).1
      { d with chan := mins d.chan e (w0, atBit (fld w0 60 55 + 1) 16), chnew := mput false d.chnew e false }
    else d) d

/-- The task of a reserved context started: its boxes zeroed, its registers at their start (R12, R315). -/
def State.startTask (s : State) (h : Nat) (r : Resv) : State :=
  match s.launchInfo r.dev r.dctx r.ws with
  | (.error st, s) => s.failStart h r st
  | (.ok i, s) =>
    let ws := (zeroed i.boxes).map (s.zeroWrites r.dev r.dctx)
    if ws.any Option.isNone then s.failStart h r 8
    else
      let l := (ws.filterMap id).flatten
      let (ok, s) := s.mirroredAll l
      if !ok then s
      else
        let s := s.writeParts l
        let w (k : Nat) : Word := r.ws.getD k 0
        let t : Task := { dev := r.dev, dctx := r.dctx, lvl := i.lvl, cbase := i.cbase, csize := i.csize,
                          key := (s.dc r.dev r.dctx).key, image := w 1, parent := none, queue := some r.ent, lead := r.lead,
                          gang := none, chan := i.chan, occ := startOcc i.tws }
        let boxes := i.boxes.zipIdx.foldl (fun m x => mput Desc.none m x.2 x.1) []
        ((s.dropResv h).modDc r.dev r.dctx fun d => d.startEnds i.chan).setCtx h
          (startCtx s.clk.wall t i.tws boxes (startReg [] 2 (w 4)) (w 6) 0)

/-- TASK_START (R12, R146, R300, R315, R316): the tasks due to start on their contexts. -/
def execTaskStart (s : State) : Host.Outcome State Fault Refusal :=
  let s := s.bel.tasks.foldl (fun s h =>
    match mfind s.bel.launch h with
    | none => s.dropResv h
    | some r => if s.resident r.dev = some r.dctx ∧ !(s.partOf r.dev).halt then s.startTask h r else s) s
  .next (if s.bel.tasks.isEmpty then s else s.schedOnce 1 .taskStart)

end Sys2Proof.Machine
end

