-- ==== Sys2Proof/Machine/Host.lean ====
section
/-! DEFINITION. The host interface (R347 to R362, R381): the registers of a function, register writes, the aperture and the
physical window, and the ordering point with its posted writes, pieces and reads. -/

namespace Sys2Proof.Machine

/-! Functions are numbered port x 4 + function; 8 stands for the management bus, which reaches the management registers alone
(R381). -/

/-- The function a register write came through. -/
def regFn (w : RegWr) : Nat := w.port * 4 + w.fn
def reqFn (r : Req) : Nat := r.port * 4 + r.fn

/-- The device a function serves (R349, R351); the management bus reaches the registers of device 0. -/
def State.fnDev (s : State) (f : Nat) : Option Nat :=
  if f ≥ 8 then some 0 else if bitOf (s.fn f).fctl 3 then some (fld (s.fn f).fctl 2 0) else none

/-- Whether the management registers are open to a function (R357). -/
def State.fnMgt (s : State) (f : Nat) : Bool := f ≥ 8 || bitOf (s.fn f).fctl 7

/-- The device context `c` of the device of a function. -/
def State.fnDc (s : State) (f c : Nat) : DCtx := match s.fnDev f with | some d => s.dc d c | none => DCtx.zero
def State.modFnDc (s : State) (f c : Nat) (g : DCtx → DCtx) : State :=
  match s.fnDev f with | some d => s.modDc d c g | none => s

/-! Registers read (R309, R350 to R358, R370, R375, R377, R381). -/

/-- QSTAT (R309). An entry stays in its queue until its word 15 is written. -/
def Queue.stat (q : Queue) : Word :=
  let b (x : Bool) (i : Nat) : Word := if x then atBit 1 i else 0
  atBit ((q.ents.head?.map (·.pos)).getD q.head) 32 ||| b q.err 3 ||| b q.fenced 2 ||| b q.killed 1 |||
    b q.pre 0

/-- A register of a queue's block (R309). -/
def Queue.read (q : Queue) (o : Nat) : Word :=
  if o = 0 then q.cfg else if o = 8 then q.base else if o = 16 then atBit q.tail 0 else if o = 24 then atBit q.head 0
  else if o = 32 then q.lim else if o = 40 then q.lim3 else if o = 48 then q.stat else 0

/-- PSTAT (R351). -/
def PcPort.stat (p : PcPort) : Word :=
  let b (x : Bool) (i : Nat) : Word := if x then atBit 1 i else 0
  b p.up 15 ||| b p.fail 14 ||| b p.flit 13 ||| atBit p.width 8 ||| atBit p.rate 0

def State.port (s : State) (p : Nat) : PcPort := (mfind s.host.ports p).getD PcPort.zero

/-- MSTAT (R381). -/
def Mgt.stat (m : Mgt) : Word :=
  atBit (fld m.fwsv 31 0) 32 ||| atBit (m.duty % 16) 8 ||| atBit (if m.trip then 1 else 0) 7 ||| atBit (if m.err then 1 else 0) 6 |||
    atBit m.state 0

/-- A word of the management registers; `o` is the offset less 0x1_0000. -/
def State.mgmtRead (s : State) (f o : Nat) : Word :=
  let m := s.mgt
  if o = 0 then m.stat else if o = 0x08 then atBit s.net.fpeer 0 else if o = 0x10 then s.net.fadp else if o = 0x18 then s.net.fbko
  else if o = 0x20 then m.retiv else if o = 0x28 then atBit m.tlim 16 ||| atBit m.wlim 0 else if o = 0x30 then atBit m.pwr 0
  else if o = 0x38 then m.temp else if o = 0x40 then atBit m.llcnt 0
  else if 0x1000 ≤ o ∧ o < 0x2000 then
    let r := (mfind m.link ((o - 0x1000) / 16)).getD (0, 0)
    if o % 16 = 0 then r.1 else r.2
  else if 0x8000 ≤ o ∧ o < 0x8200 then mget 0 (s.fnDc f ((o - 0x8000) / 32)).ckcfg (o % 32 / 8)
  else if 0x8200 ≤ o ∧ o < 0x8220 then mget 0 m.rcv (o % 32 / 8)
  else if 0x8300 ≤ o ∧ o < 0x8340 then mget 0 m.errs ((o - 0x8300) / 8)
  else if o = 0x8400 then m.dbgctl else if o = 0x8408 then m.dbgst else if o = 0x8410 then m.dbgdata
  else if 0x8500 ≤ o ∧ o < 0x8600 then mget 0 (s.fnDc f ((o - 0x8500) / 16)).drcfg (o % 16 / 8)
  else 0

/-- A word of the MSI-X table (R350, R353): address, then data and the mask bit. -/
def Fn.msixRead (x : Fn) (o : Nat) : Word :=
  let v := o / 16
  if o % 16 < 8 then mget 0 x.msix (2 * v)
  else atBit (if mget false x.unmask v then 0 else 1) 32 ||| atBit (fld (mget 0 x.msix (2 * v + 1)) 31 0) 0

/-- A word of the pending-bit array. -/
def Fn.pba (x : Fn) (k : Nat) : Word :=
  (List.range 64).foldl (fun w i => if mget false x.pend (64 * k + i) then w ||| atBit 1 i else w) 0

/-- The 8-byte word of BAR0 at an aligned offset, as a function sees it (R350, R352, R357). -/
def State.regRead (s : State) (f off : Nat) : Word :=
  let x := s.fn f
  if f ≥ 8 then (if 0x10000 ≤ off ∧ off < 0x20000 then s.mgmtRead f (off - 0x10000) else 0)
  else if off < 0x1000 then (if s.fnDev f = some (s.queueDev (off / 64)) then (s.queue (off / 64)).read (off % 64) else 0)
  else if off = 0x1000 then (s.port (f / 4)).stat else if off = 0x1008 then x.fctl else if off = 0x1010 then x.irqen
  else if off = 0x1018 then x.aperr else if off = 0x1020 then x.aperra
  else if 0x1100 ≤ off ∧ off < 0x1180 then mget 0 x.apw ((off - 0x1100) / 8)
  else if 0x2000 ≤ off ∧ off < 0x2410 then x.msixRead (off - 0x2000)
  else if 0x3000 ≤ off ∧ off < 0x3010 then x.pba ((off - 0x3000) / 8)
  else if !s.fnMgt f then 0
  else if 0x10000 ≤ off ∧ off < 0x20000 then s.mgmtRead f (off - 0x10000)
  else if 0x20000 ≤ off ∧ off < 0x24000 then
    let e := (mfind (s.fnDc f ((off - 0x20000) / 1024)).chan (off % 1024 / 16)).getD (0, 0)
    if off % 16 = 0 then e.1 else e.2
  else if off = 0x40000 then x.pwbase
  else 0

/-! Registers written (R350). -/

/-- The aligned offset of a write. -/
def regOff (w : RegWr) : Nat := w.off / 8 * 8

/-- A write of 4 or 8 bytes laid into the word that stands. -/
def regMerge (old : Word) (w : RegWr) : Word :=
  if w.n = 8 then w.val else if w.off % 8 = 0 then putFld old 31 0 (fld w.val 31 0) else putFld old 63 32 (fld w.val 31 0)

/-- The word that a write makes of its register, before the register's own rules. -/
def State.regNew (s : State) (w : RegWr) : Word := regMerge (s.regRead (regFn w) (regOff w)) w

/-- A register write has been made, and its piece is acknowledged (R359). -/
def State.regAck (s : State) (w : RegWr) : State :=
  if w.port ≥ 2 then s else s.sched 1 (.pieceAck (regFn w) w.id 0)

/-- The queue whose block a write reaches, where it is one of the function's device (R352). -/
def State.regQueue (s : State) (w : RegWr) : Option Nat :=
  let q := w.off / 64
  if w.off < 0x1000 ∧ regFn w < 8 ∧ s.fnDev (regFn w) = some (s.queueDev q) then some q else none

/-- The bits of QCFG. -/
def qcfgMask : Word := 0x0000FF0F00000701

/-- A queue whose EN goes from 0 to 1 (R309, R310, R318). -/
def Queue.enable (q : Queue) : Queue :=
  let q := { q with err := false, fenced := false, killed := false, pre := false, lastDie := none }
  if 4 ≤ q.size ∧ q.size ≤ 16 then q else q.stop

/-- A write of QCFG (R309, R352): while EN stands, only EN changes. -/
def State.putQcfg (s : State) (f q : Nat) (v : Word) : State :=
  let k := s.queue q
  let new := if k.en then putFld k.cfg 0 0 (fld v 0 0) else v &&& qcfgMask
  if !s.fnMgt f ∧ (k.ctx = 0 ∨ fld new 35 32 = 0) then s
  else
    let s := s.modQueue q fun k => if k.en then { k with cfg := new } else
      if bitOf new 0 then ({ k with cfg := new }).enable else { k with cfg := new }
    s.schedOnce 0 (.entryTake q)

/-- QCFG_WRITE (R309, R310, R352). -/
def execQcfgWrite (w : RegWr) (s : State) : Host.Outcome State Fault Refusal :=
  .next ((match s.regQueue w with
    | some q => s.putQcfg (regFn w) q (s.regNew w)
    | none => s).regAck w)

/-- QTAIL_WRITE (R310). -/
def execQtailWrite (w : RegWr) (s : State) : Host.Outcome State Fault Refusal :=
  .next ((match s.regQueue w with
    | some q => (s.modQueue q fun k => { k with tail := fld (s.regNew w) 31 0 }).schedOnce 0 (.entryTake q)
    | none => s).regAck w)

/-- APWCFG as it stands after a write (R354). -/
def State.apwcfgOf (s : State) (f : Nat) (v : Word) : Word :=
  let v := v &&& 0x00FF00F00000003F
  let c := fld v 39 36
  let size := fld v 5 1
  let ok := c != 0 && (s.fnDc f c).live && 16 ≤ size && size ≤ 33
  if ok then v else v &&& ~~~(1#64)

/-- APWCFG_WRITE (R354). -/
def execApwcfgWrite (w : RegWr) (s : State) : Host.Outcome State Fault Refusal :=
  let f := regFn w
  let k := (regOff w - 0x1100) / 8
  .next ((if f < 8 ∧ k < 16 then s.modFn f fun x => { x with apw := mput 0 x.apw k (s.apwcfgOf f (s.regNew w)) } else s).regAck w)

/-- APERR_WRITE (R355): writing 1 to V clears the record. -/
def execAperrWrite (w : RegWr) (s : State) : Host.Outcome State Fault Refusal :=
  let f := regFn w
  let hit := f < 8 ∧ bitOf (regMerge 0 w) 63
  .next ((if hit then s.modFn f fun x => { x with aperr := 0 } else s).regAck w)

/-- Whether a running task of a device context binds a channel (R340). -/
def State.chanBound (s : State) (dev c e : Nat) : Bool :=
  (s.ctxsOf dev c).any fun x => match x.task with
    | some t => t.dctx == c && t.chan.any fun y => y.2 == e + 1
    | none => false

/-- Word 0 of a channel entry written (R340, R341): word 1 becomes 0, and nothing waits in the channel; a send end starts
with its credits when a task first binds it. -/
def DCtx.putChan0 (d : DCtx) (e : Nat) (v : Word) : DCtx :=
  let v := v &&& 0xFFFFFFFF00007FFF
  { d with chan := mins d.chan e (v, 0), chnew := mput false d.chnew e (bitOf v 63 && fld v 62 61 == 0), chq := mdel d.chq e, chbuf := mdel d.chbuf e, chres := mdel d.chres e }

/-- Word 1 of a channel entry written. -/
def DCtx.putChan1 (d : DCtx) (e : Nat) (v : Word) : DCtx :=
  let w0 := ((mfind d.chan e).getD (0, 0)).1
  { d with chan := mins d.chan e (w0, if fld w0 62 61 = 3 then v else v &&& 0x80000000007FFFFF) }

/-- CHANNEL_ENTRY_WRITE (R340, R357). -/
def execChannelEntryWrite (w : RegWr) (s : State) : Host.Outcome State Fault Refusal :=
  let f := regFn w
  let o := regOff w
  let c := (o - 0x20000) / 1024
  let e := o % 1024 / 16
  .next ((match s.fnDev f with
    | some dev =>
      if f ≥ 8 ∨ !s.fnMgt f ∨ c ≥ 16 ∨ s.chanBound dev c e then s
      else s.modDc dev c fun d => if o % 16 = 0 then d.putChan0 e (s.regNew w) else d.putChan1 e (s.regNew w)
    | none => s).regAck w)

/-- MSIX_VECTOR_CONTROL_WRITE (R353): the mask bit, with the data word beside it; unmasking sends a pending message. -/
def execMsixVectorControlWrite (w : RegWr) (s : State) : Host.Outcome State Fault Refusal :=
  let f := regFn w
  let v := (regOff w - 0x2000) / 16
  let x := s.regNew w
  let open' := !bitOf x 32
  let send := open' && mget false (s.fn f).pend v
  if f ≥ 8 then .next (s.regAck w)
  else
    let s := s.modFn f fun k =>
      { k with msix := mput 0 k.msix (2 * v + 1) (atBit (fld x 31 0) 0), unmask := mput false k.unmask v open',
               pend := if send then mput false k.pend v false else k.pend }
    .next ((if send then s.emit (.msi w.port w.fn v) else s).regAck w)

/-- ERROR_LOG_WRITE (R370): a write of 0 clears a counter. -/
def execErrorLogWrite (w : RegWr) (s : State) : Host.Outcome State Fault Refusal :=
  let k := (regOff w - 0x18300) / 8
  .next ((if s.fnMgt (regFn w) ∧ w.val = 0 ∧ k < 8 then { s with mgt := { s.mgt with errs := mput 0 s.mgt.errs k 0 } } else s).regAck w)

/-- The event of a debug command (R375). -/
def dbgEvent (cmd : Nat) : Option Instr :=
  if cmd = 1 then some .dbgStop else if cmd = 2 then some .dbgStep else if cmd = 3 then some .dbgRun else if cmd = 4 then some .dbgRead
  else if cmd = 5 then some .dbgBpset else if cmd = 6 then some .dbgChk else none

/-- CKCFG written (R370): a period begins to run with its write. -/
def State.putCkcfg (s : State) (f c k : Nat) (v : Word) : State :=
  let v := if k < 2 then v &&& 0x0000FFFFFFFFF000 else if k = 2 then v else 0
  let s := s.modFnDc f c fun d => { d with ckcfg := mput 0 d.ckcfg k v }
  let per := fld v 63 32
  if k = 2 ∧ per ≠ 0 then
    let dev := (s.fnDev f).getD 0
    let t := s.now dev + BitVec.ofNat 64 (per * ns1000)
    (s.modFnDc f c fun d => { d with ckNext := t }).sched (s.until dev t + 2) .checkpointPeriod
  else s

/-- A management register written (R333, R339, R370, R375, R377, R381); `o` is the offset less 0x1_0000. -/
def State.putMgmt (s : State) (f o : Nat) (v : Word) (high : Bool) : State :=
  if o = 0x10 then { s with net := { s.net with fadp := v &&& 0xFFFF } }
  else if o = 0x18 then { s with net := { s.net with fbko := atBit (max 100 (fld v 31 0)) 0 } }
  else if o = 0x20 then { s with mgt := { s.mgt with retiv := atBit (max 10 (fld v 31 0)) 0 } }
  else if o = 0x28 then
    let t := fld v 31 16
    { s with mgt := { s.mgt with tlim := if 60 ≤ t ∧ t ≤ 95 then t else 95, wlim := min 4800 (max 1000 (fld v 15 0)) } }
  else if 0x8000 ≤ o ∧ o < 0x8200 then s.putCkcfg f ((o - 0x8000) / 32) (o % 32 / 8) v
  else if o = 0x8400 then
    let s := { s with mgt := { s.mgt with dbgctl := v } }
    (match dbgEvent (fld v 63 56) with
     | some e => if high then ({ s with mgt := { s.mgt with dbgst := atBit 1 63 } }).sched 0 e else s
     | none => s)
  else if 0x8500 ≤ o ∧ o < 0x8600 then
    let v := if o % 16 = 0 then v &&& 0x0000FFFFFFFFFFC0 else v &&& 0x0000FFFFFFFFFF01
    s.modFnDc f ((o - 0x8500) / 16) fun d => { d with drcfg := mput 0 d.drcfg (o % 16 / 8) v }
  else s

/-- Any other register of BAR0 written (R309, R350 to R358); read-only registers and offsets that name nothing drop it. -/
def State.putReg (s : State) (w : RegWr) : State :=
  let f := regFn w
  let o := regOff w
  let v := s.regNew w
  let high := w.n = 8 || w.off % 8 = 4
  match s.regQueue w with
  | some q =>
    if o % 64 = 8 then s.modQueue q fun k => if k.en then k else { k with base := v &&& 0x0000FFFFFFFFFF80 }
    else if o % 64 = 32 then (s.modQueue q fun k => { k with lim := v }).armQuench q
    else if o % 64 = 40 then (s.modQueue q fun k => { k with lim3 := v &&& 0xFFFFFFFF }).armQuench q
    else s
  | none =>
    if f ≥ 8 then (if 0x10000 ≤ o ∧ o < 0x20000 then s.putMgmt f (o - 0x10000) v high else s)
    else if o = 0x1010 then
      s.modFn f fun x => { x with irqen := v &&& s.irqMask f }
    else if 0x1100 ≤ o ∧ o < 0x1180 ∧ o % 16 = 0 then
      s.modFn f fun x => { x with apw := mput 0 x.apw ((o - 0x1100) / 8) (v &&& 0x0000FFFFFFFF0000) }
    else if 0x2000 ≤ o ∧ o < 0x2410 ∧ o % 16 = 0 then
      s.modFn f fun x => { x with msix := mput 0 x.msix (2 * ((o - 0x2000) / 16)) v }
    else if !s.fnMgt f then s
    else if 0x10000 ≤ o ∧ o < 0x20000 then s.putMgmt f (o - 0x10000) v high
    else if o = 0x40000 then s.modFn f fun x => { x with pwbase := v &&& 0x0000007F00000000 }
    else s

/-- REGISTER_WRITE (R350, R381). -/
def execRegisterWrite (w : RegWr) (s : State) : Host.Outcome State Fault Refusal := .next ((s.putReg w).regAck w)

/-- The event of a register write, by its offset. -/
def regEvent (w : RegWr) : Instr :=
  let o := regOff w
  if o < 0x1000 ∧ o % 64 = 0 then .qcfgWrite w else if o < 0x1000 ∧ o % 64 = 16 then .qtailWrite w
  else if o = 0x1018 then .aperrWrite w else if 0x1100 ≤ o ∧ o < 0x1180 ∧ o % 16 = 8 then .apwcfgWrite w
  else if 0x2000 ≤ o ∧ o < 0x2410 ∧ o % 16 = 8 then .msixVectorControlWrite w
  else if 0x18300 ≤ o ∧ o < 0x18340 then .errorLogWrite w else if 0x20000 ≤ o ∧ o < 0x24000 then .channelEntryWrite w
  else .registerWrite w

/-! The aperture and the physical window (R354 to R358). -/

/-- A failure of the aperture logged (R355, R370). -/
def State.apFail (s : State) (r : Req) (kind : Nat) : State :=
  let rd := if r.data.isEmpty then 1 else 0
  let win := if r.bar = 2 then r.off / 2 ^ 33 % 8 else 0
  let f (x : Fn) : Fn :=
    if bitOf x.aperr 63 then { x with aperr := putFld x.aperr 55 48 (min 255 (fld x.aperr 55 48 + 1)) }
    else { x with aperr := atBit 1 63 ||| atBit 1 48 ||| atBit kind 40 ||| atBit win 33 ||| atBit rd 32,
                  aperra := BitVec.ofNat 64 r.off }
  ((s.modFn (reqFn r) f).countErr 7).mgmtIrq

/-- A run cut where physical granules of 2 KiB begin. -/
def cut2k (a n : Nat) : Nat → List (Nat × Nat)
  | 0 => []
  | k + 1 => if n = 0 then [] else let m := min n (2048 - a % 2048); (a, m) :: cut2k (a + m) (n - m) k

/-- The leaf that maps an address, from the cache of a port's ordering point, which holds 1,024 of them, or by a walk that fills it
(R355). -/
def State.apLeaf (s : State) (port dev c va : Nat) : Option TlbEnt × State :=
  if va ≥ 2 ^ 48 then (none, s)
  else
    let l := mget [] s.host.apTlb port
    match tlbFind l dev c va with
    | some t => (some t, s)
    | none =>
      match s.walk dev va (s.dc dev c).ptb.toNat 3 with
      | none => (none, s)
      | some (e, n) =>
        let t : TlbEnt := { dev := dev, dctx := c, va := va / leafSize n * leafSize n, size := leafSize n, ent := e }
        (some t, { s with host := { s.host with apTlb := mput [] s.host.apTlb port ((t :: l).take 1024) } })

/-- The leaves of the runs of a request. -/
def State.apLeaves (s : State) (port dev c : Nat) : List (Nat × Nat) → List ((Nat × Nat) × Option TlbEnt) × State
  | [] => ([], s)
  | y :: l =>
    let (t, s1) := s.apLeaf port dev c y.1
    let (ts, s2) := s1.apLeaves port dev c l
    ((y, t) :: ts, s2)

/-- Where a request of the aperture lies under the window registers given, or the KIND of its failure (R355). -/
def State.apPlaces (s : State) (dev : Nat) (apw : SMap Word) (r : Req) (wr : Bool) : Except Nat (List (Place × Nat)) × State :=
  let k := r.off / 2 ^ 33
  let o := r.off % 2 ^ 33
  let cfg := mget 0 apw (2 * k + 1)
  if k ≥ 8 ∨ !bitOf cfg 0 ∨ o + r.len > 2 ^ fld cfg 5 1 then (.error 1, s)
  else
    let va := fld (mget 0 apw (2 * k)) 47 16 * 65536 + o
    let key := fld cfg 55 48
    let (l, s) := s.apLeaves r.port dev (fld cfg 39 36) (cut2k va r.len (r.len / 2048 + 2))
    if l.any (fun y => y.2.isNone) then (.error 2, s)
    else
      let es := l.filterMap fun y => y.2.map fun t => (y.1, t)
      if es.any fun y => fld y.2.ent 55 48 != key then (.error 3, s)
      else if wr && es.any (fun y => !bitOf y.2.ent 2) then (.error 4, s)
      else if r.bad then (.error 5, s)
      else (.ok (es.map fun y => (s.hbmPlace dev (fld y.2.ent 38 8 * 256 + y.1.1 % y.2.size) key, y.1.2)), s)

/-- Where a request of the physical window lies (R358). -/
def State.pwPlaces (s : State) (dev : Nat) (r : Req) : Except Nat (List (Place × Nat)) :=
  let pa := fld (s.fn (reqFn r)).pwbase 38 32 * 2 ^ 32 + r.off
  if pa + r.len > s.physSpace then .error 1
  else if r.bad then .error 5
  else .ok ((cut2k pa r.len (r.len / 2048 + 2)).map fun y => (s.hbmPlace dev y.1 0, y.2))

/-! The ordering point (R359 to R362). -/

/-- A free time for which something is under way, in wall cycles. -/
def State.journey (s : State) : Nat × State := (Config.freePick s.clk.frees % 1000 + 1, s.draw)

/-- The pieces of a posted write leave together, or its register write goes to its register. -/
def State.leave (s : State) (f : Nat) (p : Posted) : State :=
  let s := s.modFn f fun x => { x with posted := x.posted.map fun y => if y.id = p.id then { y with sent := true } else y }
  if p.regs then
    let (d, s) := s.journey
    s.sched d (regEvent { port := p.req.port, fn := p.req.fn, off := p.req.off, n := p.req.len,
                          val := BitVec.ofNat 64 (ofBytes p.req.data), id := p.id })
  else p.ps.foldl (fun s x => let (d, s) := s.journey; s.sched d (.pieceAck f p.id x.1)) s

/-- The bytes at places. -/
def State.readAt (s : State) : List (Place × Nat) → List Byte × State
  | [] => ([], s)
  | (p, n) :: l =>
    let (bs, s1) := s.readBytes p n
    let (cs, s2) := s1.readAt l
    (bs ++ cs, s2)

/-- A read made at its homes or its register, and completed (R350, R355, R358, R361), under the windows as they stood at its arrival
(R354). -/
def State.readReq (s : State) (r : Req) (apw : SMap Word) : State :=
  let f := reqFn r
  let ur (s : State) : State := s.emit (.cpl r.port r.fn r.off none)
  let give (s : State) (ps : List (Place × Nat)) : State :=
    let (bs, s) := s.readAt ps
    s.emit (.cpl r.port r.fn r.off (some bs))
  match s.fnDev f with
  | none => ur s
  | some dev =>
    if r.bar = 0 then
      if (r.len = 4 ∨ r.len = 8) ∧ r.off % r.len = 0 then
        s.emit (.cpl r.port r.fn r.off (some ((toBytes 8 (s.regRead f (r.off / 8 * 8)).toNat).drop (r.off % 8) |>.take r.len)))
      else ur s
    else if r.bar = 2 then
      match s.apPlaces dev apw r false with
      | (.ok ps, s) => give s ps
      | (.error k, s) => (ur s).apFail r k
    else if r.bar = 4 ∧ s.fnMgt f then
      match s.pwPlaces dev r with
      | .ok ps => give s ps
      | .error k => (ur s).apFail r k
    else ur s

/-- What no earlier posted write holds any more: writes without the relaxed-ordering attribute leave (R360), and reads are made
(R361). -/
def State.release (s : State) (f : Nat) : State :=
  let s := match (s.fn f).posted with
    | p :: _ => if p.sent then s else s.leave f p
    | [] => s
  let free (x : Nat × Req × SMap Word) : Bool := (s.fn f).posted.all fun p => p.id > x.1
  let l := (s.fn f).reads.filter free
  let s := s.modFn f fun x => { x with reads := x.reads.filter fun y => !free y }
  l.foldl (fun s x => s.readReq x.2.1 x.2.2) s

/-- Whether a request of a function waits in the agenda. -/
def hostReq (f : Nat) (i : Instr) : Bool :=
  match i with
  | .postedWrite r => reqFn r == f
  | .memoryRead r => reqFn r == f
  | _ => false

/-- A request that finds no credit waits, and the later ones of its function that would come by then behind it, in their order
(R360, R361). -/
def State.withhold (s : State) (f : Nat) (i : Instr) : State :=
  let mine (x : Nat × Instr) : Bool := x.1 ≤ s.clk.wall + 1 && hostReq f x.2
  let l := s.agenda.filter mine
  (l.map (·.2)).foldl (fun s e => s.sched 1 e) (({ s with agenda := s.agenda.filter fun x => !mine x }).sched 1 i)

/-- The pieces that a function has not had acknowledged. -/
def Fn.pieces (x : Fn) : Nat := (x.posted.map fun p => if p.regs then 1 else p.ps.length).foldl (· + ·) 0

/-- Whether a port carries requests (R347, R351). -/
def State.carries (s : State) (p : Nat) : Bool := p < 2 && (s.port p).up && !(s.port p).fail

/-- A posted write enters the ordering point; one with the attribute leaves at once (R360). -/
def State.post (s : State) (f : Nat) (r : Req) (regs : Bool) (ps : List Piece) : State :=
  let p : Posted := { id := s.clk.tick, req := r, ps := ps.zipIdx.map fun x => (x.2, x.1), regs := regs, sent := false }
  let s := s.bump.modFn f fun x => { x with posted := x.posted ++ [p] }
  if r.ro then s.leave f p else s.release f

/-- The pieces of a write. -/
def piecesOf : List (Place × Nat) → List Byte → List Piece
  | [], _ => []
  | (pl, n) :: l, bs => { pl := pl, n := n, hl := 4, lvl := 0, stamp := 0, data := bs.take n, tag := none } :: piecesOf l (bs.drop n)

/-- The pieces that a posted write is cut into (R359). -/
def State.piecesFor (s : State) (r : Req) : Nat :=
  if r.bar = 0 then 1
  else
    let a := if r.bar = 4 then fld (s.fn (reqFn r)).pwbase 38 32 * 2 ^ 32 + r.off else r.off
    (cut2k a r.len (r.len / 2048 + 2)).length

/-- The longest payload and the longest read that a port supports (R348). -/
def maxPayload : Nat := 4096

/-- POSTED_WRITE (R348, R349, R350, R355, R358 to R360, R379): translated and checked whole, cut into pieces, and held until the
earlier writes of its function are acknowledged. -/
def execPostedWrite (r : Req) (s : State) : Host.Outcome State Fault Refusal :=
  let f := reqFn r
  let r := { r with len := r.data.length }
  if !s.carries r.port ∨ r.fn ≥ 4 ∨ s.mgt.state = 2 ∨ r.data.isEmpty ∨ r.len > maxPayload then .next s
  else if (s.fn f).pieces + s.piecesFor r > 512 then .next (s.withhold f (.postedWrite r))
  else
    match s.fnDev f with
    | none => .next s
    | some dev =>
      let go (x : Except Nat (List (Place × Nat))) (s : State) : State :=
        match x with
        | .ok ps => s.post f r false (piecesOf ps r.data)
        | .error k => s.apFail r k
      if r.bar = 0 then
        if (r.len = 4 ∨ r.len = 8) ∧ r.off % r.len = 0 ∧ !r.bad then .next (s.post f r true []) else .next (s.countErr 7)
      else if r.bar = 2 then let x := s.apPlaces dev (s.fn f).apw r true; .next (go x.1 x.2)
      else if r.bar = 4 ∧ s.fnMgt f then .next (go (s.pwPlaces dev r) s)
      else .next s

/-- The granules of a piece; one written whole gets tag 0 (R356). -/
def granParts (p : Piece) : List (Place × List Byte × Option Tag) :=
  let a := match p.pl with | .sp a => a | .hbm a _ => a
  let l := cutGran a p.n (p.n / 64 + 2)
  let ps := l.map fun x => (p.pl.add (x.1 - a), x.2)
  layPlaces ps p.data (l.map fun x => if x.2 = 64 then some 0 else none)

/-- A posted write with a piece less; without pieces it is acknowledged and leaves. -/
def Fn.acked (x : Fn) (id k : Nat) : Fn :=
  let l := x.posted.map fun p => if p.id = id then { p with ps := p.ps.filter fun y => y.1 != k, regs := false } else p
  { x with posted := l.filter fun p => p.id != id || !p.ps.isEmpty }

/-- The granules of a piece that lie in converting tensors (R356). -/
def State.hostHits (s : State) (l : List (Place × List Byte × Option Tag)) : State :=
  l.foldl (fun s x => match x.1 with | .hbm a _ => s.hitBy a x.2.1.length | .sp _ => s) s

/-- PIECE_ACK (R356, R359, R360, R361): a piece is written at its home and acknowledged, which may release what waits. -/
def execPieceAck (f id k : Nat) (s : State) : Host.Outcome State Fault Refusal :=
  match ((s.fn f).posted.find? fun p => p.id == id && p.sent).bind fun p => p.ps.find? fun y => y.1 == k with
  | some (_, pc) =>
    let l := granParts pc
    let (ok, s) := s.mirroredAll l
    if !ok then .next (s.sched 1 (.pieceAck f id k))
    else .next ((((s.writeParts l).hostHits l).modFn f fun x => x.acked id k).release f)
  | none => .next ((s.modFn f fun x => x.acked id k).release f)

/-- MEMORY_READ (R348, R349, R361, R379): an AtomicOp ends as an Unsupported Request; a read waits for the earlier posted writes of its function, then for its way to the homes;
in the recovery state function 0 of port 0 reads MSTAT alone. -/
def execMemoryRead (r : Req) (s : State) : Host.Outcome State Fault Refusal :=
  let f := reqFn r
  if !s.carries r.port ∨ r.fn ≥ 4 ∨ r.len > maxPayload then .next s
  else if r.aop then .next (s.emit (.cpl r.port r.fn r.off none))
  else if s.mgt.state = 2 then
    if f = 0 ∧ r.bar = 0 ∧ r.off / 8 * 8 = 0x10000 ∧ (r.len = 4 ∨ r.len = 8) ∧ r.off % r.len = 0 then
      .next (s.emit (.cpl 0 0 r.off (some ((toBytes 8 s.mgt.stat.toNat).drop (r.off % 8) |>.take r.len))))
    else .next (s.emit (.cpl r.port r.fn r.off none))
  else
    let last := ((s.fn f).posted.map (·.id)).foldl max 0
    let (d, s) := s.journey
    .next ((s.modFn f fun x => { x with reads := x.reads ++ [(last, { r with data := [] }, x.apw)] }).sched d (.pieceAck f 0 0))

end Sys2Proof.Machine
end

