-- ==== Sys2Proof/Machine/Links.lean ====
section
/-! DEFINITION. Links that train, lose lanes, carry flits and change keys (R336 to R338, R344, R345, R347, R374). -/

namespace Sys2Proof.Machine

/-! PCI Express ports (R347, R351). -/

/-- A port at a rate code of PSTAT and a width; it accepts no requests below 32 GT/s or below x8. -/
def portAt (rate width : Nat) : PcPort :=
  if rate < 5 ∨ width < 8 then { PcPort.zero with fail := true }
  else { up := true, fail := false, flit := decide (rate ≥ 6), width := width, rate := rate }

/-- PCIE_LINK_TRAINING (R347, R351): the rate and the width that both ends reach are free. -/
def execPcieLinkTraining (k : Nat) (s : State) : Host.Outcome State Fault Refusal :=
  let n := Config.freePick s.clk.frees
  let p := portAt (4 + n % 4) (if n / 4 % 3 = 0 then 16 else if n / 4 % 3 = 1 then 8 else 4)
  .next (if k < 2 then ({ s with host := { s.host with ports := mins s.host.ports k p } }).draw else s)

/-! Bandwidth changes (R344). -/

/-- A record of the link log, and the management interrupt. -/
def State.linkLog (s : State) (old new kind a b : Nat) : State :=
  let r := (atBit old 40 ||| atBit new 32 ||| atBit kind 24 ||| atBit a 16 ||| atBit b 8, s.now 0)
  ({ s with mgt := { s.mgt with link := mins s.mgt.link (s.mgt.llcnt % 256) r, llcnt := s.mgt.llcnt + 1 } }).mgmtIrq

/-! Training (R336, R374). -/

/-- A link at a generation whose session has opened: both directions hold its first key, and nothing is unacknowledged. -/
def Link.opened (gen key : Nat) : Link :=
  { Link.zero with gen := gen, lanes := 8, up := true, sess := true, keys := [(0, key)], rkeys := [(0, key)], next := key + 1 }

/-- What waited for a link put on its way. -/
def State.drain (s : State) : State :=
  let l := s.net.out
  l.foldl (fun s x => s.forward x.1 x.2.1 x.2.2.1 x.2.2.2) { s with net := { s.net with out := [] } }

/-- LINK_TRAINING (R336, R374): gen 2 is tried, then gen 1; whether each succeeds and whether the session opens is free. A halved
link that retrains comes back with 8 lanes (R337). -/
def execLinkTraining (k : Nat) (s : State) : Host.Outcome State Fault Refusal :=
  let n := Config.freePick s.clk.frees
  let l := s.link k
  let s := s.draw
  if k ≥ 36 then .next s
  else if l.up then .next (if n % 2 = 0 then s.setLink k { l with lanes := 8 } else s)
  else if n % 3 = 2 ∨ n / 3 % 2 = 1 then .next (s.setLink k Link.zero)
  else .next (s.bump.setLink k (Link.opened (if n % 3 = 0 then 2 else 1) (1000000 * s.clk.tick))).drain

/-- LINK_RETRAIN_REQUEST (R337): the management controller asks. -/
def execLinkRetrainRequest (k : Nat) (s : State) : Host.Outcome State Fault Refusal := .next (s.schedOnce 1 (.linkTraining k))

/-! Lanes lost (R337, R344). -/

/-- The packets of a port that have not been acknowledged, each once, with INT and HOPS: those of the replay buffer, then those behind
it. -/
def Link.unacked (l : Link) : List (Nat × Nat × Pkt) :=
  ((l.replay.filter (·.last)).map fun f => (f.int, f.hops, f.pkt)) ++ l.wait.map fun x => (x.1, x.2.1, x.2.2.1)

/-- LANE_LOSS (R337, R344): 8 lanes halve to 4; from 4 the link goes down and its unacknowledged packets take other paths, their headers
unchanged, before any later packet. -/
def execLaneLoss (k : Nat) (s : State) : Host.Outcome State Fault Refusal :=
  let l := s.link k
  if !l.up then .next s
  else if l.lanes = 8 then .next (((s.setLink k { l with lanes := 4 }).countErr 4).linkLog 8 4 2 k 0)
  else
    let s := (s.setLink k Link.zero).linkLog 4 0 2 k 0
    .next (l.unacked.foldl (fun s x => s.forward (portDie k) x.1 x.2.1 x.2.2) s)

/-! Flits (R332 to R334, R337, R338). -/

/-- A slot index by its epoch bit. -/
def slotIx (epoch : Bool) : Nat := if epoch then 1 else 0

/-- What the sender learns of the flits that have come (R337, R338): those acknowledged leave the replay buffer, in whose order the numbers
count modulo 2^32, and a slot without unacknowledged flits that is not the epoch's is retired. -/
def Link.acked (l : Link) (n : Nat) : Link :=
  let r := if n = l.txseq then [] else if l.replay.any (·.seq == n) then l.replay.dropWhile (·.seq != n) else l.replay
  let old := !l.epoch
  { l with replay := r, keys := if r.any fun f => f.epoch == old then l.keys else mdel l.keys (slotIx old),
           resend := l.resend.filter fun m => r.any (·.seq == m) }

/-- A flit taken in (R337, R338): the next number is expected; the other direction's acknowledgement and its call for a resend are seen; the
first flit of a new epoch comes after every one of the old, whose slot is retired. -/
def Link.took (l : Link) (f : Flit) : Link :=
  let l := ({ l with rxseq := (l.rxseq + 1) % 2 ^ 32, ask := false }).acked f.ack
  let l := match f.nak with | some n => { l with resend := if l.replay.any (·.seq == n) then some n else l.resend } | none => l
  if f.epoch = l.repoch then l else { l with repoch := f.epoch, rkeys := mdel l.rkeys (slotIx (!f.epoch)) }

/-- A packet that has come whole over a port (R332, R333): one from a source that is not in the partition is dropped and counted; else it is
at its peer, or goes on through this router. -/
def State.routed (s : State) (k : Nat) (f : Flit) : State :=
  if !s.peerUp f.pkt.src then s.countErr 5
  else if f.pkt.dst = s.net.fpeer then (match pktEvent f.pkt with | some e => s.sched 2 e | none => s.countErr 5)
  else s.forward (portDie k) (if f.int = s.net.fpeer then 0x7FF else f.int) (f.hops + 1) f.pkt

/-- FLIT_RECEIVE (R337, R338): a flit that verifies under the key of its epoch and comes in order is accepted; for any other this end asks
for a resend from the flit it expects, and what follows is not taken until then. A flit sent again is the same flit, under its old key. -/
def execFlitReceive (k : Nat) (s : State) : Host.Outcome State Fault Refusal :=
  let l := s.link k
  match l.rx with
  | [] => .next s
  | (f, good) :: rx =>
    let l := { l with rx := rx }
    if !l.up then .next (s.setLink k l)
    else if !good ∨ mfind l.rkeys (slotIx f.epoch) ≠ some f.key then .next ((s.setLink k { l with ask := true }).countErr 3)
    else if f.seq ≠ l.rxseq then .next (s.setLink k l)
    else
      let s := (s.setLink k (l.took f)).pump k
      .next (if f.last then s.routed k f else s)

/-- LINK_KEY_ROLLOVER (R338, R374): the session's next key is loaded into the idle slot of both directions, and this end's sender switches
its epoch; refused while flits of the old epoch are unacknowledged, here or at the other end, whose slots are then not idle. -/
def execLinkKeyRollover (k : Nat) (s : State) : Host.Outcome State Fault Refusal :=
  let l := s.link k
  let i := slotIx (!l.epoch)
  let j := slotIx (!l.repoch)
  if !l.up ∨ l.replay.any (fun f => f.epoch != l.epoch) ∨ (mfind l.rkeys j).isSome then .next s
  else
    .next (s.setLink k { l with epoch := !l.epoch, keys := mins l.keys i l.next, rkeys := mins l.rkeys j l.next, next := l.next + 1, sent := 0 })

/-! Package links (R342 to R345). -/

/-- The pairs of sockets between which nothing can travel any more, though it could before: traffic starts or ends at a die. -/
def State.cutOff (before s : State) : List (Nat × Nat) :=
  (List.range 18).flatMap fun x => ((List.range 10).filter fun y =>
    x != y && (before.pkgPath x y false).isSome && (s.pkgPath x y false).isNone).map fun y => (x, y)

/-- The devices that lose traffic between two sockets: those of the compute dies and stacks among them, or all between the I/O dies, which
serve every device (R346). -/
def State.losers (s : State) (x y : Nat) : List Nat :=
  if (x == 8 || x == 9) && (y == 8 || y == 9) then s.devices
  else ([x, y].filter fun z => z < 8 || z ≥ 10).map fun z => s.devOfDie (z % 10)

/-- PACKAGE_LINK_FAIL (R344, R345, R363): the link halves or fails, which of the two at full width is free; packets take the escape channel,
those of its replay buffer first, so that the order toward a home holds; where the link was the only route, the device contexts of the
devices that lose traffic are rolled back. -/
def execPackageLinkFail (a b : Nat) (s : State) : Host.Outcome State Fault Refusal :=
  let k := pkgKey a b
  let lost := mget 0 s.pkg k
  let half := lost = 0 ∧ Config.freePick s.clk.frees % 2 = 0
  let s := s.draw
  if !pkgLink a b ∨ lost = 8 then .next s
  else
    let new := if half then 4 else 8
    let before := s
    let s := ({ s with pkg := mput 0 s.pkg k new }).linkLog (8 - lost) (8 - new) 1 (min a b) (max a b)
    let devs := ((before.cutOff s).flatMap fun x => s.losers x.1 x.2).eraseDups
    .next (devs.foldl (fun s d => (List.range 16).foldl (fun s c => if (s.dc d c).live then s.strike d c else s) s) s)

end Sys2Proof.Machine
end

