-- ==== Sys2Proof/Machine/Manage.lean ====
section
/-! DEFINITION. Bring-up, throttling and the thermal trip (R308, R371, R378 to R383). -/

namespace Sys2Proof.Machine

/-- The check of the boot ROM on an image (R371). -/
def FwImage.good (i : FwImage) (fuse : Nat) (roll : Word) : Bool := i.sigOk && i.digest == fuse && decide (roll.toNat ≤ i.sv.toNat)

/-- Whether an event comes from outside the package, so that a reset of the device does not undo it. -/
def outside (i : Instr) : Bool :=
  match i with
  | .postedWrite _ | .memoryRead _ | .coolantFlowChange _ | .laneLoss _ | .flitReceive _ | .packageLinkFail _ _ | .powerOnReset
  | .getVersion | .getCapabilities | .negotiateAlgorithms | .getDigests | .getCertificate | .challenge | .getMeasurements
  | .keyExchange | .finish | .spdmHeartbeat | .keyUpdate | .endSession | .keygen | .keygrant | .keyzero | .keysend | .fwload => true
  | _ => false

/-- The device at reset (R379): everything stands as after reset, but what is fused or installed, the image, the coolant sensor,
what it has sent, and what comes from outside. -/
def State.atReset (s : State) : State :=
  let r := State.reset
  let m := { Mgt.zero with flow := s.mgt.flow, image := s.mgt.image, fuse := s.mgt.fuse, roll := s.mgt.roll, peer := s.mgt.peer,
                           peers := s.mgt.peers, fctl := s.mgt.fctl, route := s.mgt.route }
  let spdm := s.spdm.map fun x => (x.1, { Spdm.zero with inbox := x.2.inbox })
  { r with clk := { r.clk with wall := s.clk.wall, tick := s.clk.tick, frees := s.clk.frees },
           agenda := s.agenda.filter (fun x => outside x.2 && !(x.1 == s.mgt.due && x.2 == .powerOnReset)), mgt := m, spdm := spdm, outs := s.outs, pkg := s.pkg }

/-- 17.05 s in wall cycles: the longest that steps 1 to 4 take (R379). -/
def bringUpMax : Nat := 18755000000

/-- The steps from power on (R371, R379): the image is verified; the device then trains its memory, ports and links, with a time
that is free up to the longest, or stands in the recovery state. -/
def State.boot (s : State) : State :=
  let s := s.atReset
  let m := s.mgt
  if !m.image.good m.fuse m.roll then
    ({ s with mgt := { m with state := 2, duty := 16 } }).sched 1 (.pcieLinkTraining 0)
  else
    let t := s.clk.wall + Config.freePick s.clk.frees % bringUpMax + 100
    let roll := if m.image.sv.toNat > m.roll.toNat then m.image.sv else m.roll
    let key : KeySlot := { key := 2 * s.clk.tick, grant := false, maker := none }
    let s := { s.bump.draw with mgt := { m with state := 1, fwsv := m.image.sv, roll := roll, due := t }, keys := [(0, key)] }
    let s := (s.sched 1 (.pcieLinkTraining 0)).sched 1 (.pcieLinkTraining 1)
    let s := (List.range 36).foldl (fun s k => s.sched 1 (.linkTraining k)) s
    s.sched (t - s.clk.wall) .powerOnReset

/-- The peer table of an installation record (R332): 2 bits an entry, and none from 1,058 on. -/
def peerTable (m : SMap Nat) : SMap Nat := (m.filter fun x => x.1 < 1058 && x.2 % 4 != 0).map fun x => (x.1, x.2 % 4)

/-- The router tables of an installation record (R333): the reserved bits of an entry read 0. -/
def routerTable (m : SMap Word) : SMap Word := (m.filter fun x => x.1 < 4096).map fun x => (x.1, x.2 &&& ~~~0xFFE#64)

/-- The device in service (R308, R379): the installation record taken, context 0 created on every device, and the management
interrupt raised. -/
def State.service (s : State) : State :=
  let m := s.mgt
  let s := { s with net := { s.net with fpeer := m.peer % 2048, peers := peerTable m.peers, route := routerTable m.route }, mgt := { m with state := 3, beats := true } }
  let s := (List.range 8).foldl (fun s f => s.modFn f fun x => { x with fctl := fctlOf s.dieMode f (bitOf (mget 0 m.fctl f) 7) }) s
  let s := s.devices.foldl State.newMgmt s
  (((s.sched 11000 (.scrub 0)).sched (nsCycles (2 * nsSecond)) .holdoverEnter).sched (nsCycles ns1000) .throttleTick).mgmtIrq

/-- POWER_ON_RESET (R308, R371, R379): power, or the reset pin; while bring-up is under way, the end of its steps 3 to 5. Whether
one of these fails is free; a step that fails is tried once more. -/
def execPowerOnReset (s : State) : Host.Outcome State Fault Refusal :=
  let m := s.mgt
  if (m.state = 1 ∨ m.state = 4) ∧ m.due = s.clk.wall then
    let bad := Config.freePick s.clk.frees % 2 = 1
    let s := s.draw
    if !bad then .next s.service
    else if m.retry then .next { s with mgt := { m with state := 4, err := true, due := 0 } }
    else
      let t := s.clk.wall + Config.freePick s.clk.frees % bringUpMax + 100
      .next (({ s.draw with mgt := { m with state := 4, err := true, retry := true, due := t } }).sched (t - s.clk.wall) .powerOnReset)
  else .next s.boot

/-- Whether a byte of TEMP exceeds a bound. -/
def hotter (t : Word) (b : Nat) : Bool := (toBytes 8 t.toNat).any fun x => x.toNat > b

/-- THROTTLE_TICK (R381 to R383): PWR and TEMP are measured, which are free values; the duty follows the limits, and a junction at
115 °C trips. -/
def execThrottleTick (s : State) : Host.Outcome State Fault Refusal :=
  let m := s.mgt
  let pwr := Config.freePick s.clk.frees % 2 ^ 32
  let temp := Config.freeWord (s.clk.frees + 1)
  let duty := if pwr > m.wlim ∨ hotter temp m.tlim then max 2 (m.duty - 1) else min 16 (m.duty + 1)
  let s := ({ s.draw.draw with mgt := { m with pwr := pwr, temp := temp, duty := duty } }).sched (nsCycles ns1000) .throttleTick
  .next (if hotter temp 114 then s.schedOnce 0 .thermalTrip else s)

/-- THERMAL_TRIP (R383): the compute dies halt, TRIP is set, and the heartbeats stop. -/
def execThermalTrip (s : State) : Host.Outcome State Fault Refusal := .next { s with mgt := { s.mgt with trip := true, beats := false } }

/-- COOLANT_FLOW_CHANGE (R378): the flow sensor reads `v` L/min. -/
def execCoolantFlowChange (v : Nat) (s : State) : Host.Outcome State Fault Refusal := .next { s with mgt := { s.mgt with flow := v } }

end Sys2Proof.Machine
end

