-- ==== Sys2Proof/Machine/DebugCmd.lean ====
section
/-! DEFINITION. The debug commands (R162, R375, R376): what DBGCTL asks for, carried out on its target. -/

namespace Sys2Proof.Machine

/-- The context that DBGCTL names. -/
def dbgCtx (w : Word) : Nat := fld w 51 39 * 4 + fld w 38 37

/-- The device and the device context of a command. -/
def State.dbgDev (s : State) : Nat := s.devOf (dbgCtx s.mgt.dbgctl)

/-- Whether a command may act (R375): device context 0, or the debug grant of its key's slot. -/
def State.dbgGranted (s : State) : Bool :=
  let c := fld s.mgt.dbgctl 55 52
  c == 0 || (match mfind s.keys (s.dc s.dbgDev c).key with | some k => (s.dc s.dbgDev c).live && k.grant | none => false)

/-- The contexts a command acts on, by its SCOPE: those that hold a task of the device context named. -/
def State.dbgTargets (s : State) : List Nat :=
  let w := s.mgt.dbgctl
  let h := dbgCtx w
  let sc := fld w 36 35
  (s.hw.filter fun x =>
    (match x.2.task with | some t => t.dctx == fld w 55 52 | none => false) &&
    (if sc = 0 then x.1 == h else if sc = 1 then coreOf x.1 == coreOf h else s.devOf x.1 == s.dbgDev)).map (·.1)

/-- A context that is stopped, its exposed pipeline drained (R162). -/
def Ctx.stood (c : Ctx) : Bool := c.dbg.stop && c.dbg.due == 0

/-- DBGSTAT after a command (R375): BUSY while a stopped target still drains. -/
def State.dbgStat (s : State) (refused blocked : Bool) : State :=
  let l := s.dbgTargets
  let stopped := !refused && !l.isEmpty && l.all fun h => (s.ctx h).stood
  let busy := !refused && l.any fun h => (s.ctx h).dbg.stop && (s.ctx h).dbg.due != 0
  let b (x : Bool) (i : Nat) : Word := if x then atBit 1 i else 0
  { s with mgt := { s.mgt with dbgst := b busy 63 ||| b stopped 62 ||| b refused 61 ||| b blocked 60 } }

/-- A command carried out where it stands in DBGCTL and may act; refused otherwise. -/
def State.dbgDo (s : State) (cmd : Nat) (act : State → State) : State :=
  if fld s.mgt.dbgctl 63 56 ≠ cmd then s else if !s.dbgGranted then s.dbgStat true false else act s

/-- A command on a stopped target: refused while it runs (R375). -/
def State.dbgStopped (s : State) (act : State → State) : State :=
  let l := s.dbgTargets
  if !l.isEmpty ∧ l.all (fun h => (s.ctx h).stood) then (act s).dbgStat false false else s.dbgStat true false

/-- DBG_STOP (R162, R376). -/
def execDbgStop (s : State) : Host.Outcome State Fault Refusal :=
  .next (s.dbgDo 1 fun s =>
    (s.dbgTargets.foldl (fun s h => if (s.ctx h).dbg.stop then s else s.debugStop h 1 0) s).dbgStat false false)

/-- DBG_STEP (R376): each stopped context is released for one issue; one that is blocked stays so. -/
def execDbgStep (s : State) : Host.Outcome State Fault Refusal :=
  .next (s.dbgDo 2 fun s =>
    let l := s.dbgTargets.filter fun h => (s.ctx h).dbg.stop
    let free := l.filter fun h => (s.ctx h).st != .blocked
    let s := free.foldl (fun s h => s.debugRelease h true) s
    if free.isEmpty then s.dbgStat false (!l.isEmpty) else { s with mgt := { s.mgt with dbgst := atBit 1 63 } })

/-- DBG_RUN (R162, R376). -/
def execDbgRun (s : State) : Host.Outcome State Fault Refusal :=
  .next (s.dbgDo 3 fun s =>
    (s.dbgTargets.foldl (fun s h => s.debugRelease h false) s).dbgStat false false)

/-- The bytes of a latch's result. -/
def Latch.bytes (l : Latch) : List Byte := l.wrs.flatMap fun w => match w with | .bytes _ bs => bs | _ => []

/-- What READ returns, by its class (R375). -/
def State.dbgValue (s : State) (h cls idx : Nat) : Word :=
  let c := s.ctx h
  let lat (k : Nat) : Option Latch := c.lats[k]?
  if cls = 0 then BitVec.ofNat 64 (ofBytes (c.rsBytes (8 * idx) 8))
  else if cls = 1 then
    match lat idx with
    | some l => atBit (l.dist % 2 ^ 32) 32 ||| atBit (l.slot % 256) 24 ||| atBit (l.code % 256) 16 ||| atBit 1 0
    | none => 0
  else if cls = 2 then
    match lat (idx / 64) with
    | some l => BitVec.ofNat 64 (ofBytes ((l.bytes.drop (8 * (idx % 64))).take 8))
    | none => 0
  else if cls = 3 then (s.sreg h idx).getD 0
  else 0

/-- DBG_READ (R375). -/
def execDbgRead (s : State) : Host.Outcome State Fault Refusal :=
  .next (s.dbgDo 4 fun s => s.dbgStopped fun s =>
    let w := s.mgt.dbgctl
    { s with mgt := { s.mgt with dbgdata := s.dbgValue (dbgCtx w) (fld w 34 32) (fld w 31 0) } })

/-- DBG_BPSET (R375, R376). -/
def execDbgBpset (s : State) : Host.Outcome State Fault Refusal :=
  .next (s.dbgDo 5 fun s => s.dbgStopped fun s =>
    let w := s.mgt.dbgctl
    s.dbgTargets.foldl (fun s h => s.modCtx h fun c =>
      { c with dbg := { c.dbg with bp := mput 0 c.dbg.bp (fld w 33 32) (w &&& 0xFFFFFFFD) } }) s)

/-- DBG_CHK (R154, R375). -/
def execDbgChk (s : State) : Host.Outcome State Fault Refusal :=
  .next (s.dbgDo 6 fun s => s.dbgStopped fun s =>
    s.dbgTargets.foldl (fun s h => s.modCtx h fun c => { c with sys := { c.sys with chk := atBit (fld s.mgt.dbgctl 1 0) 0 } }) s)

end Sys2Proof.Machine
end

