-- ==== Sys2Proof/Machine/Spdm.lean ====
section
/-! DEFINITION. The SPDM responder (R372, R380), the owner keys (R373) and the loading of an image in the recovery state
(R371, R379). Codes of requests, responses and errors are those of SPDM 1.3; assumption log 21. -/

namespace Sys2Proof.Machine

/-- A request in an inbox is its code and its fields; a vendor-defined one has code 0xFE00 + n: 1 KEYGEN, 2 KEYGRANT, 3 KEYZERO,
4 KEYSEND, 5 FWLOAD, and its first field is 1 where it comes inside the secure session. -/
def spdmCodes : List Nat :=
  [0x81, 0x82, 0x83, 0x84, 0xE0, 0xE1, 0xE3, 0xE4, 0xE5, 0xE8, 0xE9, 0xEC, 0xFE01, 0xFE02, 0xFE03, 0xFE04, 0xFE05]

/-- The codes that the boot ROM answers (R380). -/
def romCodes : List Nat := [0x81, 0x82, 0x83, 0x84, 0xE0, 0xE1, 0xE3, 0xE4, 0xE5, 0xEC, 0xFE05]

def State.bus (s : State) (b : Nat) : Spdm := (mfind s.spdm b).getD Spdm.zero
def State.modBus (s : State) (b : Nat) (f : Spdm → Spdm) : State := { s with spdm := mins s.spdm b (f (s.bus b)) }

/-- Whether the device is in the recovery state, where the boot ROM answers on the management bus alone. -/
def State.rom (s : State) : Bool := s.mgt.state == 2

/-- Whether a bus is served: 0 and 1 are the ports, 2 is the management bus. -/
def State.busOn (s : State) (b : Nat) : Bool := if s.rom then b == 2 else s.mgt.state == 3 || s.mgt.state == 4

/-- An error: 1 InvalidRequest, 4 UnexpectedRequest, 7 UnsupportedRequest. -/
def State.spdmErr (s : State) (b e : Nat) : State := s.emit (.spdm b 0x7F [e])

/-- The requests at the head of an inbox that the responder does not know answered with an error (R372, R380). -/
def State.spdmSkip (s : State) (b : Nat) : List (Nat × List Nat) → State
  | [] => s.modBus b fun x => { x with inbox := [] }
  | (c, a) :: l =>
    if (if s.rom then romCodes else spdmCodes.filter (· != 0xFE05)).contains c then s.modBus b fun x => { x with inbox := (c, a) :: l }
    else (s.spdmErr b 7).spdmSkip b l

/-- The first request of a code at the head of an inbox taken, and acted on once the negotiation has gone as far as it needs. -/
def State.respond (s : State) (code stage : Nat) (act : State → Nat → List Nat → State) : State :=
  let s := [0, 1, 2].foldl (fun s b => if s.busOn b then s.spdmSkip b (s.bus b).inbox else s) s
  match [0, 1, 2].find? fun b => s.busOn b && ((s.bus b).inbox.head?.map (·.1)) == some code with
  | none => s
  | some b =>
    let a := ((s.bus b).inbox.head?.map (·.2)).getD []
    let s := s.modBus b fun x => { x with inbox := x.inbox.drop 1 }
    if (s.bus b).stage < stage then s.spdmErr b 4 else act s b a

/-- A response with its fields. -/
def State.reply' (s : State) (b code : Nat) (a : List Nat) : State := s.emit (.spdm b code a)

/-- A free number a response carries: a digest, a nonce, a measured value. -/
def State.freeNum (s : State) : Nat × State := ((Config.freeWord s.clk.frees).toNat, s.draw)

/-- GET_VERSION (R372): version 1.3; the negotiation starts afresh. -/
def execGetVersion (s : State) : Host.Outcome State Fault Refusal :=
  .next (s.respond 0x84 0 fun s b _ => (s.modBus b fun x => { x with stage := 1, sess := 0 }).reply' b 0x04 [0x1300])

/-- GET_CAPABILITIES (R372); the flags are free. -/
def execGetCapabilities (s : State) : Host.Outcome State Fault Refusal :=
  .next (s.respond 0xE1 1 fun s b _ =>
    let (n, s) := s.freeNum
    (s.modBus b fun x => { x with stage := max 2 x.stage }).reply' b 0x61 [n % 2 ^ 32])

/-- NEGOTIATE_ALGORITHMS (R372): of what is offered, RSAPSS 4096, SHA-512, secp384r1 and AES-256-GCM. -/
def execNegotiateAlgorithms (s : State) : Host.Outcome State Fault Refusal :=
  .next (s.respond 0xE3 2 fun s b a =>
    let pick (i m : Nat) : Nat := if (a.getD i 0) / m % 2 = 1 then m else 0
    (s.modBus b fun x => { x with stage := max 3 x.stage }).reply' b 0x63 [pick 0 64, pick 1 4, pick 2 16, pick 3 2])

/-- Whether a certificate slot exists (R372, R380). -/
def State.slotOn (s : State) (k : Nat) : Bool := k == 0 || (k == 1 && !s.rom)

/-- GET_DIGESTS (R372): the mask of the slots and their digests. -/
def execGetDigests (s : State) : Host.Outcome State Fault Refusal :=
  .next (s.respond 0x81 3 fun s b _ =>
    let (n, s) := s.freeNum
    let (m, s) := s.freeNum
    s.reply' b 0x01 (if s.rom then [1, n] else [3, n, m]))

/-- GET_CERTIFICATE (R372): the chain of slot 0 or 1, by its slot. -/
def execGetCertificate (s : State) : Host.Outcome State Fault Refusal :=
  .next (s.respond 0x82 3 fun s b a =>
    let k := a.headD 0
    if !s.slotOn k then s.spdmErr b 1
    else
      let (n, s) := s.freeNum
      s.reply' b 0x02 [k, n])

/-- CHALLENGE (R371, R372, R380): signed by the alias key, 1, or in the recovery state by the identity key, 0. -/
def execChallenge (s : State) : Host.Outcome State Fault Refusal :=
  .next (s.respond 0x83 3 fun s b a =>
    let k := a.headD 0
    if !s.slotOn k then s.spdmErr b 1
    else
      let (n, s) := s.freeNum
      s.reply' b 0x03 [k, if s.rom then 0 else 1, n])

/-- A measurement's fields: its index, and its value where it has one (R372, R380). -/
def State.measure (s : State) (k : Nat) : List Nat × State :=
  if s.rom ∧ (k = 2 ∨ k = 3) then ([k], s)
  else
    let (n, s) := s.freeNum
    (if k = 4 then [k, n, s.mgt.roll.toNat] else [k, n], s)

/-- GET_MEASUREMENTS (R372, R380): index 0 asks how many there are, 255 for all. -/
def execGetMeasurements (s : State) : Host.Outcome State Fault Refusal :=
  .next (s.respond 0xE0 3 fun s b a =>
    let k := a.headD 0
    if k = 0 then s.reply' b 0x60 [4]
    else if k = 255 then
      let (l, s) := [1, 2, 3, 4].foldl (fun (r : List Nat × State) k => let (l, s) := r.2.measure k; (r.1 ++ l, s)) ([], s)
      s.reply' b 0x60 l
    else if k ≤ 4 then
      let (l, s) := s.measure k
      s.reply' b 0x60 l
    else s.spdmErr b 1)

/-- KEY_EXCHANGE (R372): a session with a number of its own. -/
def execKeyExchange (s : State) : Host.Outcome State Fault Refusal :=
  .next (s.respond 0xE4 3 fun s b _ =>
    let n := s.clk.tick
    (s.bump.modBus b fun x => { x with sess := 1, num := n, upd := 0 }).reply' b 0x64 [n])

/-- FINISH (R372). -/
def execFinish (s : State) : Host.Outcome State Fault Refusal :=
  .next (s.respond 0xE5 3 fun s b _ =>
    if (s.bus b).sess ≠ 1 then s.spdmErr b 4 else (s.modBus b fun x => { x with sess := 2 }).reply' b 0x65 [])

/-- HEARTBEAT (R372). -/
def execSpdmHeartbeat (s : State) : Host.Outcome State Fault Refusal :=
  .next (s.respond 0xE8 3 fun s b _ => if (s.bus b).sess ≠ 2 then s.spdmErr b 4 else s.reply' b 0x68 [])

/-- KEY_UPDATE (R372, R374). -/
def execKeyUpdate (s : State) : Host.Outcome State Fault Refusal :=
  .next (s.respond 0xE9 3 fun s b _ =>
    if (s.bus b).sess ≠ 2 then s.spdmErr b 4 else (s.modBus b fun x => { x with upd := x.upd + 1 }).reply' b 0x69 [(s.bus b).upd + 1])

/-- END_SESSION (R372). -/
def execEndSession (s : State) : Host.Outcome State Fault Refusal :=
  .next (s.respond 0xEC 3 fun s b _ =>
    if (s.bus b).sess ≠ 2 then s.spdmErr b 4 else (s.modBus b fun x => { x with sess := 0 }).reply' b 0x6C [])

/-! Vendor-defined requests (R373, R379, R380). -/

/-- A vendor-defined request inside a session, answered with 0, or with 1 where it is refused. -/
def State.vendor (s : State) (n : Nat) (act : State → Nat → List Nat → Option State) : State :=
  s.respond (0xFE00 + n) 3 fun s b a =>
    if (s.bus b).sess ≠ 2 ∨ a.headD 0 = 0 then s.spdmErr b 4
    else match act s b (a.drop 1) with
      | some s => s.reply' b 0x7E [0]
      | none => s.reply' b 0x7E [1]

/-- KEYGEN (R373): a fresh key in a slot that is not loaded. -/
def execKeygen (s : State) : Host.Outcome State Fault Refusal :=
  .next (s.vendor 1 fun s b a =>
    let k := a.headD 0
    let x : KeySlot := { key := 2 * s.clk.tick, grant := false, maker := some (s.bus b).num }
    if k = 0 ∨ k > 255 ∨ (mfind s.keys k).isSome then none else some { s.bump with keys := mins s.keys k x })

/-- KEYGRANT (R373): the debug grant, in the session that made the slot. -/
def execKeygrant (s : State) : Host.Outcome State Fault Refusal :=
  .next (s.vendor 2 fun s b a =>
    match mfind s.keys (a.headD 0) with
    | some x => if x.maker = some (s.bus b).num then
        some { s with keys := mins s.keys (a.headD 0) { x with grant := a.getD 1 0 % 2 == 1 } } else none
    | none => none)

/-- KEYZERO (R373): refused while a context of the key exists. -/
def execKeyzero (s : State) : Host.Outcome State Fault Refusal :=
  .next (s.vendor 3 fun s _ a =>
    let k := a.headD 0
    if s.dctx.any (fun x => x.2.live && x.2.key == k) then none else some { s with keys := mdel s.keys k })

/-- Whether a peer may be sent a key (R373): the buddy of a context of the key, or a standby under admission. -/
def State.mayHave (s : State) (k peer : Nat) : Bool :=
  s.dctx.any fun x => x.2.live && x.2.key == k && (x.2.buddy == peer || (x.2.lost.isSome && s.standby == some peer))

/-- KEYSEND (R373): a slot is sent, with its grant, over a session between the two identity keys. Where the first field is 2, it is
the receipt of one, with the slot, the key and the grant. -/
def execKeysend (s : State) : Host.Outcome State Fault Refusal :=
  .next (s.respond 0xFE04 0 fun s b a =>
    let k := a.getD 1 0
    if a.headD 0 = 2 then
      let x : KeySlot := { key := 2 * a.getD 2 0 + 1, grant := a.getD 3 0 % 2 == 1, maker := none }
      if 1 ≤ k ∧ k ≤ 255 then { s with keys := mins s.keys k x } else s
    else if (s.bus b).sess ≠ 2 ∨ a.headD 0 = 0 then s.spdmErr b 4
    else match mfind s.keys k with
      | some x => if s.mayHave k (a.getD 2 0) then (s.emit (.key k (a.getD 2 0) x.grant)).reply' b 0x7E [0] else s.reply' b 0x7E [1]
      | none => s.reply' b 0x7E [1])

/-- FWLOAD (R371, R379, R380): a new image, verified before the device resets; one that fails is discarded. -/
def execFwload (s : State) : Host.Outcome State Fault Refusal :=
  .next (s.vendor 5 fun s _ a =>
    let i : FwImage := { digest := a.getD 0 0, sigOk := a.getD 1 0 == 1, sv := BitVec.ofNat 64 (a.getD 2 0) }
    if s.rom ∧ i.good s.mgt.fuse s.mgt.roll then some (({ s with mgt := { s.mgt with image := i } }).sched 1 .powerOnReset) else none)

end Sys2Proof.Machine
end

