-- ==== Sys2Proof/Machine/Dispatch.lean ====
section
/-! DEFINITION. One arm for each constructor of Instr: the meaning of every instruction. -/

namespace Sys2Proof.Machine

/-- The meaning of an instruction on a state. -/
def exec (i : Instr) (s : State) : Host.Outcome State Fault Refusal :=
  match i with
  | .nopB g => Sys2Proof.Machine.execNopB g s
  | .brT g off => Sys2Proof.Machine.execBrT g off s
  | .brF g off => Sys2Proof.Machine.execBrF g off s
  | .jmp g off => Sys2Proof.Machine.execJmp g off s
  | .jmpi g b => Sys2Proof.Machine.execJmpi g b s
  | .bsr g off => Sys2Proof.Machine.execBsr g off s
  | .ret g => Sys2Proof.Machine.execRet g s
  | .loop g lvl n imm => Sys2Proof.Machine.execLoop g lvl n imm s
  | .loopRot g lvl n so imm => Sys2Proof.Machine.execLoopRot g lvl n so imm s
  | .wait g imm => Sys2Proof.Machine.execWait g imm s
  | .evwait g d => Sys2Proof.Machine.execEvwait g d s
  | .bar g id => Sys2Proof.Machine.execBar g id s
  | .yieldB g => Sys2Proof.Machine.execYieldB g s
  | .done g => Sys2Proof.Machine.execDone g s
  | .trap g code => Sys2Proof.Machine.execTrap g code s
  | .eret g => Sys2Proof.Machine.execEret g s
  | .brk g code => Sys2Proof.Machine.execBrk g code s
  | .cqclr g => Sys2Proof.Machine.execCqclr g s
  | .add g d b c => Sys2Proof.Machine.execAdd g d b c s
  | .sub g d b c => Sys2Proof.Machine.execSub g d b c s
  | .mul g d b c => Sys2Proof.Machine.execMul g d b c s
  | .mulh g nat d b c => Sys2Proof.Machine.execMulh g nat d b c s
  | .divs g d b c => Sys2Proof.Machine.execDivs g d b c s
  | .rems g d b c => Sys2Proof.Machine.execRems g d b c s
  | .divn g d b c => Sys2Proof.Machine.execDivn g d b c s
  | .remn g d b c => Sys2Proof.Machine.execRemn g d b c s
  | .andS g d b c => Sys2Proof.Machine.execAndS g d b c s
  | .orS g d b c => Sys2Proof.Machine.execOrS g d b c s
  | .xorS g d b c => Sys2Proof.Machine.execXorS g d b c s
  | .shl g d b c => Sys2Proof.Machine.execShl g d b c s
  | .shr g d b c => Sys2Proof.Machine.execShr g d b c s
  | .sra g d b c => Sys2Proof.Machine.execSra g d b c s
  | .min g d b c => Sys2Proof.Machine.execMin g d b c s
  | .max g d b c => Sys2Proof.Machine.execMax g d b c s
  | .minn g d b c => Sys2Proof.Machine.execMinn g d b c s
  | .maxn g d b c => Sys2Proof.Machine.execMaxn g d b c s
  | .clz g d b => Sys2Proof.Machine.execClz g d b s
  | .popc g d b => Sys2Proof.Machine.execPopc g d b s
  | .li g d imm => Sys2Proof.Machine.execLi g d imm s
  | .lihM g d imm => Sys2Proof.Machine.execLihM g d imm s
  | .lihH g d imm => Sys2Proof.Machine.execLihH g d imm s
  | .mov g d b => Sys2Proof.Machine.execMov g d b s
  | .sel g d b c neg p => Sys2Proof.Machine.execSel g d b c neg p s
  | .cmp g cc d b c => Sys2Proof.Machine.execCmp g cc d b c s
  | .setp g neg p b c => Sys2Proof.Machine.execSetp g neg p b c s
  | .pand g pb pa pd => Sys2Proof.Machine.execPand g pb pa pd s
  | .por g pb pa pd => Sys2Proof.Machine.execPor g pb pa pd s
  | .pxor g pb pa pd => Sys2Proof.Machine.execPxor g pb pa pd s
  | .pnot g pa pd => Sys2Proof.Machine.execPnot g pa pd s
  | .agset g port v => Sys2Proof.Machine.execAgset g port v s
  | .agpos g d port => Sys2Proof.Machine.execAgpos g d port s
  | .view g v b => Sys2Proof.Machine.execView g v b s
  | .shape g mz tz d rows cols fmt => Sys2Proof.Machine.execShape g mz tz d rows cols fmt s
  | .bxinfo g d c bx what => Sys2Proof.Machine.execBxinfo g d c bx what s
  | .sget g d num => Sys2Proof.Machine.execSget g d num s
  | .sset g b num => Sys2Proof.Machine.execSset g b num s
  | .tsget g d k => Sys2Proof.Machine.execTsget g d k s
  | .xpat g v lsz k => Sys2Proof.Machine.execXpat g v lsz k s
  | .ld g d path => Sys2Proof.Machine.execLd g d path s
  | .ldAcq g sc d path => Sys2Proof.Machine.execLdAcq g sc d path s
  | .st g a path => Sys2Proof.Machine.execSt g a path s
  | .stRel g sc a path => Sys2Proof.Machine.execStRel g sc a path s
  | .ldv g v path => Sys2Proof.Machine.execLdv g v path s
  | .ldvAcq g sc v path => Sys2Proof.Machine.execLdvAcq g sc v path s
  | .stv g v path => Sys2Proof.Machine.execStv g v path s
  | .stvRel g sc v path => Sys2Proof.Machine.execStvRel g sc v path s
  | .ldff g v path => Sys2Proof.Machine.execLdff g v path s
  | .ldblk g v path => Sys2Proof.Machine.execLdblk g v path s
  | .stblk g v path => Sys2Proof.Machine.execStblk g v path s
  | .ldtag g d path => Sys2Proof.Machine.execLdtag g d path s
  | .sttag g a path => Sys2Proof.Machine.execSttag g a path s
  | .ldr g acq d path => Sys2Proof.Machine.execLdr g acq d path s
  | .str g rel a path => Sys2Proof.Machine.execStr g rel a path s
  | .align g => Sys2Proof.Machine.execAlign g s
  | .fence g sc => Sys2Proof.Machine.execFence g sc s
  | .pf g path => Sys2Proof.Machine.execPf g path s
  | .rfence g a path => Sys2Proof.Machine.execRfence g a path s
  | .ldp g d path => Sys2Proof.Machine.execLdp g d path s
  | .stp g a path => Sys2Proof.Machine.execStp g a path s
  | .waitv g cc a path => Sys2Proof.Machine.execWaitv g cc a path s
  | .waitvAcq g sc cc a path => Sys2Proof.Machine.execWaitvAcq g sc cc a path s
  | .atomAdd g ord sc a path => Sys2Proof.Machine.execAtomAdd g ord sc a path s
  | .atomAnd g ord sc a path => Sys2Proof.Machine.execAtomAnd g ord sc a path s
  | .atomOr g ord sc a path => Sys2Proof.Machine.execAtomOr g ord sc a path s
  | .atomXor g ord sc a path => Sys2Proof.Machine.execAtomXor g ord sc a path s
  | .atomMin g ord sc a path => Sys2Proof.Machine.execAtomMin g ord sc a path s
  | .atomMax g ord sc a path => Sys2Proof.Machine.execAtomMax g ord sc a path s
  | .atomMinn g ord sc a path => Sys2Proof.Machine.execAtomMinn g ord sc a path s
  | .atomMaxn g ord sc a path => Sys2Proof.Machine.execAtomMaxn g ord sc a path s
  | .atomSwap g ord sc a path => Sys2Proof.Machine.execAtomSwap g ord sc a path s
  | .atomCas g ord sc a path => Sys2Proof.Machine.execAtomCas g ord sc a path s
  | .atomrAdd g ord a path => Sys2Proof.Machine.execAtomrAdd g ord a path s
  | .atomrAnd g ord a path => Sys2Proof.Machine.execAtomrAnd g ord a path s
  | .atomrOr g ord a path => Sys2Proof.Machine.execAtomrOr g ord a path s
  | .atomrXor g ord a path => Sys2Proof.Machine.execAtomrXor g ord a path s
  | .atomrMin g ord a path => Sys2Proof.Machine.execAtomrMin g ord a path s
  | .atomrMax g ord a path => Sys2Proof.Machine.execAtomrMax g ord a path s
  | .atomrMinn g ord a path => Sys2Proof.Machine.execAtomrMinn g ord a path s
  | .atomrMaxn g ord a path => Sys2Proof.Machine.execAtomrMaxn g ord a path s
  | .atomrSwap g ord a path => Sys2Proof.Machine.execAtomrSwap g ord a path s
  | .atomrCas g ord a path => Sys2Proof.Machine.execAtomrCas g ord a path s
  | .call g d v => Sys2Proof.Machine.execCall g d v s
  | .callGang g d v n => Sys2Proof.Machine.execCallGang g d v n s
  | .join g d h => Sys2Proof.Machine.execJoin g d h s
  | .spawn g d v => Sys2Proof.Machine.execSpawn g d v s
  | .cpy g v fl => Sys2Proof.Machine.execCpy g v fl s
  | .cpyg g v x fl => Sys2Proof.Machine.execCpyg g v x fl s
  | .cpyr g v fl => Sys2Proof.Machine.execCpyr g v fl s
  | .fill g v b fl => Sys2Proof.Machine.execFill g v b fl s
  | .collAllreduce g v fl => Sys2Proof.Machine.execCollAllreduce g v fl s
  | .collAllgather g v fl => Sys2Proof.Machine.execCollAllgather g v fl s
  | .collReducescatter g v fl => Sys2Proof.Machine.execCollReducescatter g v fl s
  | .collAlltoall g v fl => Sys2Proof.Machine.execCollAlltoall g v fl s
  | .placeQ g d bx => Sys2Proof.Machine.execPlaceQ g d bx s
  | .placeD g a bx => Sys2Proof.Machine.execPlaceD g a bx s
  | .ckpt g d t => Sys2Proof.Machine.execCkpt g d t s
  | .tlaunch g d v t => Sys2Proof.Machine.execTlaunch g d v t s
  | .tpre g t => Sys2Proof.Machine.execTpre g t s
  | .vadd g rm d b c m => Sys2Proof.Machine.execVadd g rm d b c m s
  | .vsub g rm d b c m => Sys2Proof.Machine.execVsub g rm d b c m s
  | .vmul g rm d b c m => Sys2Proof.Machine.execVmul g rm d b c m s
  | .vfma g rm d b c e m => Sys2Proof.Machine.execVfma g rm d b c e m s
  | .vfms g rm d b c e m => Sys2Proof.Machine.execVfms g rm d b c e m s
  | .vmin g d b c m => Sys2Proof.Machine.execVmin g d b c m s
  | .vmax g d b c m => Sys2Proof.Machine.execVmax g d b c m s
  | .vdiv g rm d b c m => Sys2Proof.Machine.execVdiv g rm d b c m s
  | .vabs g d b m => Sys2Proof.Machine.execVabs g d b m s
  | .vneg g d b m => Sys2Proof.Machine.execVneg g d b m s
  | .vrcp g rm d b m => Sys2Proof.Machine.execVrcp g rm d b m s
  | .vsqrt g rm d b m => Sys2Proof.Machine.execVsqrt g rm d b m s
  | .vrsqrt g rm d b m => Sys2Proof.Machine.execVrsqrt g rm d b m s
  | .vexp2 g rm d b m => Sys2Proof.Machine.execVexp2 g rm d b m s
  | .vlog2 g rm d b m => Sys2Proof.Machine.execVlog2 g rm d b m s
  | .vcvt g rm d b csel m => Sys2Proof.Machine.execVcvt g rm d b csel m s
  | .vpack g rm d b csel m => Sys2Proof.Machine.execVpack g rm d b csel m s
  | .vsum g rm d b m => Sys2Proof.Machine.execVsum g rm d b m s
  | .vmaxr g d b m => Sys2Proof.Machine.execVmaxr g d b m s
  | .vcmp g cc d b c m => Sys2Proof.Machine.execVcmp g cc d b c m s
  | .vsel g d q c e m => Sys2Proof.Machine.execVsel g d q c e m s
  | .vanyAny g b m => Sys2Proof.Machine.execVanyAny g b m s
  | .vanyAll g b m => Sys2Proof.Machine.execVanyAll g b m s
  | .vanyUni g b m => Sys2Proof.Machine.execVanyUni g b m s
  | .vand g d b c m => Sys2Proof.Machine.execVand g d b c m s
  | .vor g d b c m => Sys2Proof.Machine.execVor g d b c m s
  | .vxor g d b c m => Sys2Proof.Machine.execVxor g d b c m s
  | .vnot g d b m => Sys2Proof.Machine.execVnot g d b m s
  | .vshl g d b c m => Sys2Proof.Machine.execVshl g d b c m s
  | .vshr g d b c m => Sys2Proof.Machine.execVshr g d b c m s
  | .vsra g d b c m => Sys2Proof.Machine.execVsra g d b c m s
  | .vmov g d b m => Sys2Proof.Machine.execVmov g d b m s
  | .vbcast g d b k m => Sys2Proof.Machine.execVbcast g d b k m s
  | .viota g d b c m => Sys2Proof.Machine.execViota g d b c m s
  | .vclass g d b m => Sys2Proof.Machine.execVclass g d b m s
  | .xperm g k d b sf => Sys2Proof.Machine.execXperm g k d b sf s
  | .xrot g d k b sf => Sys2Proof.Machine.execXrot g d k b sf s
  | .xrotC g d k b sf => Sys2Proof.Machine.execXrotC g d k b sf s
  | .xtrn g d b sf => Sys2Proof.Machine.execXtrn g d b sf s
  | .xbcast g d b k sf => Sys2Proof.Machine.execXbcast g d b k sf s
  | .xzip g d b c sf => Sys2Proof.Machine.execXzip g d b c sf s
  | .xunzip g d b k sf => Sys2Proof.Machine.execXunzip g d b k sf s
  | .xcmpr g d b q sf => Sys2Proof.Machine.execXcmpr g d b q sf s
  | .hnop g => Sys2Proof.Machine.execHnop g s
  | .hmma g cls a b c acc ts sf => Sys2Proof.Machine.execHmma g cls a b c acc ts sf s
  | .hmmn g cls a b c acc ts sf => Sys2Proof.Machine.execHmmn g cls a b c acc ts sf s
  | .hgat g v rsc rel asc acq bx sf => Sys2Proof.Machine.execHgat g v rsc rel asc acq bx sf s
  | .idle k r => Sys2Proof.Machine.execIdle k r s
  | .idleHold k r => Sys2Proof.Machine.execIdleHold k r s
  | .mark exp => Sys2Proof.Machine.execMark exp s
  | .latchCommit h => Sys2Proof.Machine.execLatchCommit h s
  | .loadArrive h tok => Sys2Proof.Machine.execLoadArrive h tok s
  | .stallCycle h => Sys2Proof.Machine.execStallCycle h s
  | .contextWake h => Sys2Proof.Machine.execContextWake h s
  | .issueStageGrant k => Sys2Proof.Machine.execIssueStageGrant k s
  | .sampleRecord h => Sys2Proof.Machine.execSampleRecord h s
  | .portFetch h n => Sys2Proof.Machine.execPortFetch h n s
  | .memoryAccessPerform h tok k => Sys2Proof.Machine.execMemoryAccessPerform h tok k s
  | .crucibleServe cl => Sys2Proof.Machine.execCrucibleServe cl s
  | .translationWalkDone cl d c va => Sys2Proof.Machine.execTranslationWalkDone cl d c va s
  | .retentionEnter k => Sys2Proof.Machine.execRetentionEnter k s
  | .scrub a => Sys2Proof.Machine.execScrub a s
  | .machineCheck a => Sys2Proof.Machine.execMachineCheck a s
  | .callLeaveWait tab ent => Sys2Proof.Machine.execCallLeaveWait tab ent s
  | .inwardCopyLanded tab ent => Sys2Proof.Machine.execInwardCopyLanded tab ent s
  | .childStart tab ent => Sys2Proof.Machine.execChildStart tab ent s
  | .gangReadyTimeout tab ent => Sys2Proof.Machine.execGangReadyTimeout tab ent s
  | .outwardCopyStart tab ent => Sys2Proof.Machine.execOutwardCopyStart tab ent s
  | .outwardCopyLanded tab ent => Sys2Proof.Machine.execOutwardCopyLanded tab ent s
  | .recordWrite tab ent => Sys2Proof.Machine.execRecordWrite tab ent s
  | .taskEnd h => Sys2Proof.Machine.execTaskEnd h s
  | .copyFault id => Sys2Proof.Machine.execCopyFault id s
  | .copyComplete id => Sys2Proof.Machine.execCopyComplete id s
  | .backoffResend id => Sys2Proof.Machine.execBackoffResend id s
  | .egressRelease h tok => Sys2Proof.Machine.execEgressRelease h tok s
  | .writePacket p => Sys2Proof.Machine.execWritePacket p s
  | .readRequest p => Sys2Proof.Machine.execReadRequest p s
  | .readData p => Sys2Proof.Machine.execReadData p s
  | .atomicPacket p => Sys2Proof.Machine.execAtomicPacket p s
  | .atomicResult p => Sys2Proof.Machine.execAtomicResult p s
  | .fencePacket p => Sys2Proof.Machine.execFencePacket p s
  | .fenceFlagWrite d c => Sys2Proof.Machine.execFenceFlagWrite d c s
  | .cancel p => Sys2Proof.Machine.execCancel p s
  | .receiverNotReady p => Sys2Proof.Machine.execReceiverNotReady p s
  | .writeAcknowledgement p => Sys2Proof.Machine.execWriteAcknowledgement p s
  | .channelElement p => Sys2Proof.Machine.execChannelElement p s
  | .channelCredit p => Sys2Proof.Machine.execChannelCredit p s
  | .fluxEngineStep p => Sys2Proof.Machine.execFluxEngineStep p s
  | .conversionStart d c pl => Sys2Proof.Machine.execConversionStart d c pl s
  | .conversionComplete d c pl => Sys2Proof.Machine.execConversionComplete d c pl s
  | .collStart id => Sys2Proof.Machine.execCollStart id s
  | .chunkFinal id j => Sys2Proof.Machine.execChunkFinal id j s
  | .ieee1588Message p => Sys2Proof.Machine.execIeee1588Message p s
  | .startOrStopToken p => Sys2Proof.Machine.execStartOrStopToken p s
  | .timedStart d c num => Sys2Proof.Machine.execTimedStart d c num s
  | .timedHalt d c num => Sys2Proof.Machine.execTimedHalt d c num s
  | .contextSwap d => Sys2Proof.Machine.execContextSwap d s
  | .entryTake q => Sys2Proof.Machine.execEntryTake q s
  | .launchMessage p => Sys2Proof.Machine.execLaunchMessage p s
  | .memberReport p => Sys2Proof.Machine.execMemberReport p s
  | .quenchT1 q => Sys2Proof.Machine.execQuenchT1 q s
  | .quenchT2 q => Sys2Proof.Machine.execQuenchT2 q s
  | .quenchT3 q => Sys2Proof.Machine.execQuenchT3 q s
  | .qcfgWrite w => Sys2Proof.Machine.execQcfgWrite w s
  | .qtailWrite w => Sys2Proof.Machine.execQtailWrite w s
  | .apwcfgWrite w => Sys2Proof.Machine.execApwcfgWrite w s
  | .aperrWrite w => Sys2Proof.Machine.execAperrWrite w s
  | .channelEntryWrite w => Sys2Proof.Machine.execChannelEntryWrite w s
  | .msixVectorControlWrite w => Sys2Proof.Machine.execMsixVectorControlWrite w s
  | .errorLogWrite w => Sys2Proof.Machine.execErrorLogWrite w s
  | .registerWrite w => Sys2Proof.Machine.execRegisterWrite w s
  | .postedWrite r => Sys2Proof.Machine.execPostedWrite r s
  | .pieceAck f id k => Sys2Proof.Machine.execPieceAck f id k s
  | .memoryRead r => Sys2Proof.Machine.execMemoryRead r s
  | .pcieLinkTraining k => Sys2Proof.Machine.execPcieLinkTraining k s
  | .linkTraining k => Sys2Proof.Machine.execLinkTraining k s
  | .linkRetrainRequest k => Sys2Proof.Machine.execLinkRetrainRequest k s
  | .laneLoss k => Sys2Proof.Machine.execLaneLoss k s
  | .flitReceive k => Sys2Proof.Machine.execFlitReceive k s
  | .linkKeyRollover k => Sys2Proof.Machine.execLinkKeyRollover k s
  | .packageLinkFail a b => Sys2Proof.Machine.execPackageLinkFail a b s
  | .heartbeatSend d c => Sys2Proof.Machine.execHeartbeatSend d c s
  | .deviceLost peer => Sys2Proof.Machine.execDeviceLost peer s
  | .checkpointComplete d c num => Sys2Proof.Machine.execCheckpointComplete d c num s
  | .coolantFlowChange v => Sys2Proof.Machine.execCoolantFlowChange v s
  | .memberAcknowledgement p => Sys2Proof.Machine.execMemberAcknowledgement p s
  | .tokenModeEnter => Sys2Proof.Machine.execTokenModeEnter s
  | .lockRegain => Sys2Proof.Machine.execLockRegain s
  | .stragglerTimeout => Sys2Proof.Machine.execStragglerTimeout s
  | .stragglerWaitExpiry => Sys2Proof.Machine.execStragglerWaitExpiry s
  | .preemptRequest => Sys2Proof.Machine.execPreemptRequest s
  | .priorityPreempt => Sys2Proof.Machine.execPriorityPreempt s
  | .entryStart => Sys2Proof.Machine.execEntryStart s
  | .entryComplete => Sys2Proof.Machine.execEntryComplete s
  | .nop => Sys2Proof.Machine.execNop s
  | .create => Sys2Proof.Machine.execCreate s
  | .destroy => Sys2Proof.Machine.execDestroy s
  | .launch => Sys2Proof.Machine.execLaunch s
  | .tlaunchEntry => Sys2Proof.Machine.execTlaunchEntry s
  | .coll => Sys2Proof.Machine.execColl s
  | .conv => Sys2Proof.Machine.execConv s
  | .signal => Sys2Proof.Machine.execSignal s
  | .waitval => Sys2Proof.Machine.execWaitval s
  | .tinval => Sys2Proof.Machine.execTinval s
  | .faultreply => Sys2Proof.Machine.execFaultreply s
  | .tpreEntry => Sys2Proof.Machine.execTpreEntry s
  | .tresume => Sys2Proof.Machine.execTresume s
  | .taskStart => Sys2Proof.Machine.execTaskStart s
  | .takeoverAdmission => Sys2Proof.Machine.execTakeoverAdmission s
  | .takeoverRestore => Sys2Proof.Machine.execTakeoverRestore s
  | .rollback => Sys2Proof.Machine.execRollback s
  | .checkpointHalt => Sys2Proof.Machine.execCheckpointHalt s
  | .checkpointPeriod => Sys2Proof.Machine.execCheckpointPeriod s
  | .dbgStop => Sys2Proof.Machine.execDbgStop s
  | .dbgStep => Sys2Proof.Machine.execDbgStep s
  | .dbgRun => Sys2Proof.Machine.execDbgRun s
  | .dbgRead => Sys2Proof.Machine.execDbgRead s
  | .dbgBpset => Sys2Proof.Machine.execDbgBpset s
  | .dbgChk => Sys2Proof.Machine.execDbgChk s
  | .getVersion => Sys2Proof.Machine.execGetVersion s
  | .getCapabilities => Sys2Proof.Machine.execGetCapabilities s
  | .negotiateAlgorithms => Sys2Proof.Machine.execNegotiateAlgorithms s
  | .getDigests => Sys2Proof.Machine.execGetDigests s
  | .getCertificate => Sys2Proof.Machine.execGetCertificate s
  | .challenge => Sys2Proof.Machine.execChallenge s
  | .getMeasurements => Sys2Proof.Machine.execGetMeasurements s
  | .keyExchange => Sys2Proof.Machine.execKeyExchange s
  | .finish => Sys2Proof.Machine.execFinish s
  | .spdmHeartbeat => Sys2Proof.Machine.execSpdmHeartbeat s
  | .keyUpdate => Sys2Proof.Machine.execKeyUpdate s
  | .endSession => Sys2Proof.Machine.execEndSession s
  | .keygen => Sys2Proof.Machine.execKeygen s
  | .keygrant => Sys2Proof.Machine.execKeygrant s
  | .keyzero => Sys2Proof.Machine.execKeyzero s
  | .keysend => Sys2Proof.Machine.execKeysend s
  | .fwload => Sys2Proof.Machine.execFwload s
  | .powerOnReset => Sys2Proof.Machine.execPowerOnReset s
  | .throttleTick => Sys2Proof.Machine.execThrottleTick s
  | .thermalTrip => Sys2Proof.Machine.execThermalTrip s
  | .holdoverEnter => Sys2Proof.Machine.execHoldoverEnter s

end Sys2Proof.Machine
end

