-- ==== Sys2Proof/Machine/Turn.lean ====
section
/-! DEFINITION. What a wall cycle does, core by core (R147 to R153, R166, R172): the events that are due, the turn of each
core, the contexts that wake, and the advance of the clocks. The meanings of instructions come in as `ex`. -/

namespace Sys2Proof.Machine

/-- The meaning of an instruction. -/
abbrev Exec := Instr → State → Host.Outcome State Fault Refusal

/-! The turn of a core. -/

/-- Whether issue is open on the device: it is in service, not tripped, and its coolant flows (R378, R379, R383). -/
def State.inService (s : State) : Bool := s.mgt.state == 3 && !s.mgt.trip && s.mgt.flow ≥ 6

/-- Whether throttling gates this wall cycle (R382): gating is lifted while a pre-emption has been requested. -/
def State.gated (s : State) : Bool := s.clk.wall % 16 ≥ s.mgt.duty && !(s.part.any fun x => x.2.asked && !x.2.halt)

/-- Whether a context in ISSUE goes on: not halted, not stopped, and not at the end of its task (R146, R212). -/
def Ctx.goes (c : Ctx) : Bool := !c.halt && !c.dbg.stop && c.fin.isNone

/-- Whether a core has something to do in this cycle. -/
def State.coreActs (s : State) (k : Nat) : Bool :=
  match (s.core k).holder with
  | some x => (s.ctx (k * 4 + x)).goes
  | none => (s.chooses k).isSome

/-- The next core, from the turn on, that has something to do. -/
def State.nextCore (s : State) : Option Nat :=
  (s.hw.find? fun x => coreOf x.1 ≥ s.clk.turn && s.coreActs (coreOf x.1)).map fun x => coreOf x.1

/-- Whether a core owns its hammer (R159); in SPLIT both cores of a pair do. -/
def State.ownsHammer (s : State) (h : Nat) : Bool :=
  let m := (s.taskDc (s.ctx h)).hmr
  bitOf m 0 || coreOf h % 2 == fld m 1 1

/-- Steps 2a to 2d of R172 for the slots present, in slot order: the first failure, with its slot. -/
def State.slotErr (s : State) (h : Nat) : List (Slot × Except DErr Instr) → Option (Slot × DErr)
  | [] => none
  | (sl, x) :: l =>
    if sl = .h ∧ !s.ownsHammer h then some (sl, { cause := 2, info := 0 })
    else
      match x with
      | .error e => some (sl, e)
      | .ok (.tpre _ _) => if s.priv (s.ctx h) then s.slotErr h l else some (sl, { cause := 4, info := 0 })
      | .ok _ => s.slotErr h l

/-- The operations present at an issue: the B slot acts at the last issue only (R166). -/
def presentOps (last : Bool) (ops : List (Slot × Except DErr Instr)) : List (Slot × Instr) :=
  ops.filterMap fun x =>
    match x with
    | (sl, .ok i) => if sl = .b ∧ !last then none else some (sl, i)
    | (_, .error _) => none

/-- The frame of an issue that begins (R166). -/
def State.beginIss (s : State) (h : Nat) (b : Bundle) : Iss :=
  let c := s.ctx h
  { h := h, addr := c.pc, size := b.hd.size, last := decide (c.prog.idx ≥ b.hd.rep.toNat), first := s.clk.tick, later := [],
    re := [], tgt := .seq, yield := false, after := none, stop := none, gone := false }

/-- One issue of a decoded bundle (R166 to R169): its marker at issue 0, then its slots, or the fold. -/
def issueBundle (ex : Exec) (s : State) (h : Nat) (b : Bundle) : Host.Outcome State Fault Refusal :=
  let c := s.ctx h
  let i := s.beginIss h b
  let mk : List Instr := match b.mark with | some e => if c.prog.idx = 0 then [.mark e] else [] | none => []
  if b.ops.isEmpty then
    runOps ex s i (mk ++ [if b.hd.hold = 1 then .idleHold b.hd.kind b.hd.rep else .idle b.hd.kind b.hd.rep]) none
      { s with iss := some i }
  else
    let p := planOf c (b.hd.hold == 1) (presentOps i.last b.ops)
    runIssue ex s i { p with ops := mk ++ p.ops }

/-- What follows an issue that took place: the pace of the checking mode (R154), the quench clock of its entry (R324), and the end of a
debug step (R376). -/
def State.issued (h : Nat) (s : State) : State :=
  match s.iss with
  | some i =>
    if i.gone ∧ i.stop.isNone then
      let s := s.modCtx h fun c => { c with dbg := { c.dbg with paced := s.clk.wall + 1 } }
      let s := match (s.ctx h).task with
        | some t => (match t.queue with | some e => if t.lead = 0 ∧ (s.ctx h).ccy.toNat ≤ 1 then s.clockStart e else s | none => s)
        | none => s
      if (s.ctx h).dbg.step ∧ !(s.ctx h).dbg.stop then s.debugStop h 4 0 else s
    else if (s.ctx h).dbg.step then
      match i.stop with
      | some (.block _) => (s.modCtx h fun c => { c with dbg := { c.dbg with stop := true, step := false } }).debugDrain h 60
      | _ => s
    else s
  | none => s

/-- An outcome changed where it goes on. -/
def thenDo (r : Host.Outcome State Fault Refusal) (f : State → State) : Host.Outcome State Fault Refusal :=
  match r with
  | .next s => .next (f s)
  | r => r

/-- The bundle at the PC presented for issue: breakpoints (R376), the fetch (R165), the checks of R172, the issue. -/
def presentBundle (ex : Exec) (s : State) (h : Nat) : Host.Outcome State Fault Refusal :=
  let c := s.ctx h
  if bitOf c.sys.chk 0 && c.dbg.paced == s.clk.wall then .next s
  else if c.prog.idx == 0 && !c.dbg.past && c.breakAt c.pc then .next (s.debugStop h 2 0)
  else
    match s.fetchBundle h c.pc with
    | (.error e, s1) => .next (s1.trapOrStop h c.pc c.prog.idx (fetchTrap e))
    | (.ok b, s1) =>
      match s1.slotErr h b.ops with
      | some (sl, e) =>
        .next (s1.trapOrStop h c.pc c.prog.idx
          { cause := e.cause.toNat, info := e.info, slot := sl.num, asy := false, sregs := [], regs := [], mem := [], blk := none })
      | none => thenDo (issueBundle ex (s1.firstIssue h) h b) (State.issued h)

/-- The turn of a core (R148, R150, R153): latches due commit, or the context stalls; then its bundle is presented. A core
whose stage is free grants it first. -/
def coreTurn (ex : Exec) (s : State) (k : Nat) : Host.Outcome State Fault Refusal :=
  let s' := { s with clk := { s.clk with turn := k + 1 } }
  match (s.core k).holder with
  | none => ex (.issueStageGrant k) { s with clk := { s.clk with turn := k } }
  | some x =>
    let h := k * 4 + x
    if !(dueSplit (s.ctx h).lats).1.isEmpty then ex (.latchCommit h) { s with clk := { s.clk with turn := k } }
    else if (s.ctx h).lats.any fun l => l.dist == 0 then ex (.stallCycle h) s'
    else presentBundle ex s' h

/-! The end of a wall cycle. -/

/-- A blocked context whose condition has come to hold (R151). -/
def State.waking (s : State) : Option Nat :=
  (s.hw.find? fun x =>
    x.2.st == .blocked && !x.2.halt && (match x.2.why with | some w => s.holds x.1 w | none => false)).map (·.1)

/-- What the package counts in the next wall cycle: 10 ns in 11 cycles. -/
def State.nsNext (s : State) : Nat := if (s.clk.wall + 1) % 11 = 0 then 0 else 1

/-- A device's servo in a cycle in which the count advances: one nanosecond of what is to be slewed, at most 500 in a second, so that
`now` never steps backward (R327). -/
def Timebase.slewed (t : Timebase) : Timebase :=
  if t.slew > 0 then { t with slew := t.slew - 1, skew := t.skew + 1 }
  else if t.slew < 0 then { t with slew := t.slew + 1, skew := t.skew - 1 }
  else t

/-- The samples of a wall cycle (R377): one for each context that holds an issue stage and whose period ends here. -/
def State.samples (s : State) : State :=
  s.hw.foldl (fun s x =>
    let w := mget 0 (s.taskDc x.2).drcfg 1
    if x.2.st = .issue ∧ x.2.goes ∧ bitOf w 0 ∧ fld w 15 8 ≠ 0 ∧ s.clk.wall % 2 ^ fld w 15 8 = 0 then s.sched 0 (.sampleRecord x.1) else s) s

/-- The debug stops of the contexts that run the task of an entry on the device that launched it, one for each. -/
def State.taskStops (s : State) (dev ent : Nat) : List Bool :=
  (s.hw.filter fun x => s.devOf x.1 == dev &&
    (match x.2.task with | some t => t.queue == some ent && t.lead == 0 | none => false)).map (·.2.dbg.stop)

/-- A quench clock stops while every context of its task is stopped for debug, and goes on when one is released (R376). -/
def State.paceQuench (s : State) : State :=
  s.bel.qs.foldl (fun s x =>
    match x.2.clocked with
    | none => s
    | some e =>
      let l := s.taskStops (s.queueDev x.1) e.id
      let put (e' : QEnt) : State := s.modQueue x.1 fun k => { k with ents := k.ents.map fun y => if y.id = e.id then e' else y }
      if e.since.isSome ∧ !l.isEmpty ∧ l.all (· == true) then put { e with clk := e.elapsed s.clk.wall, since := none }
      else if e.since.isNone ∧ e.clk ≠ 0 ∧ l.any (· == false) then (put { e with since := some s.clk.wall }).armQuench x.1
      else s) s

/-- The next wall cycle: w advances unless the cycle was gated (R159, R382). -/
def State.tick (s : State) : State :=
  let tbs := if s.clk.wall % 2200000 = 0 then s.tbs.map fun x => (x.1, x.2.slewed) else s.tbs
  let w := if s.gated then s.clk.w else s.clk.w + 1
  ({ s with clk := { s.clk with wall := s.clk.wall + 1, turn := 0, now := s.clk.now + BitVec.ofNat 64 s.nsNext, w := w },
            tbs := tbs, iss := none }).samples.paceQuench

/-- Whether cores take turns in this cycle. -/
def State.issuing (s : State) : Bool := s.inService && !s.gated

/-! A program placed from outside; assumption log 4. -/

/-- The task that runs placed code: level 2 of the management context of device 0, its code section from byte 0x3_0000 of
physical memory on (R308). -/
def placedTask : Task :=
  { dev := 0, dctx := 0, lvl := 2, cbase := 0x30000, csize := 2 ^ 32, key := 0, image := 0, parent := none, queue := none,
    lead := 0, gang := none, chan := [], occ := [] }

/-- Context 0 of core 0 made the one that issues next, with the bytes given at its PC: the device is in service and no
event stands before the issue. -/
def State.placed (s : State) (bs : List Byte) : State :=
  let c := s.ctx 0
  let c := { c with
    st := .issue, halt := false, fin := none, task := some placedTask, prog := Progress.zero,
    lats := c.lats.filter fun l => l.dist != 0,
    dbg := { c.dbg with stop := false, past := true, paced := s.clk.wall + 1 } }
  let s := { s with
    agenda := [], iss := none, clk := { s.clk with turn := 0 },
    mgt := { s.mgt with state := 3, trip := false, flow := 6, duty := 16 },
    res := mput 0 s.res 0 1 }
  let s := s.modDc 0 0 fun d => { d with live := true }
  let s := (s.setCtx 0 c).modCore 0 fun k => { k with holder := some 0, fenced := false }
  let a := s.hbmAddr 0 (0x30000 + c.pc.toNat)
  if s.hbmAddr 0 (0x30000 + c.pc.toNat + bs.length) = a + bs.length ∧ a % 64 = 0 then s.writeBytes (s.hbmPlace 0 (0x30000 + c.pc.toNat) 0) bs
  else s.virtWrite 0 0 (0x30000 + c.pc.toNat) 0 bs

/-- One step: an event that is due, else the turn of the next core, else a context that wakes, else the end of the wall
cycle; assumption log 1. -/
def stepWith (ex : Exec) (s : State) : Host.Outcome State Fault Refusal :=
  match s.agenda with
  | (t, e) :: l => if t ≤ s.clk.wall then ex e { s with agenda := l, iss := none } else turns
  | [] => turns
where
  turns : Host.Outcome State Fault Refusal :=
    let s := { s with iss := none }
    match (if s.issuing then s.nextCore else none) with
    | some k => coreTurn ex s k
    | none =>
      match s.waking with
      | some h => ex (.contextWake h) s
      | none => .next s.tick

end Sys2Proof.Machine
end

