-- ==== Sys2Proof/Machine/Step.lean ====
section
/-! DEFINITION. One step of the machine, and a state whose next step runs an instruction given by its bits. -/

namespace Sys2Proof.Machine

/-- One step: an event that is due, the turn of a core, a context that wakes, or the end of a wall cycle; assumption
log 1. -/
def step (s : State) : Host.Outcome State Fault Refusal := stepWith exec s

/-- A state in which the next step issues the bundle that `w` holds: it lies at the PC of context 0 of core 0, which runs
a task of the management context; assumption log 4. -/
def State.withFetchWord (s : State) (nbits w : Nat) : State :=
  s.placed (leBytes (nbits / 8) w ++ List.replicate 64 0#8)

end Sys2Proof.Machine
end

