-- ==== Sys2Proof/Safety.lean ====
section
/-! DEFINITION. What counts as a safe run: steps that end neither in a fault nor in a refusal. -/

namespace Sys2Proof

/-- A step that goes on. -/
def goesOn (s : Machine.State) : Prop := ∃ t, Machine.step s = .next t

/-- A run of `n` steps that goes on. -/
def SafeFor : Nat → Machine.State → Prop
  | 0, _ => True
  | n + 1, s => ∃ t, Machine.step s = .next t ∧ SafeFor n t

end Sys2Proof
end

