-- ==== Sys2Proof/Certificates/Slice0/Obligations.lean ====
section
/-! DEFINITION. The statements about the machine, and the terms they are made in. -/

namespace Sys2Proof.Claims

open Sys2Proof.Machine

/-! Terms. -/

/-- The operation with guard `g` takes part in the issue `i` that is in progress (R171). -/
def Issues (s : State) (i : Iss) (g : Guard) : Prop := s.iss = some i ∧ (s.ctx i.h).guard g = true

/-- One of the 64 exposed latches of a context is free (R148). -/
def LatchFree (s : State) (h : Nat) : Prop := ((s.ctx h).lats.filter fun l => l.occ).length < 64

/-- A state in which a context holds one more latch, with its result, behind the others: it lands `dist` context cycles from
the issue (R148). -/
def latched (s : State) (h : Nat) (sl : Slot) (dist : Nat) (ws : List Wr) (code : Nat) (tile : Bool) : State :=
  let l : Latch := { tok := s.clk.tick, slot := sl.num, code := code, dist := dist, here := true, occ := true, tile := tile, wrs := ws }
  s.bump.modCtx h fun c => { c with lats := c.lats ++ [l] }

/-- A state in which the bundle after the issue in progress is at an address (R166). -/
def aimed (s : State) (a : Word) : State := { s with iss := s.iss.map fun k => { k with tgt := .addr a } }

/-- An issue stopped by a trap raised at it: cause, slot and INFO, with the registers the cause also writes (R155, R225). -/
def trapAt (cause : Nat) (sl : Slot) (info : Nat) (regs : List (Nat × Word)) : Stop :=
  .trap { cause := cause, info := info, slot := sl.num, asy := false, sregs := regs, regs := [], mem := [], blk := none }

/-- The issue in progress was neither stopped nor trapped. -/
def Unstopped (s : State) : Prop := ∃ i, s.iss = some i ∧ i.stop = none

/-! Numbers. -/

/-- The number of leading zero bits is `n`. -/
def LeadingZeros (x : Word) (n : Nat) : Prop :=
  n ≤ 64 ∧ (∀ k, 64 - n ≤ k → x.getLsbD k = false) ∧ (n < 64 → x.getLsbD (63 - n) = true)

/-- The two-source operations of the S slot that cannot trap, each with its OP and VAR, its latency, and its result in exact arithmetic
(R192, R213, R214). -/
def scalarTwo : List ((BitVec 8 × BitVec 3) × (Guard → Opnd → Opnd → Opnd → Instr) × Nat × (Word → Word → Word)) :=
  [((0x00, 0), .add, 1, fun b c => BitVec.ofInt 64 (b.toInt + c.toInt)),
   ((0x01, 0), .sub, 1, fun b c => BitVec.ofInt 64 (b.toInt - c.toInt)),
   ((0x02, 0), .mul, 3, fun b c => BitVec.ofNat 64 (b.toNat * c.toNat)),
   ((0x03, 0), (fun g => .mulh g 0), 4, fun b c => BitVec.ofInt 64 (b.toInt * c.toInt / 2 ^ 64)),
   ((0x03, 1), (fun g => .mulh g 1), 4, fun b c => BitVec.ofNat 64 (b.toNat * c.toNat / 2 ^ 64)),
   ((0x08, 0), .andS, 1, fun b c => b &&& c),
   ((0x09, 0), .orS, 1, fun b c => b ||| c),
   ((0x0A, 0), .xorS, 1, fun b c => b ^^^ c),
   ((0x0C, 0), .shl, 1, fun b c => if c.toNat < 64 then BitVec.ofNat 64 (b.toNat * 2 ^ c.toNat) else 0),
   ((0x0D, 0), .shr, 1, fun b c => if c.toNat < 64 then BitVec.ofNat 64 (b.toNat / 2 ^ c.toNat) else 0),
   ((0x0E, 0), .sra, 1, fun b c => BitVec.ofInt 64 (b.toInt / 2 ^ (min c.toNat 63))),
   ((0x10, 0), .min, 1, fun b c => BitVec.ofInt 64 (min b.toInt c.toInt)),
   ((0x11, 0), .max, 1, fun b c => BitVec.ofInt 64 (max b.toInt c.toInt)),
   ((0x12, 0), .minn, 1, fun b c => BitVec.ofNat 64 (min b.toNat c.toNat)),
   ((0x13, 0), .maxn, 1, fun b c => BitVec.ofNat 64 (max b.toNat c.toNat))]

/-- The divisions, each with its OP and REM, and its result for a divisor other than 0: truncated toward zero, the remainder with the sign
of the dividend (R214). -/
def scalarDivisions : List ((BitVec 8 × BitVec 1) × (Guard → Opnd → Opnd → Opnd → Instr) × (Word → Word → Word)) :=
  [((0x04, 0), .divs, fun b c => BitVec.ofInt 64 (b.toInt.tdiv c.toInt)),
   ((0x04, 1), .rems, fun b c => BitVec.ofInt 64 (b.toInt.tmod c.toInt)),
   ((0x05, 0), .divn, fun b c => BitVec.ofNat 64 (b.toNat / c.toNat)),
   ((0x05, 1), .remn, fun b c => BitVec.ofNat 64 (b.toNat % c.toNat))]

/-- A word of format O of the S slot, from its fields (R170): OP, guard, VAR, the operands A, B and C, and MOD; D is 0. -/
def sWord (op : BitVec 8) (g : Guard) (var : BitVec 3) (a b c : BitVec 8) (mod : BitVec 16) : Word :=
  op ++ g.p ++ g.n ++ var ++ a ++ b ++ c ++ 0#8 ++ mod

/-- The condition codes of `cmp`: signed, or natural for 6 and 7 (R184). -/
def condition (cc : BitVec 3) (b c : Word) : Prop :=
  match cc.toNat with
  | 0 => b = c
  | 1 => b ≠ c
  | 2 => b.toInt < c.toInt
  | 3 => b.toInt ≤ c.toInt
  | 4 => c.toInt < b.toInt
  | 5 => c.toInt ≤ b.toInt
  | 6 => b.toNat < c.toNat
  | _ => c.toNat ≤ b.toNat

/-- The opcodes that the map of a slot assigns (R185 to R191). -/
def assignedOpcodes : Slot → List Nat
  | .b => [0x00, 0x01, 0x02, 0x03, 0x04, 0x05, 0x06, 0x08, 0x09, 0x10, 0x11, 0x12, 0x13, 0x14, 0x18, 0x19, 0x1A, 0x1C]
  | .s => [0x00, 0x01, 0x02, 0x03, 0x04, 0x05, 0x08, 0x09, 0x0A, 0x0C, 0x0D, 0x0E, 0x10, 0x11, 0x12, 0x13, 0x14, 0x15, 0x18, 0x19,
           0x1A, 0x1B, 0x20, 0x21, 0x22, 0x23, 0x24, 0x25, 0x30, 0x31, 0x32, 0x33, 0x34, 0x35, 0x36, 0x37, 0x38]
  | .m => [0x00, 0x01, 0x02, 0x03, 0x04, 0x05, 0x06, 0x07, 0x08, 0x09, 0x0A, 0x0B, 0x0C, 0x10, 0x11, 0x18, 0x19, 0x1A, 0x1B, 0x1C,
           0x1D, 0x20, 0x21, 0x22, 0x23, 0x24, 0x25] ++ (List.range 40).map (0x40 + ·) ++ (List.range 10).map (0x70 + ·)
  | .v => [0x00, 0x01, 0x02, 0x03, 0x04, 0x05, 0x06, 0x07, 0x08, 0x09, 0x0A, 0x0B, 0x0C, 0x0D, 0x0E, 0x10, 0x11, 0x18, 0x19, 0x20,
           0x21, 0x22, 0x28, 0x29, 0x2A, 0x2B, 0x2C, 0x2D, 0x2E, 0x30, 0x31, 0x32, 0x33]
  | .x => [0x00, 0x01, 0x02, 0x03, 0x04, 0x05, 0x06]
  | .h => [0x00, 0x01, 0x02, 0x03]
  | .t => [0x00, 0x01, 0x02, 0x03, 0x08, 0x09, 0x0A, 0x0B, 0x10, 0x18, 0x19, 0x1C, 0x1D]

end Sys2Proof.Claims

open Sys2Proof Sys2Proof.Machine Sys2Proof.Claims

/-! Encodings. -/

/-- R163, R164, R170 and R185 to R191: the bytes of the bundle that holds a well-formed instruction read back as that
instruction, in every family and with every operand at every value. -/
def Obligations.BundleReadsBackAsWritten : Prop :=
  ∀ i : Instr, i.wf = true → encode i ≠ [] →
    ∃ b, decodeBundle (encode i) = some b ∧
      ((∃ e, i = .mark e ∧ b.mark = some e ∧ b.ops = [] ∧ b.hd.hold = 0 ∧ b.hd.rep = 0) ∨ ((∀ e, i ≠ .mark e) ∧ b.single = some i))

/-- R172 step 2a: a slot word whose opcode the map of its slot leaves unassigned is no instruction, and raises the
illegal-operation trap. -/
def Obligations.UnassignedOpcodesAreIllegal : Prop :=
  ∀ (sl : Slot) (w : Word),
    (w.extractLsb' 56 8).toNat ∉ assignedOpcodes sl →
    decodeSlot sl w = .error { cause := 0x02, info := 0 }

/-- Words the spec writes out (R197, R208, R216, R218, R220, R221, R224) decode to the instructions they stand for. -/
def Obligations.WrittenWordsDecode : Prop :=
  decodeSlot .s 0x1800050000BCDEF0 = .ok (.li ⟨0, 0⟩ (.g 5) 0xBCDEF0) ∧
  decodeSlot .s 0x190005000056789A = .ok (.lihM ⟨0, 0⟩ 5 0x56789A) ∧
  decodeSlot .s 0x1901050000001234 = .ok (.lihH ⟨0, 0⟩ 5 0x1234) ∧
  decodeSlot .s 0x3000402300000000 = .ok (.agset ⟨0, 0⟩ (.rp 0) 3) ∧
  decodeSlot .s 0x3400040000000000 = .ok (.bxinfo ⟨0, 0⟩ (.g 4) 0 0 0) ∧
  decodeSlot .s 0x3300057104000010 = .ok (.shape ⟨0, 0⟩ 0 0 (.g 5) (.imm 17) (.g 4) 1) ∧
  decodeSlot .s 0x3600000E00000030 = .ok (.sset ⟨0, 0⟩ (.g 14) 3) ∧
  decodeSlot .b 0x1000000000FC0FFF = .ok (.wait ⟨0, 0⟩ 0xFC0FFF)

/-! The scalar slot (R192 to R200, R213 to R224). -/

/-- R192: what a scalar source of the S slot reads. A register, an immediate or a bypass is read and nothing changes; cq and eq give
their head and lose it. -/
def Obligations.ScalarSourcesRead : Prop :=
  ∀ (s : State) (h k : Nat),
    (∀ n, rdScalar h (.g n) k s = .ok ((s.ctx h).g n, s)) ∧
    (∀ n : BitVec 5, rdScalar h (.imm n) k s = .ok (BitVec.ofInt 64 ((n.toNat : Int) - 16), s)) ∧
    rdScalar h (.sb 0) k s = .ok ((s.ctx h).byp.sb0, s) ∧ rdScalar h (.sb 1) k s = .ok ((s.ctx h).byp.sb1, s) ∧
    (∀ b l, (s.ctx h).q.cq = b :: l →
      rdScalar h .cq k s = .ok (if b then 1 else 0, s.modCtx h fun c => { c with q := { c.q with cq := l } })) ∧
    (∀ r l, (s.ctx h).q.eq = r :: l → ∃ t, rdScalar h .eq k s = .ok (r.extractLsb' 0 64, t) ∧ (t.ctx h).q.eq = l ∧ t.mem = s.mem) ∧
    ((s.ctx h).q.cq = [] → rdScalar h .cq k s = .error (.block .cqEmpty)) ∧
    ((s.ctx h).q.eq = [] → rdScalar h .eq k s = .error (.block .eqEmpty))

/-- R213 and R214, with the latencies of R192: the two-source operations, the products and the divisions of the S slot. Their words carry OP,
VAR and REM as the tables give them; each takes an exposed latch that holds its result, exact and wrapped to 64 bits, and changes nothing
beside the queues its operands name, no flag among it; a division by 0 raises integer divide by zero, precise, at the issue. -/
def Obligations.ScalarArithmetic : Prop :=
  (∀ op ∈ scalarTwo, ∀ (g : Guard) (d b c : Opnd), (op.2.1 g d b c).wf = true →
    decodeSlot .s (sWord op.1.1 g op.1.2 d.code b.code c.code 0) = .ok (op.2.1 g d b c)) ∧
  (∀ op ∈ scalarDivisions, ∀ (g : Guard) (d b c : Opnd), (op.2.1 g d b c).wf = true →
    decodeSlot .s (sWord op.1.1 g 0 d.code b.code c.code (0#11 ++ op.1.2 ++ 0#4)) = .ok (op.2.1 g d b c)) ∧
  (∀ op ∈ scalarTwo, ∀ (g : Guard) (d b c : Opnd) (s s1 s2 s3 : State) (i : Iss) (x y : Word) (ws : List Wr),
    Issues s i g → rdScalar i.h b 1 s = .ok (x, s1) → rdScalar i.h c 2 s1 = .ok (y, s2) →
    wrScalar i.h d (op.2.2.2 x y) s2 = .ok (ws, s3) → LatchFree s3 i.h →
    exec (op.2.1 g d b c) s = .next (latched s3 i.h .s op.2.2.1 ws d.code.toNat false)) ∧
  (∀ op ∈ scalarDivisions, ∀ (g : Guard) (d b c : Opnd) (s s1 s2 : State) (i : Iss) (x y : Word),
    Issues s i g → rdScalar i.h b 1 s = .ok (x, s1) → rdScalar i.h c 2 s1 = .ok (y, s2) →
    (∀ s3 ws, y ≠ 0 → wrScalar i.h d (op.2.2 x y) s2 = .ok (ws, s3) → LatchFree s3 i.h →
      exec (op.2.1 g d b c) s = .next (latched s3 i.h .s 20 ws d.code.toNat false)) ∧
    (y = 0 → exec (op.2.1 g d b c) s = .next (s.stopIssue i (trapAt 0x12 .s 0 []))))

/-- R215 and R217: `clz`, `popc`, `mov` and `sel`, their words, and their results after one cycle. `sel` reads both sources whatever the
predicate. -/
def Obligations.CountsMovesAndSelects : Prop :=
  ∀ (g : Guard) (d b c : Opnd),
    ((Instr.clz g d b).wf = true → decodeSlot .s (sWord 0x14 g 0 d.code b.code 0 0) = .ok (.clz g d b)) ∧
    ((Instr.popc g d b).wf = true → decodeSlot .s (sWord 0x15 g 0 d.code b.code 0 0) = .ok (.popc g d b)) ∧
    ((Instr.mov g d b).wf = true → decodeSlot .s (sWord 0x1A g 0 d.code b.code 0 0) = .ok (.mov g d b)) ∧
    (∀ (neg : BitVec 1) (p : BitVec 4), (Instr.sel g d b c neg p).wf = true →
      decodeSlot .s (sWord 0x1B g 0 d.code b.code c.code (0#7 ++ neg ++ p ++ 0#4)) = .ok (.sel g d b c neg p)) ∧
    ∀ (s s1 s2 : State) (i : Iss), Issues s i g →
      (∀ x n s3 ws, rdScalar i.h b 1 s = .ok (x, s1) → LeadingZeros x n → wrScalar i.h d (BitVec.ofNat 64 n) s1 = .ok (ws, s3) →
        LatchFree s3 i.h → exec (.clz g d b) s = .next (latched s3 i.h .s 1 ws d.code.toNat false)) ∧
      (∀ x s3 ws, rdScalar i.h b 1 s = .ok (x, s1) →
        wrScalar i.h d (BitVec.ofNat 64 ((List.range 64).countP fun k => x.getLsbD k)) s1 = .ok (ws, s3) →
        LatchFree s3 i.h → exec (.popc g d b) s = .next (latched s3 i.h .s 1 ws d.code.toNat false)) ∧
      (∀ x s3 ws, rdScalar i.h b 1 s = .ok (x, s1) → wrScalar i.h d x s1 = .ok (ws, s3) →
        LatchFree s3 i.h → exec (.mov g d b) s = .next (latched s3 i.h .s 1 ws d.code.toNat false)) ∧
      (∀ x y (neg : BitVec 1) (p : BitVec 4) s3 ws, rdScalar i.h b 1 s = .ok (x, s1) → rdScalar i.h c 2 s1 = .ok (y, s2) →
        wrScalar i.h d (if (s2.ctx i.h).pred p = (neg == 0) then x else y) s2 = .ok (ws, s3) →
        LatchFree s3 i.h → exec (.sel g d b c neg p) s = .next (latched s3 i.h .s 1 ws d.code.toNat false))

/-- R199: the predicate operations: their words, with the operands in MOD, their results after one cycle, and what the result leaves when it
lands; p0 reads true whatever is written to it. -/
def Obligations.PredicateOperations : Prop :=
  ∀ (g : Guard) (pb pa pd : BitVec 4),
    decodeSlot .s (sWord 0x22 g 0 0 0 0 (pb ++ pa ++ pd ++ 0#4)) = .ok (.pand g pb pa pd) ∧
    decodeSlot .s (sWord 0x23 g 0 0 0 0 (pb ++ pa ++ pd ++ 0#4)) = .ok (.por g pb pa pd) ∧
    decodeSlot .s (sWord 0x24 g 0 0 0 0 (pb ++ pa ++ pd ++ 0#4)) = .ok (.pxor g pb pa pd) ∧
    decodeSlot .s (sWord 0x25 g 0 0 0 0 (0#4 ++ pa ++ pd ++ 0#4)) = .ok (.pnot g pa pd) ∧
    (∀ (s : State) (i : Iss), Issues s i g → LatchFree s i.h →
      let p := (s.ctx i.h).pred
      exec (.pand g pb pa pd) s = .next (latched s i.h .s 1 [.pred pd (p pa && p pb)] 0 false) ∧
      exec (.por g pb pa pd) s = .next (latched s i.h .s 1 [.pred pd (p pa || p pb)] 0 false) ∧
      exec (.pxor g pb pa pd) s = .next (latched s i.h .s 1 [.pred pd (p pa != p pb)] 0 false) ∧
      exec (.pnot g pa pd) s = .next (latched s i.h .s 1 [.pred pd (!p pa)] 0 false)) ∧
    (∀ (c : Ctx) (v : Bool) (n : BitVec 4), (c.apply (.pred pd v)).pred n = if n = 0 then true else if n = pd then v else c.pred n)

/-- R197, R198 and R216: the immediate loads, the compares and the mask tests, each after one cycle. -/
def Obligations.ImmediatesAndCompares : Prop :=
  ∀ (g : Guard) (b c : Opnd) (s s1 s2 : State) (i : Iss), Issues s i g →
    (∀ d (imm : BitVec 24) s3 ws, wrScalar i.h d (BitVec.ofInt 64 imm.toInt) s = .ok (ws, s3) →
      LatchFree s3 i.h → exec (.li g d imm) s = .next (latched s3 i.h .s 1 ws d.code.toNat false)) ∧
    (∀ (n : BitVec 5) (imm : BitVec 24), LatchFree s i.h →
      let x := (s.ctx i.h).g n
      let v := (x.extractLsb' 48 16 ++ imm ++ x.extractLsb' 0 24 : Word)
      exec (.lihM g n imm) s = .next (latched s i.h .s 1 [.bytes (8 * n.toNat) (toBytes 8 v.toNat), .sb v] n.toNat false)) ∧
    (∀ (n : BitVec 5) (imm : BitVec 16), LatchFree s i.h →
      let x := (s.ctx i.h).g n
      let v := (imm ++ x.extractLsb' 0 48 : Word)
      exec (.lihH g n imm) s = .next (latched s i.h .s 1 [.bytes (8 * n.toNat) (toBytes 8 v.toNat), .sb v] n.toNat false)) ∧
    (∀ cc x y, rdScalar i.h b 1 s = .ok (x, s1) → rdScalar i.h c 2 s1 = .ok (y, s2) →
      (∀ n, LatchFree s2 i.h →
        ∃ t, (t = true ↔ condition cc x y) ∧ exec (.cmp g cc (.pred n) b c) s = .next (latched s2 i.h .s 1 [.pred n t] 0 false)) ∧
      (∀ o s3 ws t, (t = true ↔ condition cc x y) → wrScalar i.h o (if t then 1 else 0) s2 = .ok (ws, s3) → LatchFree s3 i.h →
        exec (.cmp g cc (.val o) b c) s = .next (latched s3 i.h .s 1 ws o.code.toNat false))) ∧
    (∀ neg p x y, rdScalar i.h b 1 s = .ok (x, s1) → rdScalar i.h c 2 s1 = .ok (y, s2) → LatchFree s2 i.h →
      ∃ t, (t = true ↔ ((∃ k, x.getLsbD k = true ∧ y.getLsbD k = true) ↔ neg = 0)) ∧
        exec (.setp g neg p (.val b) c) s = .next (latched s2 i.h .s 1 [.pred p t] 0 false)) ∧
    (∀ neg p k y, rdScalar i.h c 2 s = .ok (y, s2) → LatchFree s2 i.h →
      ∃ t, (t = true ↔ ((∃ j, (mget 0 (s.ctx i.h).sys.ts (k : BitVec 3).toNat).getLsbD j = true ∧ y.getLsbD j = true) ↔ neg = 0)) ∧
        exec (.setp g neg p (.ts k) c) s = .next (latched s2 i.h .s 1 [.pred p t] 0 false))

/-- R219 to R222: view registers, the shape grant, descriptor fields (those of a shard as R105 and R120 give them), and tile status. -/
def Sys2Proof.Claims.ScalarConfiguration : Prop :=
  ∀ (g : Guard) (d b c : Opnd) (s s1 s2 : State) (i : Iss), Issues s i g →
    (∀ (v : BitVec 5) x, rdScalar i.h b 1 s = .ok (x, s1) → LatchFree s1 i.h →
      ∃ y, (∀ k, y.getLsbD k = (x.getLsbD k && (k < 8 || (20 ≤ k && k < 47) || 50 ≤ k))) ∧
        exec (.view g v b) s = .next (latched s1 i.h .s 1 [.vd v.toNat y] 0 false)) ∧
    (∀ (mz tz : BitVec 1) (fmt : BitVec 5) x y s3 ws, fmtOk fmt.toNat = true →
      rdScalar i.h b 1 s = .ok (x, s1) → rdScalar i.h c 2 s1 = .ok (y, s2) →
      let r := (max 0 (min x.toInt 32)).toNat
      let k := (max 0 (min y.toInt (colCap fmt.toNat))).toNat
      wrScalar i.h d (BitVec.ofNat 64 (r * k)) s2 = .ok (ws, s3) → LatchFree s3 i.h →
      ∃ sh, fld sh 63 23 = 0 ∧ fld sh 22 22 = mz.toNat ∧ fld sh 21 21 = tz.toNat ∧ fld sh 20 16 = fmt.toNat ∧ fld sh 15 10 = r ∧
        fld sh 9 0 = k ∧
        exec (.shape g mz tz d b c fmt) s = .next (latched s3 i.h .s 1 (.sreg 0x001 sh :: ws) d.code.toNat false)) ∧
    (∀ (bx : BitVec 4) (sel : BitVec 6) s3 ws, sel.toNat ≤ 16 →
      let x := (s.ctx i.h).box bx.toNat
      (x.valid = true → x.level ≠ 3) →
      wrScalar i.h d (BitVec.ofNat 64 (if x.valid then (if sel.toNat ≤ 3 then x.ext sel.toNat else if sel.toNat = 4 then x.rank
        else if sel.toNat = 5 then x.fmt else if sel.toNat = 6 then x.acc else if sel.toNat = 7 then x.level
        else if sel.toNat = 8 then 1 else if sel.toNat ≤ 12 then x.ext (sel.toNat - 9) else 0) else 0)) s = .ok (ws, s3) →
      LatchFree s3 i.h → exec (.bxinfo g d 0 bx sel) s = .next (latched s3 i.h .s 1 ws d.code.toNat false)) ∧
    (∀ (bx : BitVec 4) (n : BitVec 5) (sel : BitVec 6) t s3 ws, 9 ≤ sel.toNat → sel.toNat ≤ 16 → (s.ctx i.h).task = some t →
      let x := (s.ctx i.h).box bx.toNat
      let dc := s.dc t.dev t.dctx
      let m := if n = 0 then dc.mco else (s.ctx i.h).g n
      x.valid = true → x.level = 3 → (n ≠ 0 → meshCheck bx.toNat dc.msh m = .ok ()) →
      wrScalar i.h d (bxinfoVal dc.msh m x (s.entry t.dev t.dctx x) sel.toNat) s = .ok (ws, s3) →
      LatchFree s3 i.h → exec (.bxinfo g d n bx sel) s = .next (latched s3 i.h .s 1 ws d.code.toNat false)) ∧
    (∀ (k : BitVec 3) s3 ws, wrScalar i.h d (mget 0 (s.ctx i.h).sys.ts k.toNat) s = .ok (ws, s3) →
      LatchFree s3 i.h → exec (.tsget g d k) s = .next (latched s3 i.h .s 1 ws d.code.toNat false))

/-- The numbers of system registers (R223). -/
def Sys2Proof.Claims.sregAssigned (n : Nat) : Prop := n ≤ 0x027 ∨ (0x040 ≤ n ∧ n ≤ 0x042)

/-- The numbers of registers that no `sset` writes (R223). -/
def Sys2Proof.Claims.sregFixed (n : Nat) : Prop := n = 0x002 ∨ (0x004 ≤ n ∧ n ≤ 0x009) ∨ n = 0x00E ∨ n = 0x00F ∨ n = 0x024 ∨ n = 0x025

/-- The numbers of registers that only a privileged context writes (R223). -/
def Sys2Proof.Claims.sregPrivileged (n : Nat) : Prop := 0x040 ≤ n ∧ n ≤ 0x042

/-- R223 and R224: `sget` and `sset` complete on every register of the table, and an unassigned number, a read-only register and a
privileged one without privilege raise their traps and leave the register unchanged. -/
def Sys2Proof.Claims.SystemRegisterAccess : Prop :=
  ∀ (g : Guard) (d b : Opnd) (num : BitVec 12) (s : State) (i : Iss), Issues s i g →
    let n := num.toNat
    (∀ v s3 ws, s.sregRead i.h n = some v → (n = 0x042 → s.priv (s.ctx i.h) = true) → wrScalar i.h d v s = .ok (ws, s3) →
      LatchFree s3 i.h → exec (.sget g d num) s = .next (latched s3 i.h .s 1 ws d.code.toNat false)) ∧
    (sregAssigned n ↔ (s.sreg i.h n).isSome = true) ∧
    ((∀ l < 4, ((s.ctx i.h).loop l).held = []) → s.sregRead i.h n = s.sreg i.h n) ∧
    (¬ sregAssigned n → exec (.sget g d num) s = .next (s.stopIssue i (trapAt 0x03 .s 10 [])) ∧
      exec (.sset g b num) s = .next (s.stopIssue i (trapAt 0x03 .s 10 []))) ∧
    (n = 0x042 → s.priv (s.ctx i.h) = false → exec (.sget g d num) s = .next (s.stopIssue i (trapAt 0x04 .s 0 []))) ∧
    (sregFixed n → exec (.sset g b num) s = .next (s.stopIssue i (trapAt 0x02 .s 0 []))) ∧
    (sregPrivileged n → s.priv (s.ctx i.h) = false → exec (.sset g b num) s = .next (s.stopIssue i (trapAt 0x04 .s 0 []))) ∧
    (∀ v s1, sregAssigned n → ¬ sregFixed n → (sregPrivileged n → s.priv (s.ctx i.h) = true) → rdScalar i.h b 1 s = .ok (v, s1) →
      (n = 0x001 → fmtOk (fld v 20 16) = true) → (n = 0x027 → fld v 3 0 ≤ 8) → (n = 0x003 → s.cgmBusy i.h v = false) →
      LatchFree s1 i.h → exec (.sset g b num) s = .next (latched s1 i.h .s 1 [.sreg n v] 0 false))

/-- R6, R46, R121, R196, R223 and R226: a committed write of a system register reads back, with its reserved bits 0. -/
def Sys2Proof.Claims.SystemRegisterReadsBack : Prop :=
  ∀ (s : State) (h : Nat) (v : Word) (t : Task), (s.ctx h).task = some t →
    (s.putSreg h 0x000 v).sreg h 0x000 = some (v &&& 0x1F) ∧
    (s.putSreg h 0x003 v).sreg h 0x003 = some (v &&& 0xFFFF) ∧
    (s.putSreg h 0x00B v).sreg h 0x00B = some v ∧
    (s.putSreg h 0x00D v).sreg h 0x00D = some (v &&& 0xFFFFFFFC) ∧
    (∀ l < 4, (s.putSreg h (0x010 + l) v).sreg h (0x010 + l) = some v ∧
      (s.putSreg h (0x014 + l) v).sreg h (0x014 + l) = some (v &&& 0xFFFFFFFC) ∧
      (s.putSreg h (0x018 + l) v).sreg h (0x018 + l) = some (v &&& 0xFFFFFFFC) ∧
      (s.putSreg h (0x01C + l) v).sreg h (0x01C + l) = some v) ∧
    (s.putSreg h 0x020 v).sreg h 0x020 = some (v &&& 0xFFFFFFFD) ∧
    (s.putSreg h 0x021 v).sreg h 0x021 = some (v &&& 0xFFFFFFFC) ∧
    (s.putSreg h 0x022 v).sreg h 0x022 = some (v &&& 0xFFFFFFFFC7FF00FF) ∧
    (s.putSreg h 0x023 v).sreg h 0x023 = some v ∧
    (s.putSreg h 0x026 v).sreg h 0x026 = some ((v &&& 0xFFFF) ||| 1) ∧
    (s.putSreg h 0x040 v).sreg h 0x040 = some (v &&& 3) ∧
    (s.putSreg h 0x041 v).sreg h 0x041 = some (v &&& 3) ∧
    (t.dctx ≠ 0 → (s.putSreg h 0x042 v).sreg h 0x042 = some v)

/-- R223, R224 and R226: what `sget` and `sset` reach, and what a write leaves to be read. -/
def Obligations.SystemRegisters : Prop :=
  Sys2Proof.Claims.SystemRegisterAccess ∧
  Sys2Proof.Claims.SystemRegisterReadsBack

/-- R180, R218, R222 and R281: arming and disarming a generator, its POS, and the load of a pattern register. -/
def Sys2Proof.Claims.GeneratorsAndPatterns : Prop :=
  ∀ (g : Guard) (d port : Opnd) (v : BitVec 5) (s s1 : State) (i : Iss), Issues s i g →
    (∀ s3 ws, wrScalar i.h d (BitVec.ofNat 64 (match mget none (s.ctx i.h).q.ag (portNum port) with | some x => x.pos | none => 0)) s =
        .ok (ws, s3) → LatchFree s3 i.h → exec (.agpos g d port) s = .next (latched s3 i.h .s 1 ws d.code.toNat false)) ∧
    (∀ par, blockWords i.h v .s 1 6 s = .ok (par, s1) → parReserved (par.take 6) = true → LatchFree s1 i.h →
      let p := par.take 6
      let b := (s1.ctx i.h).box (parBox p)
      ((parWord p 0).getLsbD 0 = false → exec (.agset g port v) s = .next (latched s1 i.h .s 1 [.arm (portNum port) []] 0 false)) ∧
      ((parWord p 0).getLsbD 0 = true → (∀ k ≤ parNlv p, fld (parWord p (2 + k)) 31 0 ≠ 0) → b.valid = true →
        parWid p ≤ 4 * fmtPer b.fmt → (4 ≤ portNum port → b.acc ≠ 0) →
        let ms := fld (parWord p 0) 15 12
        exec (.agset g port v) s = .next (latched s1 i.h .s 1
          [.arm (portNum port) (p ++ [if ms = 0 then 0 else (s1.ctx i.h).g (BitVec.ofNat 5 ms)])] 0 false))) ∧
    (∀ (lsz : BitVec 2) (k : BitVec 3) w, viewM i.h .s v false 1 s = .ok (w, s1) →
      let n := 256 / 2 ^ lsz.toNat
      let es := (List.range n).map fun j => (s1.ctx i.h).elem w (j / w.cols) (j % w.cols)
      let ps := es.map fun e => if e / 2 ^ 15 % 2 = 1 then none else some (e % 2 ^ 8)
      w.fmt = 9 → n ≤ w.rows * w.cols → (∀ e ∈ es, e / 2 ^ 8 % 2 ^ 7 = 0 ∧ (e / 2 ^ 15 % 2 = 1 ∨ e % 2 ^ 8 < n)) →
      (∀ a c x : Nat, a < c → ps[a]? = some (some x) → ps[c]? ≠ some (some x)) → LatchFree s1 i.h →
      exec (.xpat g v lsz k) s = .next (latched s1 i.h .s 1 [.pat k.toNat { lsz := lsz.toNat, ent := ps }] 0 false))

/-- R180, R218 to R222 and R281: views, grants, descriptors, tile status, generators and pattern registers. -/
def Obligations.ConfigurationOperations : Prop :=
  Sys2Proof.Claims.ScalarConfiguration ∧
  Sys2Proof.Claims.GeneratorsAndPatterns

/-! The branch slot (R194 to R212, R228, R229). -/

/-- R194 to R196: where the next bundle of a branch is, and what `bsr`, `br.t` and `br.f` leave beside it. -/
def Sys2Proof.Claims.BranchesSetTheNextBundle : Prop :=
  ∀ (g : Guard) (off : BitVec 24) (s : State) (i : Iss), Issues s i g →
    let rel : Word := BitVec.ofInt 64 (i.addr.toInt + 4 * off.toInt)
    exec (.jmp g off) s = .next (aimed s rel) ∧
    exec (.ret g) s = .next (aimed s (s.ctx i.h).sys.lr) ∧
    exec (.nopB g) s = .next s ∧
    (LatchFree s i.h → exec (.bsr g off) s =
      .next (aimed (latched s i.h .b 1 [.sreg 0x00D (i.addr + BitVec.ofNat 64 i.size)] 0 false) rel)) ∧
    (∀ b x s1, rdScalar i.h b 1 s = .ok (x, s1) → x.toNat % 4 = 0 → exec (.jmpi g b) s = .next (aimed s1 x)) ∧
    (∀ b x s1, rdScalar i.h b 1 s = .ok (x, s1) → x.toNat % 4 ≠ 0 →
      exec (.jmpi g b) s = .next (s.stopIssue i (trapAt 0x13 .b 0 []))) ∧
    (∀ b l, (s.ctx i.h).q.cq = b :: l →
      let s1 := s.modCtx i.h fun c => { c with q := { c.q with cq := l } }
      exec (.brT g off) s = .next (if b then aimed s1 rel else s1) ∧
      exec (.brF g off) s = .next (if b then s1 else aimed s1 rel)) ∧
    ((s.ctx i.h).q.cq = [] → exec (.brT g off) s = .next (s.stopIssue i (.block .cqEmpty)) ∧
      exec (.brF g off) s = .next (s.stopIssue i (.block .cqEmpty)))

/-- R202: `loop` and `loop.rot` start a level with the count k: its body follows, or for k = 0 the bundle after the end bundle, whose
header is read. -/
def Sys2Proof.Claims.LoopsStartTheirLevel : Prop :=
  ∀ (g : Guard) (lvl : BitVec 2) (n sc : Opnd) (imm : BitVec 24) (s s1 : State) (i : Iss) (x : Word), Issues s i g →
    rdScalar i.h n 0 s = .ok (x, s1) → i.size ≤ 4 * imm.toNat →
    let ls := i.addr + BitVec.ofNat 64 i.size
    let le := (i.addr + BitVec.ofNat 64 (4 * imm.toNat)) &&& 0xFFFFFFFC
    let level (lc lk : Word) (rot : Bool) : Wr :=
      .loopSet lvl.toNat { lc := lc, ls := ls &&& 0xFFFFFFFC, le := le, lk := lk, rot := rot, ord := 0, held := [] }
    (s1.iss = some i → LatchFree s1 i.h →
      let t := latched s1 i.h .b 1 [level x ((s1.ctx i.h).loop lvl.toNat).lk false] 0 false
      (x ≠ 0 → exec (.loop g lvl n imm) s = .next (aimed t ls)) ∧
      (∀ hd t1, x = 0 → t.fetchHeader i.h le = (.ok hd, t1) →
        exec (.loop g lvl n imm) s = .next (aimed t1 (le + BitVec.ofNat 64 hd.size)))) ∧
    (∀ y s2, rdScalar i.h sc 1 s1 = .ok (y, s2) → 1 ≤ y.toNat → y.toNat ≤ 8 → x.toNat + y.toNat - 1 < 2 ^ 64 → s2.iss = some i →
      LatchFree s2 i.h →
      let k : Word := if x = 0 then 0 else BitVec.ofNat 64 (x.toNat + y.toNat - 1)
      let t := latched s2 i.h .b 1 [level k x true, .stages (if x = 0 then 0 else 1)] 0 false
      (x ≠ 0 → exec (.loopRot g lvl n sc imm) s = .next (aimed t ls)) ∧
      (∀ hd t1, x = 0 → t.fetchHeader i.h le = (.ok hd, t1) →
        exec (.loopRot g lvl n sc imm) s = .next (aimed t1 (le + BitVec.ofNat 64 hd.size))))

/-- R194 to R196 and R202: the transfers of the B slot and the start of a loop level. -/
def Obligations.BranchesAndLoops : Prop :=
  Sys2Proof.Claims.BranchesSetTheNextBundle ∧
  Sys2Proof.Claims.LoopsStartTheirLevel

/-- R208 to R211: the waits, each where its condition holds; `wait` and `evwait` with no asynchronous fault pending. -/
def Sys2Proof.Claims.WaitsPassWhenTheirConditionHolds : Prop :=
  ∀ (g : Guard) (s : State) (i : Iss), Issues s i g → (s.ctx i.h).trp.fq = [] →
    (∀ imm : BitVec 24, (s.ctx i.h).wc.ld ≤ imm.toNat % 64 → (s.ctx i.h).wc.st ≤ imm.toNat / 64 % 64 →
      (s.ctx i.h).wc.cp ≤ imm.toNat / 4096 % 64 → (s.ctx i.h).wc.tl ≤ imm.toNat / 262144 % 64 → exec (.wait g imm) s = .next s) ∧
    (∀ imm : BitVec 24, imm.toNat % 64 < (s.ctx i.h).wc.ld → exec (.wait g imm) s = .next (s.stopIssue i (.block (.counts imm)))) ∧
    (∀ (n : BitVec 5) (r : BitVec 128) l, (s.ctx i.h).q.eq = r :: l → LatchFree s i.h → ∃ t, exec (.evwait g (.g n)) s = .next t ∧
      (t.ctx i.h).q.eq = l ∧ ∃ x, (t.ctx i.h).lats = (s.ctx i.h).lats ++ [x] ∧ x.dist = 1 ∧ x.slot = 0 ∧
        x.wrs = [.bytes (8 * n.toNat) (toBytes 8 (r.toNat % 2 ^ 64))]) ∧
    (∀ (n : BitVec 5) (v : View) (r : BitVec 128) l, (s.ctx i.h).q.eq = r :: l → LatchFree s i.h → viewM i.h .b n false 0 s = .ok (v, s) →
      (v.fmt = 7 ∨ v.fmt = 11) → 2 ≤ v.rows * v.cols → ∃ t, exec (.evwait g (.w n)) s = .next t ∧
      (t.ctx i.h).q.eq = l ∧ ∃ x, (t.ctx i.h).lats = (s.ctx i.h).lats ++ [x] ∧ x.dist = 1 ∧ x.slot = 0 ∧
        x.wrs = [.bytes (v.addr 0 0) (toBytes 8 (r.toNat % 2 ^ 64)),
                 .bytes (v.addr (1 / v.cols) (1 % v.cols)) (toBytes 8 (r.toNat / 2 ^ 64))]) ∧
    (∀ d, (s.ctx i.h).q.eq = [] → (match d with | .g _ => True | _ => False) →
      exec (.evwait g d) s = .next (s.stopIssue i (.block .eqEmpty))) ∧
    (∀ (id : BitVec 4) t gang m, (s.ctx i.h).task = some t → t.lvl ≤ 1 → t.gang = some (gang, m) → 2 ≤ m →
      s.barrierOpen i.h id.toNat = true → exec (.bar g id) s =
        .next (s.modCtx i.h fun c => { c with bars := mput 0 c.bars id.toNat (mget 0 c.bars id.toNat / 2 * 2 + 2) })) ∧
    (∀ id : BitVec 4, (∀ t, (s.ctx i.h).task = some t → t.lvl ≤ 1 → t.gang = none) →
      exec (.bar g id) s = .next (s.stopIssue i (trapAt 0x02 .b 0 []))) ∧
    exec (.yieldB g) s = .next { s with iss := some { i with yield := true } } ∧
    exec (.cqclr g) s = .next (s.modCtx i.h fun c => { c with q := { c.q with cq := [] } })

/-- R166, R212, R226 to R229: the operations that end their bundle, at its last issue, with no trap left by a consumed record. -/
def Sys2Proof.Claims.BundleEndsOfTasksAndHandlers : Prop :=
  ∀ (g : Guard) (s : State) (i : Iss), Issues s i g → i.last = true → (s.ctx i.h).prog.after = none → i.after = none →
    (∃ t, exec (.done g) s = .next t ∧ (t.ctx i.h).fin = some 0 ∧ (t.ctx i.h).ccy = (s.ctx i.h).ccy + 1 ∧
      (s.clk.wall, Instr.taskEnd i.h) ∈ t.agenda ∧ t.mem = s.mem) ∧
    (∀ code : BitVec 24,
      let k : Iss := { i with after := some { cause := 0x20, info := code.toNat, slot := 0, asy := false, sregs := [], regs := [],
                                              mem := [], blk := none } }
      let s0 : State := { s.modCtx i.h (fun c => { c with prog := { c.prog with after := none } }) with iss := some k }
      let u := (s0.retire k).commitBundle i.h i.first
      (u.ctx i.h).breakArmed = false → (u.ctx i.h).trp.tcs.getLsbD 31 = false → (u.ctx i.h).trp.tvec.getLsbD 0 = true →
      ∃ t, exec (.trap g code) s = .next t ∧ (t.ctx i.h).pc = (u.ctx i.h).trp.tvec &&& 0xFFFFFFFC ∧
        (t.ctx i.h).trp.tpc = (u.ctx i.h).pc &&& 0xFFFFFFFC ∧ fld (t.ctx i.h).trp.tcs 7 0 = 0x20 ∧
        fld (t.ctx i.h).trp.tcs 63 32 = code.toNat ∧ (t.ctx i.h).trp.tcs.getLsbD 31 = true ∧ (t.ctx i.h).lats = []) ∧
    (∀ code : BitVec 24, (s.ctx i.h).breakArmed = false → exec (.brk g code) s = .next (s.finish i)) ∧
    (∀ code : BitVec 24, (s.ctx i.h).breakArmed = true → ∃ t, exec (.brk g code) s = .next t ∧ (t.ctx i.h).dbg.stop = true) ∧
    (∀ a, (s.ctx i.h).trp.tcs.getLsbD 31 = true → (s.ctx i.h).trp.aside = some a →
      ∃ t, exec (.eret g) s = .next t ∧ (t.ctx i.h).pc = (s.ctx i.h).trp.tpc ∧
        (t.ctx i.h).prog.idx = fld (s.ctx i.h).trp.tcs 23 16 ∧ (t.ctx i.h).trp.tcs = (s.ctx i.h).trp.tcs &&& 0xFFFFFFFF3FFFFFFF ∧
        (t.ctx i.h).byp = a.byp ∧ (t.ctx i.h).prog.stick = a.prog.stick ∧ (t.ctx i.h).lats.take a.lats.length = a.lats) ∧
    ((s.ctx i.h).trp.tcs.getLsbD 31 = false → exec (.eret g) s = .next (s.stopIssue i (trapAt 0x02 .b 0 [])))

/-- R166, R208 to R212 and R226 to R229: what a context waits for, and what ends a bundle, a handler or a task. Model's choices it
rests on: assumption log 89, 91. -/
def Obligations.WaitsAndBundleEnds : Prop :=
  Sys2Proof.Claims.WaitsPassWhenTheirConditionHolds ∧
  Sys2Proof.Claims.BundleEndsOfTasksAndHandlers

/-! The M slot (R124, R127, R132, R232 to R249). -/

/-- A state in which an entry has joined a queue: its context changed by `f`, and an event for each piece of it, or one for an entry of
packets alone, due in the next cycle. -/
def Sys2Proof.Claims.entered (s : State) (h : Nat) (a : Acc) (f : Ctx → Ctx) : State :=
  (List.range (max 1 a.ps.length)).foldl (fun s k => s.sched 1 (.memoryAccessPerform h a.tok k)) (s.bump.modCtx h f)

/-- A state in which a load has joined the load queue (R124): it counts in ld (R207), takes the next place of the program order, and its
exposed latch, with no result yet, lands `lat` context cycles from the issue (R235); `conv` is the placement index whose conversion
it waits for (R120). -/
def Sys2Proof.Claims.loaded (s : State) (h : Nat) (ps : List Piece) (kind : AccKind) (acq conv : Option Nat) (fin : LoadFin)
    (lat code : Nat) : State :=
  let a : Acc := { tok := s.clk.tick, seq := (s.ctx h).q.seq, kind := kind, acq := acq, rel := none, conv := conv, ps := ps }
  let l : Latch := { tok := s.clk.tick, slot := Slot.num .m, code := code, dist := lat, here := false, occ := true, tile := false,
                     wrs := [] }
  entered s h a fun c =>
    { c with wc := { c.wc with ld := c.wc.ld + 1 }, lats := c.lats ++ [l],
             q := { c.q with seq := c.q.seq + 1, lq := c.q.lq ++ [a], pend := c.q.pend ++ [{ tok := s.clk.tick, fin := fin }] } }

/-- A state in which a store has joined the store queue (R124): it counts in st (R207) and takes the next place of the program order. -/
def Sys2Proof.Claims.stored (s : State) (h : Nat) (ps : List Piece) (kind : AccKind) (rel : Option Nat) : State :=
  let a : Acc := { tok := s.clk.tick, seq := (s.ctx h).q.seq, kind := kind, acq := none, rel := rel, conv := none, ps := ps }
  entered s h a fun c =>
    { c with wc := { c.wc with st := c.wc.st + 1 }, q := { c.q with seq := c.q.seq + 1, sq := c.q.sq ++ [a] } }

/-- A state in which an atomic has joined both queues (R124, R241). -/
def Sys2Proof.Claims.atomicQueued (s : State) (h : Nat) (ps qs : List Piece) (kl ks : AccKind) (acq rel : Option Nat) (fin : LoadFin)
    (lat code : Nat) : State :=
  let a : Acc := { tok := s.clk.tick, seq := (s.ctx h).q.seq, kind := kl, acq := acq, rel := none, conv := none, ps := ps }
  let b : Acc := { tok := s.clk.tick, seq := (s.ctx h).q.seq, kind := ks, acq := none, rel := rel, conv := none, ps := qs }
  let l : Latch := { tok := s.clk.tick, slot := Slot.num .m, code := code, dist := lat, here := false, occ := true, tile := false,
                     wrs := [] }
  entered s h b fun c =>
    { c with wc := { c.wc with ld := c.wc.ld + 1, st := c.wc.st + 1 }, lats := c.lats ++ [l],
             q := { c.q with seq := c.q.seq + 1, lq := c.q.lq ++ [a], sq := c.q.sq ++ [b],
                             pend := c.q.pend ++ [{ tok := s.clk.tick, fin := fin }] } }

/-- Room for one more load: the class of R207, the load queue and the exposed latches. -/
def Sys2Proof.Claims.LoadRoom (s : State) (h : Nat) : Prop :=
  (s.ctx h).wc.ld < 63 ∧ (s.ctx h).q.lq.length < 32 ∧ LatchFree s h

/-- Room for one more store. -/
def Sys2Proof.Claims.StoreRoom (s : State) (h : Nat) : Prop := (s.ctx h).wc.st < 63 ∧ (s.ctx h).q.sq.length < 32

/-- The load latency of R235 for n granules of a box of a level. -/
def Sys2Proof.Claims.loadCycles (lvl n : Nat) : Nat :=
  if lvl = 0 then 6 + (n + 15) / 16 - 1 else if lvl = 1 then 24 + n - 1 else 380 + (n + 3) / 4 - 1

/-- The path of an operation names a box of the context and, where it has a mesh selector, this device's own coordinate (R234). -/
def Sys2Proof.Claims.LocalPath (s : State) (h : Nat) (path : Path) (b : Desc) (p : RPath) : Prop :=
  boxM h path s = .ok ((b, p), s) ∧ ownMesh s (s.ctx h) p = true

/-- A path that a task of level 3 has through a system box to a member whose peer is present, with no earlier remote write held at the
egress (R139, R242, R243). -/
def Sys2Proof.Claims.FarPath (s : State) (h : Nat) (path : Path) (b : Desc) (p : RPath) (peer : Nat × Nat) : Prop :=
  boxM h path s = .ok ((b, p), s) ∧ (s.ctx h).lvl = 3 ∧ b.level = 3 ∧ (∃ m, p.mesh = some m ∧ peer = (s.taskDc (s.ctx h)).peerOf m) ∧
    s.peerUp peer.1 = true ∧ ∀ a ∈ (s.ctx h).q.sq, ∀ ps n, a.kind ≠ .remote ps n true

/-- The remote counterpart of the accesses of R237: a load and its packets. -/
def Sys2Proof.Claims.farLoaded (s : State) (h : Nat) (peer : Nat × Nat) (b : Desc) (p : RPath) (run rows : Nat) (acq : BitVec 1)
    (fin : LoadFin) (code : Nat) : State :=
  let l := farPieces s h peer b p run rows
  loaded s h l.flatten (.remote (readPkts s h peer b p run rows (l.headD []).length) b.place false) (if acq = 1 then some 4 else none)
    none fin
    (2400 + l.flatten.length - 1) code

/-- R124, R207 and R233 to R240: a local load that passes its checks joins the load queue with its exposed latch, and its issue changes
nothing else. A load of a converting tensor waits in its queue (R120). A grant of no row or no column moves nothing; `ldff` takes the
units that pass one by one. -/
def Sys2Proof.Claims.LocalLoadsJoinTheQueue : Prop :=
  ∀ (g : Guard) (path : Path) (s : State) (i : Iss) (b : Desc) (p : RPath), Issues s i g → LocalPath s i.h path b p →
    (∀ d l s1, fmtRaw b.fmt = true → accessM i.h b p 1 1 false true s = .ok (l, s1) → LoadRoom s1 i.h →
      let t (acq : Option Nat) := loaded s1 i.h l.flatten .load acq (s1.convOf (s1.ctx i.h) b) (.scalar d (fmtBytes b.fmt) (fmtInt b.fmt))
        (loadCycles b.level 1) d.toNat
      exec (.ld g d path) s = .next (t none) ∧ ∀ sc, exec (.ldAcq g sc d path) s = .next (t (some sc.toNat))) ∧
    (∀ w v l s1, noGrant (s.ctx i.h) = false → viewM i.h .m w false 0 s = .ok (v, s) → v.fmt = b.fmt →
      let k := grantOf (s.ctx i.h) v
      let c0 := p.crd.getD 0 0
      accessM i.h b p k.1 k.2 false (blockAligned b.fmt c0 k.1) s = .ok (l, s1) → LoadRoom s1 i.h →
      let t (acq : Option Nat) := loaded s1 i.h l.flatten .load acq (s1.convOf (s.ctx i.h) b)
        (viewFin v (s.ctx i.h) c0 k.1 k.2 (l.headD []).length none) (loadCycles b.level l.flatten.length) (32 + w.toNat)
      exec (.ldv g w path) s = .next (t none) ∧ ∀ sc, exec (.ldvAcq g sc w path) s = .next (t (some sc.toNat))) ∧
    (∀ w v n l s1, viewM i.h .m w false 0 s = .ok (v, s) → v.fmt = b.fmt → grantRows (s.ctx i.h) = 1 →
      let m := min v.cols (grantCols (s.ctx i.h))
      let c0 := p.crd.getD 0 0
      let u := if fmtTagged b.fmt then fmtPer b.fmt else 1
      m ≠ 0 → blockAligned b.fmt c0 m = true → n ≤ m / u → (∀ j < n, s.unitOk i.h b p (u * j) u = true) →
      (n < m / u → s.unitOk i.h b p (u * n) u = false) →
      accessM i.h b p (max u (u * n)) 1 false true s = .ok (l, s1) → LoadRoom s1 i.h →
      exec (.ldff g w path) s = .next (loaded s1 i.h l.flatten .load none (s.convOf (s.ctx i.h) b)
        (viewFin v (s.ctx i.h) c0 (u * n) 1 (l.headD []).length (if u * n < m then some (u * n) else none))
        (loadCycles b.level l.flatten.length) (32 + w.toNat))) ∧
    (∀ d ps s1, granM i.h b p false s = .ok (ps, s1) → LoadRoom s1 i.h →
      exec (.ldtag g d path) s = .next (loaded s1 i.h ps .tagLoad none (s1.convOf (s1.ctx i.h) b) (.tag d) (loadCycles b.level 1) d.toNat)) ∧
    (noGrant (s.ctx i.h) = true → ∀ w sc, exec (.ldv g w path) s = .next s ∧ exec (.ldvAcq g sc w path) s = .next s ∧
      (grantRows (s.ctx i.h) = 1 → exec (.ldff g w path) s = .next s))

/-- R124, R207 and R233 to R240: a local store that passes its checks joins the store queue with the bytes it stores, and its issue
changes nothing else, no byte of storage among it. -/
def Sys2Proof.Claims.LocalStoresJoinTheQueue : Prop :=
  ∀ (g : Guard) (path : Path) (s : State) (i : Iss) (b : Desc) (p : RPath), Issues s i g →
    (∀ a x s1 l s2, rdScalar i.h a 0 s = .ok (x, s1) → LocalPath s1 i.h path b p → fmtRaw b.fmt = true →
      accessM i.h b p 1 1 true true s1 = .ok (l, s2) → StoreRoom s2 i.h →
      let t := stored s2 i.h (l.flatten.map fun q => { q with data := toBytes (fmtBytes b.fmt) x.toNat }) .store
      exec (.st g a path) s = .next (t none) ∧ ∀ sc, exec (.stRel g sc a path) s = .next (t (some sc.toNat))) ∧
    (∀ w v l s1, LocalPath s i.h path b p → noGrant (s.ctx i.h) = false → viewM i.h .m w false 0 s = .ok (v, s) → v.fmt = b.fmt →
      let k := grantOf (s.ctx i.h) v
      let c0 := p.crd.getD 0 0
      accessM i.h b p k.1 k.2 true (blockAligned b.fmt c0 k.1) s = .ok (l, s1) → StoreRoom s1 i.h →
      let t := stored s1 i.h (storePieces (s.ctx i.h) v c0 k.1 l) .store
      exec (.stv g w path) s = .next (t none) ∧ ∀ sc, exec (.stvRel g sc w path) s = .next (t (some sc.toNat))) ∧
    (∀ a x s1 ps s2, rdScalar i.h a 0 s = .ok (x, s1) → LocalPath s1 i.h path b p → granM i.h b p true s1 = .ok (ps, s2) →
      StoreRoom s2 i.h →
      exec (.sttag g a path) s =
        .next (stored s2 i.h (ps.map fun q => { q with n := 0, tag := some (x.setWidth 16) }) .tagStore none)) ∧
    (noGrant (s.ctx i.h) = true → ∀ w sc, exec (.stv g w path) s = .next s ∧ exec (.stvRel g sc w path) s = .next s)

/-- R239: a block transfer moves the rows of its view from the row its progress names on, whole granules with their tags. -/
def Sys2Proof.Claims.BlockTransfersJoinTheQueue : Prop :=
  ∀ (g : Guard) (w : BitVec 5) (path : Path) (s s1 : State) (i : Iss) (v : View) (b : Desc) (rs : List (Nat × List Piece)), Issues s i g →
    (∀ wr, blkM i.h w path wr s = .ok ((v, b, rs), s1) → rs.map (·.1) = (List.range v.rows).drop (blkStart (s.ctx i.h) i.addr)) ∧
    (blkM i.h w path false s = .ok ((v, b, rs), s1) → LoadRoom s1 i.h →
      let ps := rs.flatMap (·.2)
      exec (.ldblk g w path) s = .next (loaded s1 i.h ps .load none (s1.convOf (s1.ctx i.h) b)
        (.view (rs.map fun x => ((v.base + v.stride * x.1) * 64, 64 * v.w))
          (rs.zipIdx.flatMap fun x => (List.range x.1.2.length).map fun j => (v.base + v.stride * x.1.1 + j, x.2 * v.w + j)) [] none)
        (loadCycles b.level (max 1 ps.length)) (32 + w.toNat))) ∧
    (blkM i.h w path true s = .ok ((v, b, rs), s1) → StoreRoom s1 i.h →
      let c := s1.ctx i.h
      exec (.stblk g w path) s = .next (stored s1 i.h
        (rs.flatMap fun x => x.2.zipIdx.map fun q =>
          { q.1 with data := c.rsBytes ((v.base + v.stride * x.1 + q.2) * 64) 64, tag := some (c.rtag (v.base + v.stride * x.1 + q.2)) })
        .store none))

/-- R124, R207 and R233 to R240: local loads, stores and block transfers join their queues, and change nothing else at their
issue. Model's choices it rests on: assumption log 1, 11. -/
def Obligations.LocalAccessesJoinTheirQueues : Prop :=
  Sys2Proof.Claims.LocalLoadsJoinTheQueue ∧
  Sys2Proof.Claims.LocalStoresJoinTheQueue ∧
  Sys2Proof.Claims.BlockTransfersJoinTheQueue

/-- The ten operations of the atomics, with the number a request carries (R241). -/
def Sys2Proof.Claims.atomics : List ((Guard → BitVec 2 → BitVec 3 → BitVec 5 → Path → Instr) × (Guard → BitVec 2 → BitVec 5 → Path → Instr) × Nat) :=
  [(.atomAdd, .atomrAdd, 0), (.atomAnd, .atomrAnd, 1), (.atomOr, .atomrOr, 2), (.atomXor, .atomrXor, 3), (.atomMin, .atomrMin, 4),
   (.atomMax, .atomrMax, 5), (.atomMinn, .atomrMinn, 6), (.atomMaxn, .atomrMaxn, 7), (.atomSwap, .atomrSwap, 8), (.atomCas, .atomrCas, 9)]

/-- The formats of an atomic: 4 or 8 bytes; integers but for swap and cas, which take every raw format (R241). -/
def Sys2Proof.Claims.AtomicFormat (op fmt : Nat) : Prop :=
  fmtRaw fmt = true ∧ (fmtBytes fmt = 4 ∨ fmtBytes fmt = 8) ∧ (op < 8 → fmtInteger fmt = true)

/-- R130, R235, R241 and R243: a local and a remote atomic that passes its checks joins both queues with its operands, the new value of
`cas` from the register after an even one. -/
def Sys2Proof.Claims.AtomicsJoinBothQueues : Prop :=
  ∀ op ∈ atomics, ∀ (g : Guard) (ord : BitVec 2) (a : BitVec 5) (path : Path) (s s1 : State) (i : Iss) (b : Desc) (p : RPath)
    (l : List (List Piece)),
    Issues s i g → (op.2.2 = 9 → a.toNat % 2 = 0 ∧ a ≠ 0) → AtomicFormat op.2.2 b.fmt →
    let v := (s.ctx i.h).g a
    let w : Word := if op.2.2 = 9 then (s.ctx i.h).g (a + 1) else 0
    let acq (sc : Nat) : Option Nat := if ord = 1 ∨ ord = 3 then some sc else none
    let rel (sc : Nat) : Option Nat := if ord = 2 ∨ ord = 3 then some sc else none
    let fin : LoadFin := .scalar a (fmtBytes b.fmt) (fmtInt b.fmt)
    (∀ sc, LocalPath s i.h path b p → accessM i.h b p 1 1 true true s = .ok (l, s1) → LoadRoom s1 i.h → StoreRoom s1 i.h →
      exec (op.1 g ord sc a path) s = .next (atomicQueued s1 i.h l.flatten l.flatten (.atomic op.2.2 v w) (.atomic op.2.2 v w)
        (acq sc.toNat) (rel sc.toNat) fin (if b.level ≤ 1 then 8 else 400) a.toNat)) ∧
    (∀ peer, FarPath s i.h path b p peer → boundsAll s (s.ctx i.h) b p 1 1 true = .ok () → LoadRoom s i.h → StoreRoom s i.h →
      exec (op.2.1 g ord a path) s = .next (atomicQueued s i.h (farPieces s i.h peer b p 1 1).flatten [] (.remote [] b.place false)
        (.remote [{ scalarPkt s i.h 4 peer b p v with opa := v, opb := w, op := op.2.2 }] b.place false) (acq 4) (rel 4) fin 2400
        a.toNat))

/-- R242, R243 and R246: a remote load, store or fence whose path leads to a present peer and lies in the shard there joins its
queue with its packets; a fence takes a place in both queues (R124). Model's choices it rests on: assumption log 83, 84. -/
def Obligations.RemoteAccessesJoinTheQueue : Prop :=
  ∀ (g : Guard) (bit : BitVec 1) (path : Path) (s : State) (i : Iss) (b : Desc) (p : RPath) (peer : Nat × Nat), Issues s i g →
    let rel : Option Nat := if bit = 1 then some 4 else none
    (∀ n, FarPath s i.h path b p peer → fmtRaw b.fmt = true → boundsAll s (s.ctx i.h) b p 1 1 false false = .ok () → LoadRoom s i.h →
      exec (.ldr g bit (.g n) path) s =
        .next (loaded s i.h (farPieces s i.h peer b p 1 1).flatten (.remote (readPkts s i.h peer b p 1 1 1) b.place false) rel none
          (.scalar n (fmtBytes b.fmt) (fmtInt b.fmt)) 2400 (Opnd.g n).code.toNat)) ∧
    (∀ n v, FarPath s i.h path b p peer → noGrant (s.ctx i.h) = false → viewM i.h .m n false 0 s = .ok (v, s) → v.fmt = b.fmt →
      let k := grantOf (s.ctx i.h) v
      blockAligned b.fmt (p.crd.getD 0 0) k.1 = true →
      (boundsAll s (s.ctx i.h) b p k.1 k.2 false false = .ok () → LoadRoom s i.h →
        exec (.ldr g bit (.w n) path) s = .next (farLoaded s i.h peer b p k.1 k.2 bit
          (viewFin v (s.ctx i.h) (p.crd.getD 0 0) k.1 k.2 ((farPieces s i.h peer b p k.1 k.2).headD []).length none) (Opnd.w n).code.toNat)) ∧
      (boundsAll s (s.ctx i.h) b p k.1 k.2 true = .ok () → StoreRoom s i.h →
        exec (.str g bit (.w n) path) s = .next (stored s i.h [] (.remote (viewPkts s i.h peer b p v k.1 k.2) b.place false) rel))) ∧
    (∀ a x s1, (∀ n, a ≠ .w n) → rdScalar i.h a 0 s = .ok (x, s1) → FarPath s1 i.h path b p peer →
      boundsAll s1 (s1.ctx i.h) b p 1 1 true = .ok () → StoreRoom s1 i.h →
      (fmtRaw b.fmt = true →
        exec (.str g bit a path) s = .next (stored s1 i.h [] (.remote [scalarPkt s1 i.h 1 peer b p x] b.place false) rel)) ∧
      (fmtInteger b.fmt = true → 4 ≤ fmtBytes b.fmt → (s1.ctx i.h).q.lq.length < 32 →
        let l : Acc := { tok := s1.clk.tick, seq := (s1.ctx i.h).q.seq, kind := .remote [] b.place false, acq := none, rel := none,
                         conv := none, ps := (farPieces s1 i.h peer b p 1 1).flatten }
        exec (.rfence g a path) s = .next ((stored s1 i.h [] (.remote [scalarPkt s1 i.h 6 peer b p x] b.place false) none).modCtx i.h
          fun c => { c with q := { c.q with lq := c.q.lq ++ [l] } }))) ∧
    (noGrant (s.ctx i.h) = true → ∀ n, exec (.ldr g bit (.w n) path) s = .next s ∧ exec (.str g bit (.w n) path) s = .next s)

/-- The conditions of `waitv` on the element y and the operand x (R184). -/
def Sys2Proof.Claims.waitCondition (cc : BitVec 3) (y x : Word) : Prop :=
  match cc.toNat with
  | 0 => y = x
  | 1 => y ≠ x
  | 2 => y.toInt < x.toInt
  | 3 => x.toInt ≤ y.toInt
  | 4 => y.toNat < x.toNat
  | _ => x.toNat ≤ y.toNat

/-- R127, R132, R245 and R249: `align` puts a marker into both queues, `fence` passes once everything before it is performed at
its scope and stalls until then, but for pushes that have not landed, behind which it leaves its mark in both queues, `pf` warms a
translation and changes nothing else, and `waitv` passes on a value that meets its condition and blocks on another. Model's
choices it rests on: assumption log 92. -/
def Obligations.MarkersFencesAndWaits : Prop :=
  ∀ (g : Guard) (s : State) (i : Iss), Issues s i g →
    let c := s.ctx i.h
    (c.q.lq.length < 32 → c.q.sq.length < 32 →
      ∃ t, exec (.align g) s = .next t ∧ t.mem = s.mem ∧ (t.ctx i.h).q.seq = c.q.seq + 1 ∧ (t.ctx i.h).f = c.f ∧
        (∀ a ∈ (t.ctx i.h).q.lq, a ∈ c.q.lq ∨ (a.kind = .align ∧ a.seq = c.q.seq)) ∧
        ((∃ a ∈ c.stores, a.seq < c.q.seq ∧ a.isAlign = false ∧ c.setAside c.q.seq a = false ∧ a.at 0 = false) → ∃ a ∈ (t.ctx i.h).q.lq, a.isAlign = true ∧ a.seq = c.q.seq) ∧
        ((∃ a ∈ c.q.lq, a.seq < c.q.seq ∧ a.isAlign = false ∧ a.done = false) → ∃ a ∈ (t.ctx i.h).q.sq, a.isAlign = true ∧ a.seq = c.q.seq)) ∧
    (∀ sc : BitVec 3, (s.allAt i.h c.q.seq sc.toNat = true → ∃ t, exec (.fence g sc) s = .next t ∧ t.mem = s.mem ∧
        (t.ctx i.h).q.seq = c.q.seq + 1 ∧ (t.ctx i.h).f = c.f ∧ (t.ctx i.h).q.sq = c.q.sq ∧ (t.ctx i.h).q.lq = c.q.lq) ∧
      (s.fenceOpen i.h c.q.seq sc.toNat = true → c.storesBefore c.q.seq sc.toNat = false → c.q.lq.length < 32 → c.q.sq.length < 32 →
        ∃ t, exec (.fence g sc) s = .next t ∧ t.mem = s.mem ∧ (t.ctx i.h).q.seq = c.q.seq + 1 ∧ (t.ctx i.h).f = c.f ∧
          ∃ a : Acc, a.isAlign = true ∧ a.seq = c.q.seq ∧ a.rel = some sc.toNat ∧ a ∈ (t.ctx i.h).q.lq ∧ a ∈ (t.ctx i.h).q.sq) ∧
      (s.fenceOpen i.h c.q.seq sc.toNat = false → exec (.fence g sc) s = .next (s.stopIssue i (.stall 6)))) ∧
    (∀ path b p t, LocalPath s i.h path b p → boundsAll s c b p (fmtPer b.fmt) 1 false = .ok () → c.task = some t →
      let k (n : Nat) : Nat := (p.crd.getD n 0).toNat
      exec (.pf g path) s = .next (if 2 ≤ b.level then
        s.sched 1 (.translationWalkDone (cluOf i.h) t.dev t.dctx (b.granLoc (k 0) (k 1) (k 2) (k 3))) else s)) ∧
    (∀ (cc : BitVec 3) (sc : BitVec 3) a path x s1 b p l s2, cc.toNat ≤ 5 → rdScalar i.h a 0 s = .ok (x, s1) → LocalPath s1 i.h path b p →
      fmtInteger b.fmt = true → 4 ≤ fmtBytes b.fmt → accessM i.h b p 1 1 false true s1 = .ok (l, s2) →
      ((s2.convOf (s2.ctx i.h) b).isSome = true → exec (.waitv g cc a path) s = .next (s.stopIssue i (.stall 1))) ∧
      ((s2.convOf (s2.ctx i.h) b).isSome = false → (∀ bs s3, s2.watchRead i.h l.flatten = some (bs, s3) →
        let pls := l.flatten.map (·.pl)
        let y := extendTo bs (fmtInt b.fmt)
        ((s2.touchAll pls).1 ≠ 0 → exec (.waitv g cc a path) s = .next (s.stopIssue i (.late pls))) ∧
        ((s2.touchAll pls).1 = 0 → waitCondition cc y x →
          exec (.waitv g cc a path) s = .next (s3.touchAll pls).2 ∧ exec (.waitvAcq g sc cc a path) s = .next (s3.touchAll pls).2) ∧
        ((s2.touchAll pls).1 = 0 → ¬ waitCondition cc y x → exec (.waitv g cc a path) s = .next (s.stopIssue i (.block (.value cc.toNat x l.flatten (fmtInt b.fmt)))) ∧
          exec (.waitvAcq g sc cc a path) s = .next (s.stopIssue i (.block (.value cc.toNat x l.flatten (fmtInt b.fmt))))))) ∧
      ((s2.convOf (s2.ctx i.h) b).isSome = false → s2.watchRead i.h l.flatten = none →
        exec (.waitv g cc a path) s = .next (s.stopIssue i (.stall 1))))

/-! What memory accesses do when they perform (R70 to R72, R123 to R130, R207, R236, R241). -/

/-- What an atomic leaves in an element of `sz` bytes that held `x`, from its operands `v` and `w`, in exact arithmetic (R241). -/
def Sys2Proof.Claims.AtomicResult (op sz x v w y : Nat) : Prop :=
  let m := 2 ^ (8 * sz)
  let i (n : Nat) : Int := if n < m / 2 then n else (n : Int) - m
  match op with
  | 0 => y = (x + v) % m
  | 1 => y = x &&& v % m
  | 2 => y = x ||| v % m
  | 3 => y = x ^^^ v % m
  | 4 => (y = x ∨ y = v % m) ∧ i y ≤ i x ∧ i y ≤ i (v % m)
  | 5 => (y = x ∨ y = v % m) ∧ i x ≤ i y ∧ i (v % m) ≤ i y
  | 6 => y = min x (v % m)
  | 7 => y = max x (v % m)
  | 8 => y = v % m
  | _ => y = if x = v % m then w % m else x

/-- R241: every atomic, on elements of 4 and of 8 bytes, for every value of the element and of the operands. -/
def Sys2Proof.Claims.AtomicResults : Prop :=
  ∀ op sz x v w : Nat, (sz = 4 ∨ sz = 8) → x < 2 ^ (8 * sz) → AtomicResult op sz x v w (atomNew op sz x v w)

/-- R124, R234 and R241: atomics join both queues; what an atomic leaves in its element. -/
def Obligations.AtomicsAndTheirResults : Prop :=
  Sys2Proof.Claims.AtomicsJoinBothQueues ∧
  Sys2Proof.Claims.AtomicResults

/-! Storage and the memory events (R60 to R78, R123 to R133, R148 to R153, R207, R236). -/

/-- R5, R60, R73 to R75: a write within one granule leaves its bytes readable at their place, under the seal it was made with (owner key
and physical granule), and every other byte as it was, but for the granule's bytes under another seal, which hold nothing any more; a tag
write changes one tag. -/
def Obligations.StorageKeepsWhatIsWritten : Prop :=
  ∀ (m : Mem), m.wf = true →
    (∀ a bs b, (m.write (.sp a) bs).byte (.sp b) = if a ≤ b ∧ b < a + bs.length then some (bs.getD (b - a) 0) else m.byte (.sp b)) ∧
    (∀ a bs b k, (m.write (.sp a) bs).byte (.hbm b k) = m.byte (.hbm b k)) ∧
    (∀ a k bs b j, a % 64 + bs.length ≤ 64 →
      ((a ≤ b ∧ b < a + bs.length) → (m.write (.hbm a k) bs).byte (.hbm b k) = bs[b - a]?) ∧
      ((¬ (a ≤ b ∧ b < a + bs.length)) → (b / 64 ≠ a / 64 ∨ m.keyOf a = k + 1) →
        (m.write (.hbm a k) bs).byte (.hbm b j) = m.byte (.hbm b j)) ∧
      (b / 64 = a / 64 → m.keyOf a ≠ k + 1 → ¬ (a ≤ b ∧ b < a + bs.length) → (m.write (.hbm a k) bs).byte (.hbm b j) = none) ∧
      (b / 64 = a / 64 → j ≠ k → (m.write (.hbm a k) bs).byte (.hbm b j) = none)) ∧
    (∀ a k bs b, (m.write (.hbm a k) bs).byte (.sp b) = m.byte (.sp b)) ∧
    (∀ a t b, (m.setTag (.sp a) t).tag (.sp b) = (if b / 64 = a / 64 then some t else m.tag (.sp b)) ∧
      (m.setTag (.sp a) t).byte (.sp b) = m.byte (.sp b)) ∧
    (∀ a k t b, b / 64 = a / 64 → (m.setTag (.hbm a k) t).tag (.hbm b k) = some t)

/-- A memory access of a context: the entry of its load queue that an event names, which is no store, and the piece of it. -/
def Sys2Proof.Claims.QueuedLoad (s : State) (h tok k : Nat) (a : Acc) (p : Piece) : Prop :=
  (∀ x ∈ (s.ctx h).stores, x.tok = tok → x.isAlign = true) ∧
  (s.ctx h).q.lq.find? (fun x => x.tok == tok && !x.isAlign) = some a ∧ (a.kind = .load ∨ a.kind = .tagLoad) ∧ a.ps[k]? = some p ∧
  p.done = false

/-- The entry of its store queue that an event names, and the piece of it. -/
def Sys2Proof.Claims.QueuedStore (s : State) (h tok k : Nat) (a : Acc) (p : Piece) : Prop :=
  (s.ctx h).stores.find? (fun x => x.tok == tok && !x.isAlign) = some a ∧
  (∀ x ∈ (s.ctx h).portWrites, x.tok = tok → x.isAlign = true) ∧ (a.kind = .store ∨ a.kind = .tagStore) ∧ a.ps[k]? = some p ∧
  p.done = false

/-- R120, R124 to R129: a load piece whose order allows it, and whose tensor no conversion holds, takes each byte from the youngest queued store of its context that holds it, else
from its home, and changes no storage; one that is held is tried again in the next cycle. -/
def Sys2Proof.Claims.LoadsTakeTheirBytes : Prop :=
  ∀ (s : State) (h tok k : Nat) (a : Acc) (p : Piece), QueuedLoad s h tok k a p →
    let c := s.ctx h
    (s.mayLoad h c a p = false ∨ s.convWaits c a = true →
      exec (.memoryAccessPerform h tok k) s = .next (s.sched 1 (.memoryAccessPerform h tok k))) ∧
    (s.mayLoad h c a p = true → s.convWaits c a = false → (s.touch p.pl).1 = 0 → ∃ t bs tag, exec (.memoryAccessPerform h tok k) s = .next t ∧
      t.mem = s.mem ∧ (t.ctx h).f = c.f ∧ (t.ctx h).lats = c.lats ∧ bs.length = p.n ∧
      (∀ j < p.n, (∀ v, fwdByte (c.forwards a.seq) (p.pl.addr + j) = some v → bs.getD j 0 = v) ∧
        (fwdByte (c.forwards a.seq) (p.pl.addr + j) = none → ∀ v, s.mem.byte (p.pl.add j) = some v → bs.getD j 0 = v)) ∧
      (∀ x ∈ (t.ctx h).q.lq, x ∈ c.q.lq ∨ ∃ y ∈ c.q.lq, y.tok = tok ∧
        x = { y with ps := y.ps.set k { p with lvl := p.hl, data := bs, tag := some tag } }) ∧
      ((∀ q ∈ a.ps.eraseIdx k, q.done = true) → (s.clk.wall + 1, .loadArrive h tok) ∈ t.agenda))

/-- R124 to R130: a store piece goes one point on where its order allows it, and is tried again in the next cycle where it does not; at
its home it writes its bytes and its tag and nothing else. -/
def Sys2Proof.Claims.StoresReachTheirHomes : Prop :=
  ∀ (s : State) (h tok k : Nat) (a : Acc) (p : Piece), QueuedStore s h tok k a p →
    let c := s.ctx h
    let may := if p.lvl = 0 then s.mayLeave h c a p else s.mayAdvance h p
    (may = false → exec (.memoryAccessPerform h tok k) s = .next (s.sched 1 (.memoryAccessPerform h tok k))) ∧
    (may = true → p.lvl + 1 < p.hl → ∃ t, exec (.memoryAccessPerform h tok k) s = .next t ∧ t.mem = s.mem ∧ (t.ctx h).f = c.f ∧
      (t.ctx h).lats = c.lats) ∧
    (∀ s1, may = true → p.hl ≤ p.lvl + 1 → (p.lvl = 0 → s.pathClear h (homeOf p.pl) = true) → (s.touch p.pl).1 = 0 →
      (s.touch p.pl).2.mirrored p.pl p.data p.tag = (true, s1) →
      ∃ t, exec (.memoryAccessPerform h tok k) s = .next t ∧ t.mem = s.mem.writePiece p ∧ (t.ctx h).f = c.f ∧ (t.ctx h).lats = c.lats)

/-- R70 to R72 and R241: a crucible serves the request at the first position after the one it served last whose line no miss holds: it
writes the atomic's result and nothing else, and the source receives the value before. -/
def Sys2Proof.Claims.CruciblesServeInTurn : Prop :=
  ∀ (s s1 s2 : State) (cl pos : Nat) (q : CrReq) (l : List CrReq) (old : List Byte),
    let k := s.clu cl
    let may := k.serves s.clk.wall
    nextPos k.crq k.last may = some pos → mget [] k.crq pos = q :: l → s.readBytes q.pl q.fmt = (old, s1) →
    let new := toBytes q.fmt (atomNew q.op q.fmt (ofBytes old) q.v.toNat q.cmp.toNat)
    s1.mirrored q.pl new none = (true, s2) →
    (∀ n < 65, (∃ x r, mget [] k.crq ((k.last + 1 + n) % 65) = x :: r ∧ may x = true) → ∃ m ≤ n, pos = (k.last + 1 + m) % 65) ∧
    ∃ t, exec (.crucibleServe cl) s = .next t ∧ t.mem = s.mem.write q.pl new ∧ (t.clu cl).last = pos ∧
      (t.clu cl).crq = mput [] k.crq pos l ∧
      (∀ h tok, q.h = some (h, tok) → (t.ctx h).f = (s.ctx h).f ∧ (∀ x ∈ (t.ctx h).q.lq, x.tok = tok → x.isAlign = false →
        ∀ p ∈ x.ps, p.data = old ∧ p.lvl = p.hl) ∧ ∃ d, (d, .loadArrive h tok) ∈ t.agenda)

/-- R70 to R72, R124 to R130 and R241: stores and atomics at their homes. Model's choices it rests on: assumption log 1, 12, 94.
-/
def Obligations.StoresAndCrucibles : Prop :=
  Sys2Proof.Claims.StoresReachTheirHomes ∧
  Sys2Proof.Claims.CruciblesServeInTurn

/-- The number that a load extends to a scalar value (R236). -/
def Sys2Proof.Claims.Extended (bs : List Byte) (signed : Bool) (v : Word) : Prop :=
  if signed = true ∧ 2 ^ (8 * bs.length - 1) ≤ ofBytes bs then v.toInt = (ofBytes bs : Int) - 2 ^ (8 * bs.length)
  else v.toNat = ofBytes bs

/-- R207 and R236 to R240: a load whose pieces all have their values arrives: its latch takes its result, extended for an int format, the
entry leaves the load queue and ld drops; a load that still waits changes nothing. -/
def Sys2Proof.Claims.LoadsArriveInTheirLatches : Prop :=
  ∀ (s : State) (h tok : Nat) (a : Acc) (p : LoadPend),
    let c := s.ctx h
    c.q.lq.find? (fun x => x.tok == tok && !x.isAlign) = some a → c.q.pend.find? (fun x => x.tok == tok) = some p →
    (a.done = false → c.dbg.due = 0 ∨ c.latched = false → exec (.loadArrive h tok) s = .next s) ∧
    (a.done = true → ∃ t ws, exec (.loadArrive h tok) s = .next t ∧ (t.ctx h).wc.ld = c.wc.ld - 1 ∧ (t.ctx h).f = c.f ∧ t.mem = s.mem ∧
      (t.ctx h).lats = (c.lats.map fun l => if l.tok = tok ∧ l.here = false then { l with wrs := ws, here := true } else l) ∧
      (∀ x ∈ (t.ctx h).q.lq, x.tok = tok → x.isAlign = true) ∧
      (∀ d sz sg, p.fin = .scalar d sz sg → 1 ≤ sz → sz ≤ 8 → sz ≤ (a.ps.flatMap (·.data)).length →
        ∃ v : Word, Extended ((a.ps.flatMap (·.data)).take sz) sg v ∧ ws = [.bytes (8 * d.toNat) (toBytes 8 v.toNat)]) ∧
      (∀ d off bits, p.fin = .code d off bits →
        ws = [.bytes (8 * d.toNat) (toBytes 8 (ofBytes (a.ps.flatMap (·.data)) / 2 ^ off % 2 ^ bits))]) ∧
      (∀ d, p.fin = .tag d → ∀ q tag, a.ps.head? = some q → q.tag = some tag → ws = [.bytes (8 * d.toNat) (toBytes 8 tag.toNat)]) ∧
      (∀ dst tags zero cols, p.fin = .view dst tags zero cols →
        ws = layRuns dst (a.ps.flatMap (·.data)) ++ tags.map (fun x => .tag x.1 (((a.ps[x.2]?).bind (·.tag)).getD 0)) ++
          zero.map (fun x => .zero x.1 x.2) ++ (match cols with | some n => [.cols n] | none => [])))

/-- R124 to R129, R207 and R236 to R240: where a load takes its bytes, and how they arrive. Model's choices it rests on:
assumption log 1, 94. -/
def Obligations.LoadsFromIssueToLatch : Prop :=
  Sys2Proof.Claims.LoadsTakeTheirBytes ∧
  Sys2Proof.Claims.LoadsArriveInTheirLatches

/-- R54, R148, R149, R171, R175 and R193: what a latch due leaves when it commits: a scalar register takes its value and sb0 with it, and g0
keeps reading 0; a predicate takes its value, and p0 reads true; every latch that is not due stays, and no storage changes. -/
def Sys2Proof.Claims.CommitsLeaveTheirResults : Prop :=
  ∀ (s : State) (h : Nat) (l : Latch),
    let c := s.ctx h
    c.lats.filter (fun x => x.dist == 0) = [l] → l.here = true →
    (∃ t, exec (.latchCommit h) s = .next t ∧ t.mem = s.mem ∧ (t.ctx h).lats = c.lats.filter (fun x => x.dist != 0) ∧
      (t.ctx h).wc.tl = c.wc.tl - (if l.tile then 1 else 0)) ∧
    (∀ (n : BitVec 5) (v : Word), mwf 0 c.f.rs = true → l.wrs = [.bytes (8 * n.toNat) (toBytes 8 v.toNat), .sb v] →
      ∃ t, exec (.latchCommit h) s = .next t ∧ (t.ctx h).g n = (if n = 0 then c.g 0 else v) ∧ (∀ m, m ≠ n → (t.ctx h).g m = c.g m) ∧
        (t.ctx h).byp.sb0 = v ∧ (t.ctx h).byp.sb1 = c.byp.sb0 ∧ (t.ctx h).f.pr = c.f.pr ∧ (t.ctx h).f.vd = c.f.vd ∧
        (t.ctx h).f.tag = c.f.tag ∧ (t.ctx h).sys = c.sys ∧ (t.ctx h).pc = c.pc ∧
        (∀ a, a < 16384 → (a < 8 * n.toNat ∨ 8 * n.toNat + 8 ≤ a) → mget 0 (t.ctx h).f.rs a = mget 0 c.f.rs a)) ∧
    (∀ (n : BitVec 4) (v : Bool), l.wrs = [.pred n v] →
      ∃ t, exec (.latchCommit h) s = .next t ∧ (t.ctx h).pred n = (if n = 0 then true else v) ∧
        (∀ m, m ≠ n → (t.ctx h).pred m = c.pred m) ∧ (t.ctx h).f.rs = c.f.rs ∧ (t.ctx h).sys = c.sys ∧ (t.ctx h).pc = c.pc) ∧
    (∀ (n : Nat) (v : Word), mwf 0 c.f.vd = true → l.wrs = [.vd n v] →
      ∃ t, exec (.latchCommit h) s = .next t ∧ ∀ m, mget 0 (t.ctx h).f.vd m = if m = n then v else mget 0 c.f.vd m) ∧
    (∀ (a b : Word), l.wrs = [.fsr a, .sreg 0x000 b] →
      ∃ t, exec (.latchCommit h) s = .next t ∧ (c.task = none → (t.ctx h).sys.fsr = (b &&& 0x1F) ||| a))

/-- R148, R149 and R207: every commit and every arrival completes. A commit takes the latches that are due in their order, up to the first
whose result is absent, which stays with those after it, and no latch that is not due; an arrival fills the latch of a load whose pieces
all have their values, and ld drops. Neither changes storage. -/
def Sys2Proof.Claims.CommitsAndArrivalsComplete : Prop :=
  ∀ (s : State) (h tok : Nat),
    (∃ t, exec (.latchCommit h) s = .next t ∧ t.mem = s.mem ∧
      (t.ctx h).lats.filter (fun l => l.dist != 0) = (s.ctx h).lats.filter (fun l => l.dist != 0) ∧
      (t.ctx h).lats.filter (fun l => l.dist == 0) = ((s.ctx h).lats.filter (fun l => l.dist == 0)).dropWhile (·.here)) ∧
    (∀ a p, (s.ctx h).q.lq.find? (fun x => x.tok == tok && !x.isAlign) = some a →
      (s.ctx h).q.pend.find? (fun x => x.tok == tok) = some p → a.done = true →
      ∃ t, exec (.loadArrive h tok) s = .next t ∧ t.mem = s.mem ∧ (t.ctx h).wc.ld = (s.ctx h).wc.ld - 1 ∧
        (∀ l ∈ (t.ctx h).lats, l.tok = tok → l.here = true))

/-- R54, R148, R149, R171, R175, R193 and R207: what latches leave when they commit, and that every commit and arrival completes.
Model's choices it rests on: assumption log 8. -/
def Obligations.LatchesCommitTheirResults : Prop :=
  Sys2Proof.Claims.CommitsLeaveTheirResults ∧
  Sys2Proof.Claims.CommitsAndArrivalsComplete

/-- R148, R150, R151, R153 and R157: a stall cycle advances ccy and nothing the program names; a wake makes a blocked context
READY with its stamp; a free stage goes to the READY context of its core with the oldest stamp, one released from a debug stop
that held the stage before all others (R162), and stays free where there is none. Model's choices it rests on: assumption log 1,
37. -/
def Obligations.StallsWakesAndGrants : Prop :=
  ∀ (s : State) (h k : Nat),
    (∃ t, exec (.stallCycle h) s = .next t ∧ t.mem = s.mem ∧ (t.ctx h).ccy = (s.ctx h).ccy + 1 ∧ (t.ctx h).scy = (s.ctx h).scy ∧
      (t.ctx h).lats = (s.ctx h).lats ∧ (t.ctx h).f = (s.ctx h).f ∧ (t.ctx h).pc = (s.ctx h).pc ∧ ∀ j, j ≠ h → t.ctx j = s.ctx j) ∧
    ((s.ctx h).st = .blocked → ∃ t, exec (.contextWake h) s = .next t ∧ t.ctx h = { s.ctx h with st := .ready, why := none } ∧
      (∀ j, j ≠ h → t.ctx j = s.ctx j) ∧ t.mem = s.mem) ∧
    (s.chooses k = none → exec (.issueStageGrant k) s = .next s) ∧
    (s.chooses k = some h → (∃ c, (h, c) ∈ s.hw ∧ coreOf h = k ∧ c.st = .ready ∧ c.halt = false ∧ (c.dbg.held = true ∨
        ∀ x ∈ s.hw, coreOf x.1 = k → x.2.st = .ready → x.2.halt = false → x.2.dbg.stop = false → x.2.fin = none →
          x.2.dbg.held = false ∧ c.stamp ≤ x.2.stamp)) ∧
      ∃ t, exec (.issueStageGrant k) s = .next t ∧
        t.ctx h = { s.ctx h with st := .issue, dbg := { (s.ctx h).dbg with held := false } } ∧ (t.core k).holder = some (h % 4) ∧
        (∀ j, j ≠ h → t.ctx j = s.ctx j) ∧ t.mem = s.mem) ∧
    (∀ t, (s.ctx h).task = some t → let d := s.dc t.dev t.dctx
      ((mget 0 d.drcfg 1).getLsbD 0 = false → exec (.sampleRecord h) s = .next s) ∧
      ((mget 0 d.drcfg 1).getLsbD 0 = true → ∃ t', exec (.sampleRecord h) s = .next t' ∧ (t'.dc t.dev t.dctx).drcnt = d.drcnt + 1 ∧
        t'.ctx h = s.ctx h))

/-- R65, R68, R76 to R78, R133 and R182: the events of the memory beside the accesses: a read port fetches the next run of its
walk ahead of the pops, a walk asked for leaves its leaf in the cluster's cache, an idle array enters retention after the interval
of RETIV, a scrub counts the error it corrects and goes on to the next granule, and a machine check is counted. Model's choices it
rests on: assumption log 5, 34, 102. -/
def Obligations.PortsWalksRetentionAndScrubs : Prop :=
  ∀ (s : State),
    (∀ h n g ps s1, mget none (s.ctx h).q.ag n = some g → g.fover = false → g.fetched.length < 8 → (s.ctx h).halt = false →
      (∀ q sc, g.hold = some (q, sc) → (s.ctx h).storesBefore q sc = true) →
      s.convOf (s.ctx h) ((s.ctx h).box (parBox g.par)) = none →
      portRun h g.par g.fidx 0 (parWid g.par) false (s.sched 1 (.portFetch h n)) = .ok (ps, s1) →
      (s1.touchAll (ps.map (·.pl))).1 = 0 → (∀ p ∈ ps, s1.pathClear h (homeOf p.pl) = true) → mkeysFrom none (s1.ctx h).q.ag = true →
      ∃ t g', exec (.portFetch h n) s = .next t ∧ t.mem = s1.mem ∧ mget none (t.ctx h).q.ag n = some g' ∧ g'.par = g.par ∧ g'.pos = g.pos ∧
        g'.fetched.length = g.fetched.length + 1 ∧ (g'.fidx, g'.fover) = walkNext g.par g.fidx ∧ g'.hold = none ∧
        (t.ctx h).f = (s1.ctx h).f) ∧
    (∀ h n, mget none (s.ctx h).q.ag n = none → exec (.portFetch h n) s = .next s) ∧
    (∀ cl d c va e l, c ≠ 0 → va < 2 ^ 48 → tlbFind (s.clu cl).tlb d c va = none → s.walk d va (s.dc d c).ptb.toNat 3 = some (e, l) →
      ∃ t, exec (.translationWalkDone cl d c va) s = .next t ∧ t.mem = s.mem ∧
        tlbFind (t.clu cl).tlb d c va = some { dev := d, dctx := c, va := va / leafSize l * leafSize l, size := leafSize l, ent := e }) ∧
    (∀ cl d c va, s.walk d va (s.dc d c).ptb.toNat 3 = none → exec (.translationWalkDone cl d c va) s = .next s) ∧
    (∀ k, let iv := max 10 (fld s.mgt.retiv 31 0) * 1100
      (k < 5120 → (s.core k).used + iv ≤ s.clk.wall → ∃ t, exec (.retentionEnter k) s = .next t ∧
        (t.core k).idle = (if (s.core k).idle = none then some s.clk.wall else (s.core k).idle) ∧ t.mem = s.mem) ∧
      (5120 ≤ k → (s.clu (k - 5120)).used + iv ≤ s.clk.wall → ∃ t, exec (.retentionEnter k) s = .next t ∧
        (t.clu (k - 5120)).idle = (if (s.clu (k - 5120)).idle = none then some s.clk.wall else (s.clu (k - 5120)).idle) ∧
        t.mem = s.mem) ∧
      (k < 5120 → s.clk.wall < (s.core k).used + iv → ∃ t, exec (.retentionEnter k) s = .next t ∧ (t.core k).idle = (s.core k).idle ∧
        ∃ d, (d, .retentionEnter k) ∈ t.agenda)) ∧
    (∀ a, ∃ t, exec (.scrub a) s = .next t ∧ t.mem = s.mem ∧ (s.clk.wall + 11000, .scrub ((a + 1) % 2 ^ 33)) ∈ t.agenda ∧
      (t.mgt = s.mgt ∨ t.mgt = (s.countErr 0).mgt ∨ t.mgt = (s.countErr 1).mgt ∨ t.mgt = ((s.countErr 1).countErr 0).mgt)) ∧
    (∀ a, (s.countErr 2).ownersOf a = [] → exec (.machineCheck a) s = .next (s.countErr 2))

/-! The step, the issue and its end (R147 to R155, R166 to R172, R205). -/

/-- A context that is about to issue the bundle at its PC: no event is due, the device issues, the turn is the context's core's, no latch
is due, and neither a breakpoint nor the pace of checking mode stands before the issue (R148, R153, R154, R376). -/
def Sys2Proof.Claims.AboutToIssue (s : State) (h : Nat) : Prop :=
  (∀ x l, s.agenda = x :: l → s.clk.wall < x.1) ∧ s.issuing = true ∧ s.nextCore = some (coreOf h) ∧
  (s.core (coreOf h)).holder = some (h % 4) ∧ (∀ l ∈ (s.ctx h).lats, l.dist ≠ 0) ∧ (s.ctx h).sys.chk.getLsbD 0 = false ∧
  ((s.ctx h).dbg.past = true ∨ (s.ctx h).breakAt (s.ctx h).pc = false)

/-- The state in which the core of a context takes its turn. -/
def Sys2Proof.Claims.onTurn (s : State) (h : Nat) : State := { s with iss := none, clk := { s.clk with turn := coreOf h + 1 } }

/-- The state in which a fetched bundle issues: at its first issue a task of level 2 or 3 has `now` in g1 (R315). -/
def Sys2Proof.Claims.started (s : State) (h : Nat) : State := s.firstIssue h

/-- The bytes at the PC of a context are those of the bundle `b` (R163, R165); `s1` is the state after the fetch. -/
def Sys2Proof.Claims.Fetches (s : State) (h : Nat) (b : Bundle) (s1 : State) : Prop :=
  ∃ x s0 bs, s.fetchHeader h (s.ctx h).pc = (.ok x, s0) ∧ s0.fetchBytes h (s.ctx h).pc x.size = (.ok bs, s1) ∧ decodeBundle bs = some b

/-- The state in which the one operation of a bundle is executed: the issue has begun, under the operation's sticky record where it has
one (R166, R177). -/
def Sys2Proof.Claims.issueOf (s : State) (h : Nat) (b : Bundle) (sl : Slot) (op : Instr) : State :=
  let p := planOf (s.ctx h) (b.hd.hold == 1) [(sl, op)]
  let s' := (s.traceIssue h (s.ctx h).pc).modCtx h fun c => { c with prog := { c.prog with stick := p.stick } }
  { s' with iss := some { s.beginIss h b with re := p.re } }

/-- What follows an operation that was the only one of its issue: the issue ends, where nothing has stopped it and the operation has not
ended it already; a stopped issue leaves the state it began from but for the stop. -/
def Sys2Proof.Claims.afterOp (s : State) (h : Nat) (i : Iss) (t : State) (j : Iss) : State :=
  State.issued h (match j.stop with
    | none => if j.gone then t else t.finish j
    | some e => s.stopIssue i e)

/-- R163, R165, R166, R172 and R315: when the bytes at the PC of the context whose turn it is are a bundle with one operation, or with none, the
step executes exactly that operation in its issue, and then ends the issue. -/
def Obligations.StepRunsTheDecodedInstruction : Prop :=
  ∀ (s s1 : State) (h : Nat) (b : Bundle), AboutToIssue s h → Fetches (onTurn s h) h b s1 → b.mark = none → s1.slotErr h b.ops = none →
    (∀ sl op t j, b.ops = [(sl, .ok op)] → b.single = some op → (sl = .b → b.hd.rep.toNat ≤ (s1.ctx h).prog.idx) →
      (planOf ((started s1 h).ctx h) (b.hd.hold == 1) [(sl, op)]).ops = [op] →
      let s2 := issueOf (started s1 h) h b sl op
      exec op s2 = .next t → t.iss = some j →
      ∃ i, s2.iss = some i ∧ step s = .next (afterOp (started s1 h) h i t j)) ∧
    (∀ op t j, b.ops = [] → b.single = some op →
      let i := (started s1 h).beginIss h b
      exec op { started s1 h with iss := some i } = .next t → t.iss = some j → j.stop = none → step s = .next (t.issued h))

/-- R165 and R172: bytes at the PC that cannot be fetched or are no bundle, and a slot word that is no instruction, raise their traps at the
bundle, before any operation has an effect. -/
def Sys2Proof.Claims.StepTrapsOnWhatIsNoBundle : Prop :=
  ∀ (s : State) (h : Nat), AboutToIssue s h →
    let s0 := onTurn s h
    let c := s0.ctx h
    (∀ e s1, s0.fetchBundle h c.pc = (.error e, s1) → step s = .next (s1.trapOrStop h c.pc c.prog.idx
      { cause := e.1, info := 0, slot := 7, asy := false, sregs := e.2, regs := [], mem := [], blk := none })) ∧
    (∀ b s1 sl e, s0.fetchBundle h c.pc = (.ok b, s1) → s1.slotErr h b.ops = some (sl, e) →
      step s = .next (s1.trapOrStop h c.pc c.prog.idx
        { cause := e.cause.toNat, info := e.info, slot := sl.num, asy := false, sregs := [], regs := [], mem := [], blk := none }))

/-- No step is refused: every instruction of the table has its meaning. -/
def Sys2Proof.Claims.NoStepIsRefused : Prop :=
  ∀ (s : State) (r : Refusal), step s ≠ .refused r ∧ ∀ i : Instr, exec i s ≠ .refused r

/-- R171: a slot operation whose guard is false has no effect, pushes and pops nothing, and raises, stalls and blocks nothing; one executed
with no issue in progress stops the machine by name, which is the model's own stop (no step comes to it from a state in which the agenda
holds events alone). -/
def Sys2Proof.Claims.FalseGuardsHaveNoEffect : Prop :=
  ∀ (op : Instr) (sl : Slot) (g : Guard) (k : Bool) (s : State), slotInfo op = some (sl, g, k) →
    (∀ i, s.iss = some i → (s.ctx i.h).guard g = false → exec op s = .next s) ∧
    (s.iss = none → exec op s = .fault .noIssuingContext) ∧
    (g.p = 0 → g.n = 1 → ∀ i, s.iss = some i → exec op s = .next s)

/-- R171: no step is refused, and an operation whose guard is false has no effect. Model's choices it rests on: assumption log
104, 105. -/
def Obligations.NoRefusalAndFalseGuards : Prop :=
  Sys2Proof.Claims.NoStepIsRefused ∧
  Sys2Proof.Claims.FalseGuardsHaveNoEffect

/-- The operations that end their bundle, or their task, themselves (R212, R228, R229). -/
def Sys2Proof.Claims.endsBundle : Instr → Bool
  | .done _ => true
  | .trap _ _ => true
  | .eret _ => true
  | .brk _ _ => true
  | _ => false

/-- R148, R166 and R171: the issue of a slot operation that is not stopped changes no byte of storage, no register, predicate, view or tag
of its context, no trap register and no counter of cycles, and leaves its PC: results are in latches, and stores in queues. -/
def Sys2Proof.Claims.IssueLeavesRegistersAndStorage : Prop :=
  ∀ (op : Instr) (sl : Slot) (g : Guard) (k : Bool) (s t : State) (i : Iss), slotInfo op = some (sl, g, k) → endsBundle op = false →
    s.iss = some i → i.stop = none → exec op s = .next t → Unstopped t →
    t.mem = s.mem ∧ (t.ctx i.h).f = (s.ctx i.h).f ∧ (t.ctx i.h).sys = (s.ctx i.h).sys ∧ (t.ctx i.h).trp = (s.ctx i.h).trp ∧
    (t.ctx i.h).pc = (s.ctx i.h).pc ∧ (t.ctx i.h).ccy = (s.ctx i.h).ccy ∧ (t.ctx i.h).scy = (s.ctx i.h).scy ∧
    (t.ctx i.h).bx = (s.ctx i.h).bx ∧ (t.ctx i.h).loops = (s.ctx i.h).loops

/-- R147 and R166: an issue advances ccy and scy by 1, brings every landing one cycle nearer and changes no register; the bundle goes on to its
next issue, and after its last one to the target of its B slot, else as the end test says. -/
def Sys2Proof.Claims.IssuesAdvanceTheCounters : Prop :=
  ∀ (s : State) (i : Iss),
    let c := s.ctx i.h
    let d := (s.retire i).ctx i.h
    d.ccy = c.ccy + 1 ∧ d.scy = c.scy + 1 ∧ d.f = c.f ∧ d.sys = c.sys ∧ d.trp = c.trp ∧ d.q = c.q ∧ (s.retire i).mem = s.mem ∧
    (∀ k, k ≠ i.h → (s.retire i).ctx k = s.ctx k) ∧
    (∀ l ∈ c.lats, { l with dist := l.dist - 1 } ∈ d.lats) ∧
    (i.last = false → d.pc = c.pc ∧ d.prog.idx = c.prog.idx + 1 ∧ d.lats = c.lats.map Latch.nearer ∧ d.loops = c.loops) ∧
    (i.last = true → d.prog.idx = 0 ∧ d.prog.blk = none) ∧
    (∀ a, i.last = true → i.tgt = .addr a → d.pc = a ∧ d.lats = c.lats.map Latch.nearer) ∧
    (i.last = true → i.tgt = .seq → d.pc = (endTest c i.addr c.f.pr c.sys.rb c.levels).1.getD (i.addr + BitVec.ofNat 64 i.size))

/-- R147, R148, R166 and R171: what an issue leaves alone, and what its end advances. -/
def Obligations.IssueFrameAndCounters : Prop :=
  Sys2Proof.Claims.IssueLeavesRegistersAndStorage ∧
  Sys2Proof.Claims.IssuesAdvanceTheCounters

/-- R205: the end test at an address, over the levels in the order given: levels that are inactive or end elsewhere are passed over; one
with two iterations or more left loses one and branches to its start; one with a single iteration left is exhausted, and the next is
tested. A rotating level moves rb and the stage predicates (R204). No written loop register is late in these levels (R206). -/
def Sys2Proof.Claims.LoopEndTest : Prop :=
  ∀ (c : Ctx) (a : Word) (p : BitVec 16) (rb : BitVec 8) (l : Nat) (ls : List Nat), (c.loop l).held = [] →
    let x := c.loop l
    let lk := if x.rot = true ∧ x.lk ≠ 0 then x.lk - 1 else x.lk
    let p' : BitVec 16 := if x.rot then (p &&& 0x00FF) ||| (((p &&& 0x7F00) <<< 1) ||| (if lk ≠ 0 then 0x0100 else 0)) else p
    let rb' := if x.rot then rb - 1 else rb
    let ws (n : Word) := Wr.loopTest l n lk x.ord :: (if x.rot then [Wr.stages (p'.extractLsb' 8 8), Wr.rb rb'] else [])
    endTest c a p rb [] = (none, []) ∧
    ((x.lc = 0 ∨ x.le ≠ a) → endTest c a p rb (l :: ls) = endTest c a p rb ls) ∧
    (2 ≤ x.lc.toNat → x.le = a → endTest c a p rb (l :: ls) = (some x.ls, ws (x.lc - 1))) ∧
    (x.lc = 1 → x.le = a → endTest c a p rb (l :: ls) =
      ((endTest c a p' rb' ls).1, ws 0 ++ (endTest c a p' rb' ls).2))

/-- The order of the levels that the end test follows: the most recently started first (R205), as they stand without late writes (R206). -/
def Sys2Proof.Claims.LevelsNewestFirst : Prop :=
  ∀ (c : Ctx), (∀ l, l ∈ c.levels ↔ l < 4) ∧ c.levels.Pairwise (fun a b => (c.loop b).tested.ord ≤ (c.loop a).tested.ord) ∧
    c.levels.Nodup ∧ ∀ l, (c.loop l).held = [] → (c.loop l).tested = c.loop l

/-- R204 and R205: the end test, over the levels with the most recently started first. -/
def Obligations.LoopEnds : Prop :=
  Sys2Proof.Claims.LoopEndTest ∧
  Sys2Proof.Claims.LevelsNewestFirst

/-- R168 and R169: an empty issue of a fold advances its context and does nothing else; an issue of a sticky run issues the recorded
operation again with its step count advanced; a marker sets the drift base, or appends one record to the drift area. -/
def Obligations.FoldsAndMarkers : Prop :=
  ∀ (s : State) (i : Iss), s.iss = some i →
    let c := s.ctx i.h
    (∀ k r, exec (.idle k r) s = .next ((s.traceIssue i.h i.addr).finish i)) ∧
    (∀ k r, c.prog.after = none → i.after = none → i.yield = false → ∃ t, exec (.idle k r) s = .next t ∧ (t.ctx i.h).ccy = c.ccy + 1 ∧
      (t.ctx i.h).scy = c.scy + 1 ∧ (t.ctx i.h).f = c.f ∧ (t.ctx i.h).q = c.q) ∧
    (∀ k r, c.prog.stick = [] → i.stop = none → i.gone = false → c.sys.chk.getLsbD 0 = false → c.prog.after = none → i.after = none →
      i.yield = false →
      ∃ t, exec (.idleHold k r) s = .next t ∧ (t.ctx i.h).ccy = c.ccy + 1 ∧ (t.ctx i.h).scy = c.scy + 1 ∧ (t.ctx i.h).f = c.f) ∧
    (∀ k r sl rec t j, c.prog.stick = [(sl, some rec)] → (∃ y : Slot, ∃ g, y.num = sl ∧ slotInfo rec.op = some (y, g, true)) →
      c.sys.chk.getLsbD 0 = false →
      let rec' := { rec with s := rec.s + 1 }
      let i' := { i with re := [(sl, rec')], later := [] }
      let s' := (s.traceIssue i.h i.addr).modCtx i.h fun c => { c with prog := { c.prog with stick := [(sl, some rec')] } }
      exec rec.op { s' with iss := some i' } = .next t → t.iss = some j → j.stop = none →
      exec (.idleHold k r) s = .next (if j.gone then t else t.finish j)) ∧
    (exec (.mark 0) s = .next (s.modCtx i.h fun c => { c with sys := { c.sys with dbase := c.ccy } })) ∧
    (∀ e t, e ≠ 0 → c.task = some t →
      let d := s.dc t.dev t.dctx
      ((mget 0 d.drcfg 1).getLsbD 0 = false → exec (.mark e) s = .next s) ∧
      ((mget 0 d.drcfg 1).getLsbD 0 = true → ∃ u, exec (.mark e) s = .next u ∧ (u.dc t.dev t.dctx).drcnt = d.drcnt + 1 ∧
        (u.ctx i.h).f = c.f))

/-! Traps (R155, R225 to R230). -/

/-- R155, R225, R226 and R227: a trap that no debug stop turns into a halt enters the handler: tpc holds the bundle to resume, tcs the cause,
slot, index and INFO with HND set, the latches, bypasses, sticky records and progress are set aside, and the next bundle is the handler's
first; registers, predicates, queues and loops stay. While a handler runs, or with EN clear, the task ends abnormally instead. -/
def Sys2Proof.Claims.TrapsEnterTheHandler : Prop :=
  ∀ (s : State) (h : Nat) (resume : Word) (idx : Nat) (cause info : Nat) (sl : Slot),
    cause < 256 → info < 2 ^ 32 → idx < 256 →
    let c := s.ctx h
    let tr : TrapInfo := { cause := cause, info := info, slot := sl.num, asy := false, sregs := [], regs := [], mem := [], blk := none }
    let t := s.trapOrStop h resume idx tr
    c.breakArmed = false →
    (c.trp.tcs.getLsbD 31 = false → c.trp.tvec.getLsbD 0 = true →
      (t.ctx h).trp.tpc = resume &&& 0xFFFFFFFC ∧ (t.ctx h).pc = c.trp.tvec &&& 0xFFFFFFFC ∧
      fld (t.ctx h).trp.tcs 7 0 = cause ∧ fld (t.ctx h).trp.tcs 23 16 = idx ∧ fld (t.ctx h).trp.tcs 26 24 = sl.num ∧
      fld (t.ctx h).trp.tcs 31 31 = 1 ∧ fld (t.ctx h).trp.tcs 30 30 = 0 ∧ fld (t.ctx h).trp.tcs 63 32 = info ∧
      (t.ctx h).lats = [] ∧ (t.ctx h).prog.idx = 0 ∧ (t.ctx h).prog.stick = [] ∧
      (∃ a, (t.ctx h).trp.aside = some a ∧ a.lats = c.lats ∧ a.byp = c.byp ∧ a.prog.stick = c.prog.stick ∧ a.prog.idx = idx ∧
        a.seq = c.q.seq) ∧
      (t.ctx h).f = c.f ∧ (t.ctx h).q = c.q ∧ (t.ctx h).loops = c.loops ∧ (t.ctx h).sys = c.sys ∧ (t.ctx h).bx = c.bx ∧
      (t.ctx h).ccy = c.ccy ∧ (t.ctx h).trp.tvec = c.trp.tvec ∧ t.mem = s.mem ∧ (∀ k, k ≠ h → t.ctx k = s.ctx k)) ∧
    (c.trp.tcs.getLsbD 31 = true ∨ c.trp.tvec.getLsbD 0 = false →
      (t.ctx h).fin = some 1 ∧ (s.clk.wall, .taskEnd h) ∈ t.agenda ∧ (t.ctx h).f = c.f ∧ (t.ctx h).pc = c.pc ∧ t.mem = s.mem)

/-- R150, R151 and R155: a stopped issue has no effect beside its stop: a trap is taken at the bundle, a block frees the stage with the
context BLOCKED under its stamp and both counters as they were, a stall, behind a late item too, advances ccy
alone. -/
def Sys2Proof.Claims.StoppedIssuesHaveNoOtherEffect : Prop :=
  ∀ (s : State) (i : Iss),
    let c := s.ctx i.h
    (∀ t, (s.stopIssue i (.trap t)).hw = (s.trapOrStop i.h i.addr c.prog.idx t).hw ∧
      (s.stopIssue i (.trap t)).mem = (s.trapOrStop i.h i.addr c.prog.idx t).mem) ∧
    (∀ w, let t := s.stopIssue i (.block w)
      (t.ctx i.h).st = .blocked ∧ (t.ctx i.h).why = some w ∧ (t.ctx i.h).stamp = s.clk.wall ∧ (t.core (coreOf i.h)).holder = none ∧
      (t.ctx i.h).ccy = c.ccy ∧ (t.ctx i.h).scy = c.scy ∧ (t.ctx i.h).f = c.f ∧ (t.ctx i.h).q = c.q ∧ (t.ctx i.h).lats = c.lats ∧
      (t.ctx i.h).pc = c.pc ∧ t.mem = s.mem) ∧
    (∀ e, (∃ n, e = .stall n) ∨ (∃ ps, e = .late ps) → let t := s.stopIssue i e
      (t.ctx i.h).ccy = c.ccy + 1 ∧ (t.ctx i.h).scy = c.scy ∧ (t.ctx i.h).lats = c.lats ∧ (t.ctx i.h).f = c.f ∧ (t.ctx i.h).q = c.q ∧
      (t.ctx i.h).st = c.st ∧ (t.ctx i.h).pc = c.pc ∧ t.mem = s.mem)

/-- R150, R151, R155, R165, R172 and R225 to R227: what traps, what a trap leaves, and that a stopped issue has no other effect.
Model's choices it rests on: assumption log 23, 33, 87. -/
def Obligations.TrapsAndStops : Prop :=
  Sys2Proof.Claims.StepTrapsOnWhatIsNoBundle ∧
  Sys2Proof.Claims.TrapsEnterTheHandler ∧
  Sys2Proof.Claims.StoppedIssuesHaveNoOtherEffect

/-! Storage over every step, and reset (R5, R75, R379). -/

/-- The canonical form of storage holds in the machine right after reset. Model's choices it rests on: assumption log 3. -/
def Obligations.ResetStorageIsCanonical : Prop := State.reset.mem.wf = true

/-- Every step keeps the canonical form of storage: equal contents are equal data. -/
def Obligations.StepsKeepStorageCanonical : Prop := ∀ s t : State, s.mem.wf = true → step s = .next t → t.mem.wf = true

/-! The V, X and H slots (R37, R47 to R51, R59, R175, R176, R265 to R292). -/

/-- What the checks and the reads of a lane-wise operation have found (R174, R265, R268): its destination, its active lanes and mask, its
sources, and the state after the items that its operands take. -/
def Sys2Proof.Claims.LaneCase (s s1 : State) (i : Iss) (d : Opnd) (srcs : List Opnd) (m : VMask) (dst : Dst) (x : Grid) (ls : List Src) :
    Prop :=
  dstM i.h .v d (flagAt m.st 0) s = .ok (dst, s) ∧ gridM i.h m dst.rows dst.cols s = .ok (x, s) ∧
  (∃ ms, metasM i.h .v m.st 1 srcs s = .ok (ms, s) ∧ ∀ q ∈ ms, q.fits dst.fmt x.cols = true) ∧
  dstFits i.h d x.cols s = .ok ((), s) ∧ itemsM i.h srcs s = .ok ((), s) ∧ srcsM i.h .v m.st dst.fmt 1 srcs s = .ok (ls, s1)

/-- The lanes of a raw result row (R59, R266): an active enabled lane receives its value; an active lane that is masked off receives
zero under MP, a lane outside the grant zero under TP, and each keeps its content otherwise. -/
def Sys2Proof.Claims.lanesOf (x : Grid) (d : Dst) (f : Nat → Nat → Nat × Nat) (r : Nat) : List Lane :=
  (List.range d.cols).map fun k =>
    let active := r < x.rows ∧ k < x.cols
    if active ∧ x.en r k = true then .val (f r k).1
    else if active then (if x.mp then .val 0 else .keep)
    else (if x.tp then .val 0 else .keep)

/-- The flags that the enabled lanes of a result raise, as one last part of it (R269). -/
def Sys2Proof.Claims.flagsOf (x : Grid) (f : Nat → Nat → Nat × Nat) : List Wr :=
  let fl := (List.range x.rows).foldl (fun a r => (List.range x.cols).foldl (fun a k => if x.en r k then flOr a (f r k).2 else a) a) 0
  if fl = 0 then [] else [.fsr (BitVec.ofNat 64 fl)]

/-- The swage of a core taken for a number of cycles (R267). -/
def Sys2Proof.Claims.swageTaken (s : State) (h rows : Nat) : State :=
  s.modCore (coreOf h) fun c => { c with vfree := s.clk.wall + rows }

/-- A raw result of the V slot: with no active row nothing happens beside the items taken; otherwise, with a free swage and latch, one latch
holds the rows of the result and its flags, and lands after the latency and one cycle more for every further row (R265 to R269). -/
def Sys2Proof.Claims.RawResult (op : Instr) (s s1 : State) (i : Iss) (d : Opnd) (dst : Dst) (x : Grid) (lat : Nat)
    (f : Nat → Nat → Nat × Nat) : Prop :=
  (x.rows = 0 → exec op s = .next s1) ∧
  ∀ ws s2, x.rows ≠ 0 → rowsWrs i.h d dst x.rows x.cols (lanesOf x dst f) Wr.vbAt Wr.vb (fun _ => []) s1 = .ok (ws, s2) →
    (s2.core (coreOf i.h)).vfree ≤ s2.clk.wall → LatchFree s2 i.h →
    exec op s = .next (latched (swageTaken s2 i.h x.rows) i.h .v (lat + x.rows - 1) (ws ++ flagsOf x f) d.code.toNat false)

/-- A lane of an operation on integers and floats: the float result with its flags, or the integer result wrapped, with none (R270). -/
def Sys2Proof.Claims.onBoth (F : Nat) (fl : FFmt → FV → FV → Nat × Nat) (int : Int → Int → Int) (a b : Nat) : Nat × Nat :=
  if fmtFloat F then fl (ffmt F) (fDecode (ffmt F) a) (fDecode (ffmt F) b) else (wrapTo (fmtBits F) (int (intVal F a) (intVal F b)), 0)

/-- The two-source lane-wise operations under a rounding mode, each with the formats it is defined on, its latency by format and a lane's
result (R267, R270, R271). Shifts by the width or more clear, or fill with the sign. -/
def Sys2Proof.Claims.vectorTwo (rm : BitVec 2) :
    List ((Guard → Opnd → Opnd → Opnd → VMask → Instr) × (Nat → Bool) × (Nat → Nat) × (Nat → Nat → Nat → Nat × Nat)) :=
  [(fun g => .vadd g rm, fmtRaw, fun _ => 4, fun F => onBoth F (fun t x y => fAdd t rm.toNat x y) (· + ·)),
   (fun g => .vsub g rm, fmtRaw, fun _ => 4, fun F => onBoth F (fun t x y => fAdd t rm.toNat x y.neg) (· - ·)),
   (fun g => .vmul g rm, fmtRaw, fun _ => 4, fun F => onBoth F (fun t x y => fMul t rm.toNat x y) (· * ·)),
   (fun g => .vdiv g rm, fmtFloat, fun F => if F = 0 then 24 else 16,
    fun F a b => fDiv (ffmt F) rm.toNat (fDecode (ffmt F) a) (fDecode (ffmt F) b)),
   (.vmin, fmtRaw, fun _ => 4, fun F a b => if fmtFloat F then fPick false F a b else (if intVal F a < intVal F b then a else b, 0)),
   (.vmax, fmtRaw, fun _ => 4, fun F a b => if fmtFloat F then fPick true F a b else (if intVal F a < intVal F b then b else a, 0)),
   (.vand, fmtRaw, fun _ => 4, fun F a b => ((a &&& b) % 2 ^ fmtBits F, 0)),
   (.vor, fmtRaw, fun _ => 4, fun F a b => ((a ||| b) % 2 ^ fmtBits F, 0)),
   (.vxor, fmtRaw, fun _ => 4, fun F a b => ((a ^^^ b) % 2 ^ fmtBits F, 0)),
   (.vshl, fmtInteger, fun _ => 4, fun F a b => (if b < fmtBits F then a * 2 ^ b % 2 ^ fmtBits F else 0, 0)),
   (.vshr, fmtInteger, fun _ => 4, fun F a b => (if b < fmtBits F then a / 2 ^ b % 2 ^ fmtBits F else 0, 0)),
   (.vsra, fmtInteger, fun _ => 4,
    fun F a b => (wrapTo (fmtBits F) (toSigned (fmtBits F) a / 2 ^ (min b (fmtBits F - 1))) % 2 ^ fmtBits F, 0))]

/-- The one-source lane-wise operations (R267, R270, R271). -/
def Sys2Proof.Claims.vectorOne (rm : BitVec 2) :
    List ((Guard → Opnd → Opnd → VMask → Instr) × (Nat → Bool) × (Nat → Nat) × (Nat → Nat → Nat × Nat)) :=
  let fn (F : Nat) : Nat := if F = 0 then 18 else 12
  [(.vabs, fmtRaw, fun _ => 4, fun F a => if fmtFloat F then (a % 2 ^ (fmtBits F - 1), 0) else (wrapTo (fmtBits F) (intVal F a).natAbs, 0)),
   (.vneg, fmtRaw, fun _ => 4, fun F a => if fmtFloat F then (a ^^^ 2 ^ (fmtBits F - 1), 0) else (wrapTo (fmtBits F) (-(intVal F a)), 0)),
   (.vnot, fmtRaw, fun _ => 4, fun F a => ((2 ^ fmtBits F - 1 - a) % 2 ^ fmtBits F, 0)),
   (fun g => .vrcp g rm, fmtFloat, fn, fun F a => fDiv (ffmt F) rm.toNat (.fin false 1 0) (fDecode (ffmt F) a)),
   (fun g => .vsqrt g rm, fmtFloat, fn, fun F a => fSqrt (ffmt F) rm.toNat (fDecode (ffmt F) a)),
   (fun g => .vrsqrt g rm, fmtFloat, fn, fun F a => fRsqrt (ffmt F) rm.toNat (fDecode (ffmt F) a)),
   (fun g => .vexp2 g rm, fmtFloat, fn, fun F a => fExp2 (ffmt F) rm.toNat (fDecode (ffmt F) a)),
   (fun g => .vlog2 g rm, fmtFloat, fn, fun F a => fLog2 (ffmt F) rm.toNat (fDecode (ffmt F) a))]

/-- R265 to R271: the lane-wise operations of the V slot: one result row for each active row, the lanes as the mask and the
policies say, integers exact and wrapped. Model's choices it rests on: assumption log 13, 26. -/
def Obligations.VectorLanewiseResults : Prop :=
  ∀ (rm : BitVec 2) (g : Guard) (d b c e : Opnd) (m : VMask) (s s1 : State) (i : Iss) (dst : Dst) (x : Grid) (ls : List Src),
    Issues s i g →
    (∀ op ∈ vectorTwo rm, LaneCase s s1 i d [b, c] m dst x ls → op.2.1 dst.fmt = true →
      ∃ y z, ls = [y, z] ∧
        RawResult (op.1 g d b c m) s s1 i d dst x (op.2.2.1 dst.fmt) fun r k => op.2.2.2 dst.fmt (y.at r k) (z.at r k)) ∧
    (∀ op ∈ vectorOne rm, LaneCase s s1 i d [b] m dst x ls → op.2.1 dst.fmt = true →
      ∃ y, ls = [y] ∧ RawResult (op.1 g d b m) s s1 i d dst x (op.2.2.1 dst.fmt) fun r k => op.2.2.2 dst.fmt (y.at r k)) ∧
    (LaneCase s s1 i d [b, c, e] m dst x ls → fmtFloat dst.fmt = true →
      let t := ffmt dst.fmt
      ∃ y z w, ls = [y, z, w] ∧
        RawResult (.vfma g rm d b c e m) s s1 i d dst x 4 (fun r k =>
          fFma t rm.toNat (fDecode t (y.at r k)) (fDecode t (z.at r k)) (fDecode t (w.at r k))) ∧
        RawResult (.vfms g rm d b c e m) s s1 i d dst x 4 (fun r k =>
          fFma t rm.toNat (fDecode t (y.at r k)) (fDecode t (z.at r k)) (fDecode t (w.at r k)).neg))

/-- R54, R56, R59 and R266: the writes of a result row through a view of a raw format: a lane with a value holds it afterwards, a lane without
one keeps its element, and no byte outside the lanes changes. The view lies above the scalar register g0, whose bytes no write reaches. -/
def Sys2Proof.Claims.ResultRowsLandInTheirLanes : Prop :=
  ∀ (c : Ctx) (v : View) (row : Nat) (lanes : List Lane), mwf 0 c.f.rs = true → fmtRaw v.fmt = true → 1 ≤ v.base →
    v.base + v.stride * row + v.w ≤ 256 → lanes.length ≤ v.cols →
    let t := (viewWrs v row lanes).foldl Ctx.apply c
    (∀ k n, lanes[k]? = some (.val n) → t.elem v row k = n % 2 ^ fmtBits v.fmt) ∧
    (∀ k, lanes[k]? = some .keep → t.elem v row k = c.elem v row k) ∧
    (∀ a, a < 16384 → (∀ k n, lanes[k]? = some (.val n) → ¬ (v.addr row k ≤ a ∧ a < v.addr row k + fmtBytes v.fmt)) →
      mget 0 t.f.rs a = mget 0 c.f.rs a) ∧
    t.f.pr = c.f.pr ∧ t.f.vd = c.f.vd ∧ t.sys = c.sys ∧ t.byp = c.byp ∧ t.q = c.q

/-- R265 and R266: where the rows of a result go: through a view, row by row, with vb0 taking the last row; to a scalar register, element 0 of
row 0. -/
def Sys2Proof.Claims.ResultRowsGoToTheirDestination : Prop :=
  ∀ (h : Nat) (d : Dst) (v : View) (rows cols : Nat) (lanes : Nat → List Lane) (s : State),
    (∀ n, d.view = some v → rowsWrs h (.w n) d rows cols lanes Wr.vbAt Wr.vb (fun _ => []) s =
      .ok ((List.range d.rows).flatMap (fun r => viewWrs v r (lanes r)) ++
        [.vbAt ((v.base + v.stride * (rows - 1)) * 64) (cols * fmtBytes d.fmt) d.fmt], s)) ∧
    (∀ n x l, lanes 0 = .val x :: l → rowsWrs h (.g n) d rows cols lanes Wr.vbAt Wr.vb (fun _ => []) s =
      .ok ([.bytes (8 * n.toNat) (toBytes 8 x)], s)) ∧
    (∀ n l, lanes 0 = .keep :: l → rowsWrs h (.g n) d rows cols lanes Wr.vbAt Wr.vb (fun _ => []) s = .ok ([], s))

/-- R59, R174 to R176 and R266: where result rows go, and what each lane receives. Model's choices it rests on: assumption log 28.
-/
def Obligations.VectorResultRows : Prop :=
  Sys2Proof.Claims.ResultRowsLandInTheirLanes ∧
  Sys2Proof.Claims.ResultRowsGoToTheirDestination

/-- A tagged result through a view (R273): every block that holds an active lane is written whole, with its tag. -/
def Sys2Proof.Claims.TaggedResult (op : Instr) (s s1 : State) (i : Iss) (d : Opnd) (dst : Dst) (v : View) (x : Grid)
    (blk : Nat → Nat → Block) : Prop :=
  (x.rows = 0 → exec op s = .next s1) ∧
  (x.rows ≠ 0 → (s1.core (coreOf i.h)).vfree ≤ s1.clk.wall → LatchFree s1 i.h →
    let n := (x.cols + fmtPer dst.fmt - 1) / fmtPer dst.fmt
    let all := (List.range x.rows).map fun r => (List.range n).map fun j => blk r j
    let ws := all.zipIdx.flatMap fun y => y.1.zipIdx.flatMap fun z =>
      [Wr.bytes ((v.base + v.stride * y.2 + z.2) * 64) (packBlock dst.fmt z.1.1), Wr.tag (v.base + v.stride * y.2 + z.2) z.1.2.1]
    let fl := all.flatten.foldl (fun a y => flOr a y.2.2) 0
    exec op s = .next (latched (swageTaken s1 i.h x.rows) i.h .v (6 + x.rows - 1)
      (ws ++ [.vbAt ((v.base + v.stride * (x.rows - 1)) * 64) (64 * n) dst.fmt] ++ (if fl = 0 then [] else [.fsr (BitVec.ofNat 64 fl)]))
      d.code.toNat false))

/-- R267, R268, R272 to R274: conversions. `vcvt` rounds each element once into a raw destination, or into blocks with scale 127 and the code
CSEL names; `vpack` scales each block by its largest magnitude. -/
def Sys2Proof.Claims.VectorConversions : Prop :=
  ∀ (g : Guard) (rm : BitVec 2) (d b : Opnd) (csel : BitVec 3) (m : VMask) (s s1 : State) (i : Iss) (dst : Dst) (q : Meta) (x : Grid) (y : Src),
    Issues s i g → dstM i.h .v d (flagAt m.st 0) s = .ok (dst, s) → metaM i.h .v b (flagAt m.st 1) 1 s = .ok (q, s) →
    gridM i.h m dst.rows dst.cols s = .ok (x, s) → (q.strict = true → x.cols ≤ q.cols) → (fmtTagged dst.fmt = true → dst.view.isSome = true) →
    dstFits i.h d x.cols s = .ok ((), s) → cselOk dst.fmt csel.toNat = true →
    itemsM i.h [b] s = .ok ((), s) → rowSrc i.h .v b (flagAt m.st 1) 1 (q.fmt.getD 0) s = .ok (y, s1) →
    let code := (cselCode csel.toNat).getD 0
    (cvtOk (q.fmt.getD 0) dst.fmt = true → tagsOk y x.rows x.cols = true →
      (fmtTagged dst.fmt = false → RawResult (.vcvt g rm d b csel m) s s1 i d dst x 6 fun r k =>
        if fmtFloat dst.fmt then fEncode (ffmt dst.fmt) rm.toNat (srcVal y r k)
        else if fmtInteger y.fmt then (wrapTo (fmtBits dst.fmt) (intVal y.fmt (y.at r k)), 0)
        else iEncode dst.fmt rm.toNat (srcVal y r k)) ∧
      (∀ v, fmtTagged dst.fmt = true → dst.view = some v → TaggedResult (.vcvt g rm d b csel m) s s1 i d dst v x
        (cvtBlock x dst.fmt (mkTag 127 code) fun r k => nEncode code rm.toNat (srcVal y r k)))) ∧
    (∀ v, fmtFloat (q.fmt.getD 0) = true → fmtTagged dst.fmt = true → dst.view = some v →
      TaggedResult (.vpack g rm d b csel m) s s1 i d dst v x (packOf x dst.fmt code rm.toNat y))

/-- R51, R267 and R275: the reductions of the enabled lanes of each active row into its column 0: the sum in ascending order, rounded at every
step for a float and wrapped for an integer, and the largest value. -/
def Sys2Proof.Claims.VectorReductions : Prop :=
  ∀ (g : Guard) (rm : BitVec 2) (d b : Opnd) (m : VMask) (s s1 : State) (i : Iss) (dst : Dst) (q : Meta) (x : Grid) (y : Src),
    Issues s i g → dstM i.h .v d (flagAt m.st 0) s = .ok (dst, s) → metaM i.h .v b (flagAt m.st 1) 1 s = .ok (q, s) →
    gridM i.h m dst.rows q.cols s = .ok (x, s) →
    let F := q.fmt.getD dst.fmt
    (∀ n, d ≠ .wp n) → ((∃ n, d = .g n) ∨ dst.fmt = F) → dstFits i.h d 1 s = .ok ((), s) → fmtRaw F = true → itemsM i.h [b] s = .ok ((), s) →
    rowSrc i.h .v b (flagAt m.st 1) 1 F s = .ok (y, s1) →
    let row (r : Nat) : List Nat := ((List.range x.cols).filter (x.en r)).map fun k => y.at r k
    let out (op : Instr) (res : List Nat → Nat × Nat) : Prop :=
      (x.rows = 0 → exec op s = .next s1) ∧
      ∀ ws s2, x.rows ≠ 0 →
        rowsWrs i.h d { dst with fmt := F } x.rows 1 (fun r => if r < x.rows then [.val (res (row r)).1] else []) Wr.vbAt Wr.vb (fun _ => []) s1 =
          .ok (ws, s2) →
        (s2.core (coreOf i.h)).vfree ≤ s2.clk.wall → LatchFree s2 i.h →
        let fl := (List.range x.rows).foldl (fun a r => flOr a (res (row r)).2) 0
        exec op s = .next (latched (swageTaken s2 i.h x.rows) i.h .v ((if F = 0 then 10 else 8) + x.rows - 1)
          (ws ++ (if fl = 0 then [] else [.fsr (BitVec.ofNat 64 fl)])) d.code.toNat false)
    out (.vsum g rm d b m) (fun l => if fmtFloat F then (match l with | [] => (0, 0) | a :: l => sumGo (ffmt F) rm.toNat l a 0)
      else (wrapTo (fmtBits F) (l.map (intVal F)).sum, 0)) ∧
    out (.vmaxr g d b m) (maxRow F)

/-- R43 to R45, R51, R271 to R275: conversions between formats and row reductions. -/
def Obligations.VectorConversionsAndReductions : Prop :=
  Sys2Proof.Claims.VectorConversions ∧
  Sys2Proof.Claims.VectorReductions

/-- R174, R267 and R276 to R279: compares, selects, tests, moves and generators. Model's choices it rests on: assumption log 24,
25. -/
def Obligations.VectorComparesAndMoves : Prop :=
  ∀ (g : Guard) (d b c : Opnd) (m : VMask) (s s1 s2 : State) (i : Iss) (x : Grid) (y z : Src), Issues s i g →
    (∀ (cc : BitVec 3) dst q p, dstM i.h .v d (flagAt m.st 0) s = .ok (dst, s) → metaM i.h .v b (flagAt m.st 1) 1 s = .ok (q, s) →
      metaM i.h .v c (flagAt m.st 2) 2 s = .ok (p, s) → gridM i.h m dst.rows dst.cols s = .ok (x, s) →
      let F := q.fmt.getD (p.fmt.getD dst.fmt)
      q.fits F x.cols = true → p.fits F x.cols = true → fmtRaw dst.fmt = true → fmtBits dst.fmt = fmtBits F → fmtRaw F = true →
      dstFits i.h d x.cols s = .ok ((), s) → itemsM i.h [b, c] s = .ok ((), s) →
      rowSrc i.h .v b (flagAt m.st 1) 1 F s = .ok (y, s1) → lanesM i.h .v c (flagAt m.st 2) 2 F s1 = .ok (z, s2) →
      RawResult (.vcmp g cc d b c m) s s2 i d dst x 4 fun r k =>
        let t := if fmtFloat F then fvCond cc.toNat (fDecode (ffmt F) (y.at r k)) (fDecode (ffmt F) (z.at r k))
          else (ordCond cc.toNat (intVal F (y.at r k)) (intVal F (z.at r k)), 0)
        (if t.1 then 2 ^ fmtBits dst.fmt - 1 else 0, t.2)) ∧
    (∀ (n : BitVec 5) dst v ms, dstM i.h .v d (flagAt m.st 0) s = .ok (dst, s) → viewM i.h .v n (flagAt m.st 1) 1 s = .ok (v, s) →
      metasM i.h .v m.st 2 [b, c] s = .ok (ms, s) → gridM i.h m dst.rows dst.cols s = .ok (x, s) → fmtRaw v.fmt = true →
      (∀ q ∈ ms, q.fits dst.fmt x.cols = true) → dstFits i.h d x.cols s = .ok ((), s) → fmtRaw dst.fmt = true →
      itemsM i.h [b, c] s = .ok ((), s) → srcsM i.h .v m.st dst.fmt 2 [b, c] s = .ok ([y, z], s1) →
      RawResult (.vsel g d n b c m) s s1 i d dst x 4 fun r k =>
        (if (srcOfView (s.ctx i.h) v).at r k ≠ 0 then y.at r k else z.at r k, 0)) ∧
    (∀ q, metaM i.h .v b (flagAt m.st 1) 1 s = .ok (q, s) → gridM i.h m q.rows q.cols s = .ok (x, s) →
      m.st.getLsbD 3 = true → exec (.vanyUni g b m) s = .next (s.stopIssue i (trapAt 0x03 .v 10 []))) ∧
    (∀ q, metaM i.h .v b (flagAt m.st 1) 1 s = .ok (q, s) → gridM i.h m q.rows q.cols s = .ok (x, s) → itemsM i.h [b] s = .ok ((), s) →
      rowSrc i.h .v b (flagAt m.st 1) 1 (q.fmt.getD 0) s = .ok (y, s1) → reserveCq i.h s1 = .ok ((), s1) →
      let on (r k : Nat) : Prop := r < x.rows ∧ k < x.cols ∧ x.en r k = true
      (s1.core (coreOf i.h)).vfree ≤ s1.clk.wall → LatchFree s1 i.h →
      let out (t : Bool) : State := latched (if x.rows = 0 then s1 else swageTaken s1 i.h x.rows) i.h .v (4 + x.rows - 1) [.pushCq t] 0x59 false
      (∃ t, (t = true ↔ ∃ r k, on r k ∧ y.at r k ≠ 0) ∧ exec (.vanyAny g b m) s = .next (out t)) ∧
      (∃ t, (t = true ↔ ∀ r k, on r k → y.at r k ≠ 0) ∧ exec (.vanyAll g b m) s = .next (out t)) ∧
      (m.st.getLsbD 3 = false → (∀ r k r' k', on r k → on r' k' → (y.at r k ≠ 0 ↔ y.at r' k' ≠ 0)) →
        ∃ t, (t = true ↔ ∃ r k, on r k ∧ y.at r k ≠ 0) ∧ exec (.vanyUni g b m) s = .next (out t)) ∧
      (m.st.getLsbD 3 = false → (∃ r k r' k', on r k ∧ on r' k' ∧ y.at r k ≠ 0 ∧ y.at r' k' = 0) →
        exec (.vanyUni g b m) s = .next (s.stopIssue i (trapAt 0x07 .v 0 [])))) ∧
    (∀ dst q, dstM i.h .v d (flagAt m.st 0) s = .ok (dst, s) → metaM i.h .v b (flagAt m.st 1) 1 s = .ok (q, s) →
      gridM i.h m dst.rows dst.cols s = .ok (x, s) → dstFits i.h d x.cols s = .ok ((), s) → itemsM i.h [b] s = .ok ((), s) →
      (q.fits dst.fmt x.cols = true → fmtTagged dst.fmt = false → lanesM i.h .v b (flagAt m.st 1) 1 dst.fmt s = .ok (y, s1) →
        RawResult (.vmov g d b m) s s1 i d dst x 4 fun r k => (y.at r k, 0)) ∧
      (∀ v n, q.fits dst.fmt x.cols = true → fmtTagged dst.fmt = true → dst.view = some v → b = .w n → x.cols % fmtPer dst.fmt = 0 →
        grantCols (s.ctx i.h) % fmtPer dst.fmt = 0 → rowSrc i.h .v b (flagAt m.st 1) 1 dst.fmt s = .ok (y, s) → x.rows ≠ 0 →
        (s.core (coreOf i.h)).vfree ≤ s.clk.wall → LatchFree s i.h → dst.fmt = v.fmt →
        ∃ t l, exec (.vmov g d b m) s = .next t ∧ t.mem = s.mem ∧ (t.ctx i.h).f = (s.ctx i.h).f ∧
          (t.ctx i.h).lats = (s.ctx i.h).lats ++ [l] ∧ l.dist = 4 + x.rows - 1 ∧
          ∀ r j, r < x.rows → j < x.cols / fmtPer v.fmt → y.inside r (j * fmtPer v.fmt) = true →
            (∃ k < fmtPer v.fmt, x.en r (j * fmtPer v.fmt + k) = true) →
            .tag (v.base + v.stride * r + j) (y.tag (if y.one then 0 else r) j) ∈ l.wrs ∧
            .bytes ((v.base + v.stride * r + j) * 64) (((y.img (if y.one then 0 else r)).drop (64 * j)).take 64) ∈ l.wrs) ∧
      (∀ k n s0, rdScalar i.h k 2 s = .ok (n, s0) → (q.fmt = none ∨ q.fmt = some dst.fmt) → n.toNat < q.cols → fmtRaw dst.fmt = true →
        dstFits i.h d x.cols s0 = .ok ((), s0) → itemsM i.h [b] s0 = .ok ((), s0) →
        rowSrc i.h .v b (flagAt m.st 1) 1 dst.fmt s0 = .ok (y, s1) →
        RawResult (.vbcast g d b k m) s s1 i d dst x 4 fun r _ => (y.at r n.toNat, 0)) ∧
      (let F := q.fmt.getD (if fmtBits dst.fmt = 64 then 0 else if fmtBits dst.fmt = 32 then 1 else 2)
       (q.strict = true → x.cols ≤ q.cols) → fmtInteger dst.fmt = true → fmtBits dst.fmt = fmtBits F → fmtFloat F = true →
        rowSrc i.h .v b (flagAt m.st 1) 1 F s = .ok (y, s1) →
        RawResult (.vclass g d b m) s s1 i d dst x 4 fun r k => (fClass (ffmt F) (y.at r k), 0))) ∧
    (∀ dst, dstM i.h .v d (flagAt m.st 0) s = .ok (dst, s) → gridM i.h m dst.rows dst.cols s = .ok (x, s) →
      dstFits i.h d x.cols s = .ok ((), s) → fmtRaw dst.fmt = true → lanesM i.h .v b false 1 dst.fmt s = .ok (y, s1) →
      lanesM i.h .v c false 2 dst.fmt s1 = .ok (z, s2) →
      let F := dst.fmt
      RawResult (.viota g d b c m) s s2 i d dst x 4 fun _ k =>
        if fmtFloat F then fFma (ffmt F) 0 (.fin false k 0) (fDecode (ffmt F) (z.at 0 0)) (fDecode (ffmt F) (y.at 0 0))
        else (wrapTo (fmtBits F) (intVal F (y.at 0 0) + k * intVal F (z.at 0 0)), 0))

/-- The crossbar of a core taken for a number of cycles (R280). -/
def Sys2Proof.Claims.crossTaken (s : State) (h rows : Nat) : State :=
  s.modCore (coreOf h) fun c => { c with xfree := s.clk.wall + rows }

/-- A result of the X slot (R280): every active lane is written, no flag is raised, and the latch lands after 3 cycles and one more for every
further row. -/
def Sys2Proof.Claims.CrossResult (op : Instr) (s s1 : State) (i : Iss) (d : Opnd) (dst : Dst) (x : Grid) (f : Nat → Nat → Nat) : Prop :=
  (x.rows = 0 → exec op s = .next s1) ∧
  ∀ ws s2, x.rows ≠ 0 →
    rowsWrs i.h d dst x.rows x.cols (lanesOf x dst fun r k => (f r k, 0)) Wr.xbAt Wr.xb (fun r => [.xb r]) s1 = .ok (ws, s2) →
    (s2.core (coreOf i.h)).xfree ≤ s2.clk.wall → LatchFree s2 i.h →
    exec op s = .next (latched (crossTaken s2 i.h x.rows) i.h .x (3 + x.rows - 1) ws d.code.toNat false)

/-- R280 to R284: the lane crossbar: which element of its sources each lane of the destination takes. -/
def Sys2Proof.Claims.CrossbarMoves : Prop :=
  ∀ (g : Guard) (d b : Opnd) (sf : BitVec 4) (s : State) (i : Iss) (dst : Dst) (x : Grid), Issues s i g →
    dstM i.h .x d (flagAt sf 0) s = .ok (dst, s) → gridM i.h { mneg := 0, mv := 0, men := 0, st := 0 } dst.rows dst.cols s = .ok (x, s) →
    dstFits i.h d x.cols s = .ok ((), s) → fmtRaw dst.fmt = true →
    (∀ q y s1, metaM i.h .x b (flagAt sf 1) 1 s = .ok (q, s) → q.fits dst.fmt x.cols = true → itemsM i.h [b] s = .ok ((), s) →
      rowSrc i.h .x b (flagAt sf 1) 1 dst.fmt s = .ok (y, s1) →
      CrossResult (.xtrn g d b sf) s s1 i d dst x (fun r k => y.at k r) ∧
      (∀ k : BitVec 5, (k.toNat = 16 ∨ k.toNat = 17) →
        CrossResult (.xunzip g d b (.imm k) sf) s s1 i d dst x (fun r col => y.at r (2 * col + (k.toNat - 16)))) ∧
      (∀ (n : BitVec 5) v, viewM i.h .x n (flagAt sf 2) 2 s = .ok (v, s) → fmtRaw v.fmt = true →
        CrossResult (.xcmpr g d b n sf) s s1 i d dst x fun r col =>
          (((List.range (min y.cols (grantCols (s.ctx i.h)))).filter fun k => (srcOfView (s.ctx i.h) v).at r k ≠ 0).map
            fun k => y.at r k).getD col 0)) ∧
    (∀ c q p y z s1 s2, metaM i.h .x b (flagAt sf 1) 1 s = .ok (q, s) → metaM i.h .x c (flagAt sf 2) 2 s = .ok (p, s) →
      q.fits dst.fmt x.cols = true → p.fits dst.fmt x.cols = true → itemsM i.h [b, c] s = .ok ((), s) →
      rowSrc i.h .x b (flagAt sf 1) 1 dst.fmt s = .ok (y, s1) → rowSrc i.h .x c (flagAt sf 2) 2 dst.fmt s1 = .ok (z, s2) →
      CrossResult (.xzip g d b c sf) s s2 i d dst x fun r k => if k % 2 = 0 then y.at r (k / 2) else z.at r (k / 2)) ∧
    (∀ k n s0 q y s1, metaM i.h .x b (flagAt sf 1) 1 s = .ok (q, s) → q.fits dst.fmt x.cols = true → rdScalar i.h k 2 s = .ok (n, s0) →
      metaM i.h .x b (flagAt sf 1) 1 s0 = .ok (q, s0) → n.toNat < (match b with | .w _ => q.rows | _ => 32) →
      itemsM i.h [b] s0 = .ok ((), s0) → rowSrc i.h .x b (flagAt sf 1) 1 dst.fmt s0 = .ok (y, s1) →
      CrossResult (.xbcast g d b k sf) s s1 i d dst x (fun _ col => y.at n.toNat col)) ∧
    (∀ k w s0 q y s1, rdScalar i.h k 1 s = .ok (w, s0) → metaM i.h .x b (flagAt sf 2) 2 s0 = .ok (q, s0) → q.fits dst.fmt x.cols = true →
      dstFits i.h d x.cols s0 = .ok ((), s0) → itemsM i.h [b] s0 = .ok ((), s0) →
      rowSrc i.h .x b (flagAt sf 2) 2 dst.fmt s0 = .ok (y, s1) →
      CrossResult (.xrot g d k b sf) s s1 i d dst x (fun r col => y.at r (((col : Int) - w.toInt) % x.cols).toNat) ∧
      CrossResult (.xrotC g d k b sf) s s1 i d dst x
        (fun r col => y.at r (max 0 (min ((x.cols : Int) - 1) ((col : Int) - w.toInt))).toNat)) ∧
    (∀ (k : BitVec 3) p q y s1, metaM i.h .x b (flagAt sf 1) 1 s = .ok (q, s) → fmtRaw (q.fmt.getD dst.fmt) = true →
      mget none (s.ctx i.h).f.xp k.toNat = some p → itemsM i.h [b] s = .ok ((), s) →
      rowSrc i.h .x b (flagAt sf 1) 1 dst.fmt s = .ok (y, s1) →
      CrossResult (.xperm g k d b sf) s s1 i d dst x fun r col =>
        ofBytes (((permRow p (if y.inside r 0 then y.img r else [])).drop (col * fmtBytes dst.fmt)).take (fmtBytes dst.fmt)))

/-- R281 and R282: what a permutation does to a row of bytes: where no two entries share a destination, the lane an entry names takes the
lane the entry stands for, and a lane that no entry names is 0. -/
def Sys2Proof.Claims.PatternsMoveLanes : Prop :=
  ∀ (p : Pattern) (img : List Byte), p.lsz ≤ 3 → img.length = 256 → p.ent.length * 2 ^ p.lsz = 256 →
    (∀ t, some t ∈ p.ent → t < p.ent.length) → (∀ a b t : Nat, p.ent[a]? = some (some t) → p.ent[b]? = some (some t) → a = b) →
    let z := 2 ^ p.lsz
    (permRow p img).length = 256 ∧
    (∀ a t : Nat, p.ent[a]? = some (some t) → ((permRow p img).drop (t * z)).take z = (img.drop (a * z)).take z) ∧
    (∀ t, t < p.ent.length → some t ∉ p.ent → ((permRow p img).drop (t * z)).take z = List.replicate z 0)

/-- R280 to R284: the moves of the crossbar, and what a pattern does to a row. Model's choices it rests on: assumption log 27. -/
def Obligations.LaneCrossbar : Prop :=
  Sys2Proof.Claims.CrossbarMoves ∧
  Sys2Proof.Claims.PatternsMoveLanes

/-- R285: the shapes, the formats and the occupancy of a multiply operation by its class: rows and columns of A, rows and columns of B, rows
and columns of C. -/
def Sys2Proof.Claims.tileShape (narrow : Bool) (cls : Nat) : Tile :=
  if narrow then
    let k := if cls = 0 then 64 else if cls = 1 then 80 else 128
    { ar := 32, ac := k, af := 16 + cls, br := 32, bc := k, cr := 32, cc := 32, cf := 1, occ := 16 }
  else if cls = 0 then { ar := 16, ac := 4, af := 0, br := 4, bc := 16, cr := 16, cc := 16, cf := 0, occ := 8 }
  else if cls = 1 then { ar := 16, ac := 16, af := 1, br := 16, bc := 16, cr := 16, cc := 16, cf := 1, occ := 8 }
  else { ar := 32, ac := 32, af := if cls = 2 then 3 else 2, br := 32, bc := 32, cr := 32, cc := 32, cf := 1, occ := 16 }

/-- R48 to R50, R159, R207 and R285 to R292: a multiply operation whose tiles have the shapes of its class, with a free hammer,
takes it for its occupancy and leaves C + A·B, by fused steps in ascending k, in a latch that lands 8 cycles after the occupancy,
with the tile status 4 cycles later, or with the last earlier write of that status that is pending; `hnop` does nothing; `hgat`
starts the fetch of its rows. Model's choices it rests on: assumption log 29, 30. -/
def Obligations.HammerOperations : Prop :=
  ∀ (g : Guard) (cls : BitVec 2) (sf : BitVec 4) (s : State) (i : Iss), Issues s i g →
    (exec (.hnop g) s = .next s) ∧
    (∀ (narrow : Bool) (n b c : BitVec 5) (acc : BitVec 1) (ts : BitVec 3) va vb vc,
      let k := s.ctx i.h
      let z := tileShape narrow cls.toNat
      viewM i.h .h n (flagAt sf 0) 0 s = .ok (va, s) → va.isTile z.ar z.ac z.af = true →
      viewM i.h .h b (flagAt sf 1) 1 s = .ok (vb, s) → vb.isTile z.br z.bc z.af = true →
      viewM i.h .h c (flagAt sf 2) 2 s = .ok (vc, s) → vc.isTile z.cr z.cc z.cf = true →
      k.accumOk vc = true →
      (narrow = true → narrowTagsOk z.af ((List.range z.ar).map (fun r => k.rtag (va.base + va.stride * r)) ++
        (List.range z.br).map (fun r => k.rtag (vb.base + vb.stride * r))) = true) →
      s.hammerFree i.h z.occ = true → k.wc.tl < 63 → LatchFree s i.h →
      ∃ t ws st l m, exec (if narrow then .hmmn g cls (.w n) b c acc ts sf else .hmma g cls (.w n) b c acc ts sf) s = .next t ∧
        t.mem = s.mem ∧ (t.ctx i.h).f = k.f ∧ (t.ctx i.h).wc.tl = k.wc.tl + 1 ∧ (mkeysFrom none s.ham = true → mget 0 t.ham (coreOf i.h / 2) = s.clk.wall + z.occ) ∧
        (t.ctx i.h).lats = k.lats ++ [l, m] ∧ l.dist = z.occ + 8 ∧ l.wrs = ws ++ [.accum vc.name] ∧ l.tile = false ∧
        m.dist = max (z.occ + 12) (k.statusDist ts.toNat) ∧ m.wrs = [.ts ts.toNat st (acc == 1)] ∧ m.tile = true ∧ m.occ = false ∧
        (narrow = false → k.accums = [] →
          let e (r j : Nat) : Nat := (macGo (ffmt z.cf) (ffmt z.af) (fun q => k.elem va r q) (fun q => k.elem vb q j) (List.range z.ac)
            (k.elem vc r j) 0).1
          ws = (List.range z.cr).flatMap fun r => viewWrs vc r ((List.range z.cc).map fun j => .val (e r j))) ∧
        (narrow = true → k.accums = [] →
          let e (r j : Nat) : Nat := (narrowElem (k.rtag (va.base + va.stride * r)) (k.rtag (vb.base + vb.stride * j)) (fun q => k.elem va r q)
            (fun q => k.elem vb j q) z.ac (k.elem vc r j)).1
          ws = (List.range z.cr).flatMap fun r => viewWrs vc r ((List.range z.cc).map fun j => .val (e r j)))) ∧
    (∀ (v : BitVec 5) rsc rel asc acq (bx : BitVec 4) w m kk t,
      let k := s.ctx i.h
      let b := k.box bx.toNat
      flagsOk { rsc := rsc, rel := rel, asc := asc, acq := acq } = true → viewM i.h .h v (flagAt sf 0) 0 s = .ok (w, s) →
      (w.fmt = 9 ∨ w.fmt = 10) → gatherDims b.fmt = some (m, kk) → b.level ≤ 1 → m ≤ w.cols → k.task = some t →
      (∀ n < m, k.elem w 0 n ≠ 2 ^ fmtBits w.fmt - 1 →
        boundsAll s k b { slot := bx.toNat, crd := [0, k.elem w 0 n, 0, 0], mesh := none } kk 1 false = .ok ()) →
      k.wc.tl < 63 → LatchFree s i.h →
      ∃ u l cmd, exec (.hgat g v rsc rel asc acq bx sf) s = .next u ∧ u.mem = s.mem ∧ (u.ctx i.h).f = k.f ∧
        (u.ctx i.h).wc.tl = k.wc.tl + 1 ∧ (u.ctx i.h).lats = k.lats ++ [l] ∧ l.here = false ∧ l.tile = true ∧
        l.dist = (if b.level = 0 then 6 else 24) + m - 1 ∧ mfind u.cmds (s.clk.tick + 1) = some cmd ∧ cmd.rows.length = m ∧
        (s.clk.wall + 1, .memoryAccessPerform i.h (s.clk.tick + 1) 0) ∈ u.agenda)

/-! The T slot, and the loads and stores of distributed tensors (R79 to R97, R109 to R116, R247, R248, R250 to R264). -/

/-- No tensor of a box is converting on this device (R120). -/
def Sys2Proof.Claims.NotConverting (s : State) (h : Nat) (b : Desc) : Prop :=
  b.level = 3 → ∀ t, (s.ctx h).task = some t → (s.entry t.dev t.dctx b).cip = false

/-- The table that a call, a gang call (kinds 1 and 2), a spawn or a timed launch (3 and 4) enters (R84, R253). -/
def Sys2Proof.Claims.callTable (s : State) (h : Nat) (t : Task) (kind : Nat) : SMap CallEnt :=
  if kind ≤ 2 then (s.clu (cluOf h)).calls else (s.dc t.dev t.dctx).spawn

/-- The entry of a call as it enters entry `k` of its table (R84). -/
def Sys2Proof.Claims.callEntry (s : State) (h : Nat) (t : Task) (kind n k : Nat) (w0 w1 : Word) (sels : List Sel) (start : Option Word) :
    CallEnt :=
  { CallEnt.zero with
    st := .wait, gen := ((mfind (callTable s h t kind) k).getD CallEnt.zero).gen % 255 + 1, parent := h, kind := kind, grp := fld w0 24 21,
    after := [fld w1 15 0, fld w1 31 16, fld w1 47 32, fld w1 63 48].filter (· != 0), task := fld w0 15 0, sels := sels, nmem := n,
    seq := (s.ctx h).q.seq, order := s.clk.tick, start := start }

/-- A state in which a call has entered its table: its entry waits, and its handle lands one cycle from the issue (R83, R84, R251); a timed
launch is armed (R263). -/
def Sys2Proof.Claims.called (s : State) (h : Nat) (t : Task) (d : BitVec 5) (kind n k : Nat) (w0 w1 : Word) (sels : List Sel)
    (start : Option Word) : State :=
  let e := callEntry s h t kind n k w0 w1 sels start
  let tab := if kind ≤ 2 then cluOf h else 80 + t.dev * 16 + t.dctx
  let s1 := if kind ≤ 2 then s.bump.modClu (cluOf h) fun x => { x with calls := mins x.calls k e }
            else s.bump.modDc t.dev t.dctx fun x => { x with spawn := mins x.spawn k e }
  let s2 := s1.sched 1 (.callLeaveWait tab k)
  let s3 := match start with
    | some x => s2.armTimed t.dev t.dctx { Timed.new 1 x ((s2.dc t.dev t.dctx).evnum + 1) with ent := some k, strag := 3 }
    | none => s2
  latched s3 h .t 1 [.bytes (8 * d.toNat) (toBytes 8 ((if kind ≤ 2 then 0 else 65536) + 256 * e.gen + k))] d.toNat false

/-- The checks of R83 hold for a call with a frame: the frame is legal, the task and the boxes are what the image declares, nothing of them is
converting, and the overlaps are allowed; entry `k` is the lowest free one. -/
def Sys2Proof.Claims.CallRuns (s : State) (h : Nat) (t : Task) (v : BitVec 5) (kind n k : Nat) (w0 w1 : Word) (sels : List Sel) : Prop :=
  (s.ctx h).task = some t ∧ frameM h v (kind = 2) s = .ok ((w0, w1, sels), s) ∧
  callChecks s h t.lvl n true (decide (3 ≤ kind)) w0 sels (s.taskWords t.dev t.dctx t.image t.key (fld w0 15 0)) = .ok () ∧
  (∀ x ∈ sels, x.acc = 1 ∨ x.acc = 2 → NotConverting s h ((s.ctx h).box x.pslot)) ∧
  k < 256 ∧ ((mfind (callTable s h t kind) k).map (·.st) = none ∨ (mfind (callTable s h t kind) k).map (·.st) = some .free) ∧
  (∀ j < k, ∃ e, mfind (callTable s h t kind) j = some e ∧ e.st ≠ .free) ∧ LatchFree s h

/-- R83, R84, R96, R251, R253 and R263: a call, a gang call, a spawn and a timed launch that pass their checks enter their table with the
next generation of their entry; with no entry free they block and change nothing. -/
def Sys2Proof.Claims.CallsEnterTheirTable : Prop :=
  ∀ (g : Guard) (d v : BitVec 5) (s : State) (i : Iss) (t : Task) (k : Nat) (w0 w1 : Word) (sels : List Sel), Issues s i g →
    ((t.lvl = 1 ∨ t.lvl = 2) → CallRuns s i.h t v 1 1 k w0 w1 sels →
      exec (.call g d v) s = .next (called s i.h t d 1 1 k w0 w1 sels none)) ∧
    (∀ n x s1, (t.lvl = 1 ∨ t.lvl = 2) → rdScalar i.h n 2 s = .ok (x, s1) → 2 ≤ x.toNat → x.toNat ≤ 64 →
      CallRuns s1 i.h t v 2 x.toNat k w0 w1 sels →
      exec (.callGang g d v n) s = .next (called s1 i.h t d 2 x.toNat k w0 w1 sels none)) ∧
    (t.lvl = 3 → CallRuns s i.h t v 3 1 k w0 w1 sels → exec (.spawn g d v) s = .next (called s i.h t d 3 1 k w0 w1 sels none)) ∧
    (∀ n x s1, t.lvl = 3 → rdScalar i.h n 2 s = .ok (x, s1) → CallRuns s1 i.h t v 4 1 k w0 w1 sels →
      exec (.tlaunch g d v n) s = .next (called s1 i.h t d 4 1 k w0 w1 sels (some x))) ∧
    ((t.lvl = 1 ∨ t.lvl = 2) → (s.ctx i.h).task = some t → frameM i.h v false s = .ok ((w0, w1, sels), s) →
      callChecks s i.h t.lvl 1 true false w0 sels (s.taskWords t.dev t.dctx t.image t.key (fld w0 15 0)) = .ok () →
      (∀ x ∈ sels, x.acc = 1 ∨ x.acc = 2 → NotConverting s i.h ((s.ctx i.h).box x.pslot)) →
      (∀ j < 256, ∃ e, mfind (s.clu (cluOf i.h)).calls j = some e ∧ e.st ≠ .free) →
      exec (.call g d v) s = .next (s.stopIssue i (.block .callTable)))

/-- R88, R89, R209 and R252: `join` on a live handle takes the oldest record that names it from the event queue and frees its entry; its
destination receives the record one cycle later, and a STATUS of 3 to 6 leaves its fault for the end of the bundle. It blocks while there is
no such record, and a handle that is not live is an illegal operation. -/
def Sys2Proof.Claims.JoinsTakeTheirRecord : Prop :=
  ∀ (g : Guard) (d hd : Opnd) (s s1 : State) (i : Iss) (w : Word) (dst : List Nat), Issues s i g → (s.ctx i.h).trp.fq = [] →
    rdScalar i.h hd 1 s = .ok (w, s1) → recDst i.h .t d s1 = .ok (dst, s1) →
    (∀ l r l', s1.handleLive i.h w = true → (s1.ctx i.h).q.eq = l ++ r :: l' → recNames w r = true → (∀ x ∈ l, recNames w x = false) →
      LatchFree s1 i.h →
      ∃ u t, u = (s1.modCtx i.h fun c => { c with q := { c.q with eq := l ++ l' } }).consume i.h r ∧
        t = latched u i.h .t 1 (dst.zipIdx.map fun x => .bytes x.1 (toBytes 8 (r.extractLsb' (64 * x.2) 64).toNat)) d.code.toNat false ∧
        (recFault r = none → exec (.join g d hd) s = .next t) ∧
        (∀ cause, recFault r = some cause → exec (.join g d hd) s = .next (t.modCtx i.h fun c =>
          { c with prog := { c.prog with after := c.prog.after.orElse fun _ => some (cause, Slot.num .t) } }))) ∧
    (s1.handleLive i.h w = true → (∀ x ∈ (s1.ctx i.h).q.eq, recNames w x = false) →
      exec (.join g d hd) s = .next (s.stopIssue i (.block (.handle w)))) ∧
    (s1.handleLive i.h w = false → exec (.join g d hd) s = .next (s.stopIssue i (trapAt 0x02 .t 0 [])))

/-- R83, R84, R88, R89, R96, R209, R251 to R253 and R263: calls enter their table, and joins take their record. Model's choices it
rests on: assumption log 91. -/
def Obligations.CallsAndJoins : Prop :=
  Sys2Proof.Claims.CallsEnterTheirTable ∧
  Sys2Proof.Claims.JoinsTakeTheirRecord

/-- A state in which an engine command has started (R207, R250): it counts in cp, takes the next place of the program order, waits for what
its acquire orders it after, and moves its first row in the next cycle; `place` holds the placement indexes that a refusal of a
copy to a peer reports, of its destination and of its flag (R244, R257). -/
def Sys2Proof.Claims.commanded (s : State) (h : Nat) (t : Task) (rows : List (List Move)) (flag : Option Pkt) (fl : EFlags)
    (place : Nat × Nat) : State :=
  let c := s.ctx h
  let cmd : Cmd := { kind := .copy h, rows := rows, got := [], flag := flag, wait := 0,
                     acq := if fl.acq = 1 then some (c.q.seq, fl.asc.toNat) else c.cmdAcq none,
                     rel := if fl.rel = 1 then some fl.rsc.toNat else none, susp := none, deny := false, dev := t.dev, dctx := t.dctx,
                     mem := 0, place := place }
  let s1 := s.bump
  let s2 : State := { s1 with cmds := mins s1.cmds s.clk.tick cmd }
  (s2.modCtx h fun c => { c with wc := { c.wc with cp := c.wc.cp + 1 }, q := { c.q with seq := c.q.seq + 1 } }).sched 1
    (.memoryAccessPerform h s.clk.tick 0)

/-- A command of a task may start: the class cp has room, and a scope of its flags that counts is one of the five (R207, R250). -/
def Sys2Proof.Claims.EngineRoom (s : State) (h : Nat) (t : Task) (fl : EFlags) : Prop :=
  (s.ctx h).task = some t ∧ (s.ctx h).wc.cp < 63 ∧ (fl.acq = 1 → fl.asc.toNat ≤ 4) ∧ (fl.rel = 1 → fl.rsc.toNat ≤ 4)

/-- The coordinates of the rows of a window, in ascending (c3, c2, c1) order (R255). -/
def Sys2Proof.Claims.rowsOf (org ext : List Nat) : List (List Int) := (windowRows ext).map (rowCrd org)

/-- The moves of a copy between rows of two boxes (R255). -/
def Sys2Proof.Claims.copyRows (s : State) (h : Nat) (d b : Desc) (dst src : List (List Int)) (run : Nat) : List (List Move) :=
  (dst.zip src).map fun x =>
    rowMoves (ctxLoc s h b) (ctxLoc s h d) (runBytes b x.2 run).1 (runBytes d x.1 run).1 (runBytes d x.1 run).2 false

/-- The destination of a copy may be written: its window lies in its box, its access is not read only, its granules are whole where it is
tagged, and it is not converting (R255 checks 3 to 5). -/
def Sys2Proof.Claims.CopyInto (s : State) (h slot : Nat) (org ext : List Nat) : Prop :=
  slotWindow s (s.ctx h) slot none org ext false = .ok () ∧ ((s.ctx h).box slot).acc ≠ 0 ∧ NotConverting s h ((s.ctx h).box slot)

/-- R207, R250 and R254 to R257: `cpy`, `cpyg`, `fill` and `cpyr` that pass their checks start a command of the tongs with the rows of their
window in ascending (c3, c2, c1) order, and change nothing else at their issue. -/
def Sys2Proof.Claims.EngineCopiesStart : Prop :=
  ∀ (g : Guard) (v : BitVec 5) (fl : EFlags) (s s1 s2 : State) (i : Iss) (t : Task) (k : CopyBlk), Issues s i g →
    (s.ctx i.h).task = some t →
    let c := s.ctx i.h
    let d := c.box k.dslot
    let b := c.box k.sslot
    let run := k.ext.getD 0 0
    let dst := rowsOf k.dorg k.ext
    let whole := slotAligned s c k.dslot none k.dorg k.ext false = true ∧ slotAligned s c k.sslot none k.sorg k.ext true = true
    (copyBlk i.h v false false s = .ok (k, s) → EngineRoom s2 i.h t fl → d.fmt = b.fmt → CopyInto s i.h k.dslot k.dorg k.ext →
      slotWindow s c k.sslot none k.sorg k.ext true = .ok () → whole →
      windowPages i.h d dst run true s = .ok ((), s1) → windowPages i.h b (rowsOf k.sorg k.ext) run false s1 = .ok ((), s2) →
      exec (.cpy g v fl) s = .next (commanded s2 i.h t (copyRows s2 i.h d b dst (rowsOf k.sorg k.ext) run) none fl (0, 0))) ∧
    (∀ x w, copyBlk i.h v false false s = .ok (k, s) → EngineRoom s2 i.h t fl → d.fmt = b.fmt → 2 ≤ b.rank →
      viewM i.h .t x false 1 s = .ok (w, s) → (w.fmt = 6 ∨ w.fmt = 10) → k.ext.getD 1 0 ≤ w.cols → k.ext.getD 2 0 = 1 → k.ext.getD 3 0 = 1 →
      CopyInto s i.h k.dslot k.dorg k.ext → whole →
      let ix (n : Nat) : Int := if w.fmt = 6 then toSigned 32 (c.elem w 0 n) else c.elem w 0 n
      let src : List (List Int) := (List.range (k.ext.getD 1 0)).map fun n =>
        [(k.sorg.getD 0 0 : Int), (k.sorg.getD 1 0 : Int) + ix n, (k.sorg.getD 2 0 : Int), (k.sorg.getD 3 0 : Int)]
      pathCheck s c b { slot := k.sslot, crd := [], mesh := none } = .ok () →
      (∀ r ∈ src, crdCheck k.sslot b.fmt (s.extsFor c b none true) r run = .ok ()) →
      windowPages i.h d dst run true s = .ok ((), s1) → windowPages i.h b src run false s1 = .ok ((), s2) →
      exec (.cpyg g v x fl) s = .next (commanded s2 i.h t (copyRows s2 i.h d b dst src run) none fl (0, 0))) ∧
    (∀ o x s0, rdScalar i.h o 1 s = .ok (x, s0) → copyBlk i.h v false true s0 = .ok (k, s0) → EngineRoom s1 i.h t fl →
      let d := (s0.ctx i.h).box k.dslot
      fmtRaw d.fmt = true → CopyInto s0 i.h k.dslot k.dorg k.ext → windowPages i.h d dst run true s0 = .ok ((), s1) →
      exec (.fill g v o fl) s = .next (commanded s1 i.h t (dst.map fun r =>
        rowFill (ctxLoc s1 i.h d) (runBytes d r run).1 (runBytes d r run).2
          (fun n => BitVec.ofNat 8 (x.toNat / 256 ^ (n % fmtBytes d.fmt))) false) none fl (0, 0))) ∧
    (∀ peer, copyBlk i.h v true false s = .ok (k, s) → EngineRoom s1 i.h t fl → t.lvl = 3 → d.level = 3 → b.level = 3 → d.fmt = b.fmt →
      let f := c.box k.fslot
      (k.noflag = false → f.level = 3 ∧ fmtInteger f.fmt = true ∧ 4 ≤ fmtBytes f.fmt ∧ f.acc ≠ 0 ∧
        slotWindow s c k.fslot (some k.dco) k.forg [1, 1, 1, 1] false = .ok ()) →
      slotWindow s c k.dslot (some k.dco) k.dorg k.ext false = .ok () → slotWindow s c k.sslot none k.sorg k.ext true = .ok () → d.acc ≠ 0 →
      slotAligned s c k.dslot (some k.dco) k.dorg k.ext false = true → slotAligned s c k.sslot none k.sorg k.ext true = true →
      peer = (s.dc t.dev t.dctx).peerOf k.dco → s.peerUp peer.1 = true →
      windowPages i.h b (rowsOf k.sorg k.ext) run false s = .ok ((), s1) →
      let ms := (dst.zip (rowsOf k.sorg k.ext)).map fun x =>
        rowMoves (ctxLoc s1 i.h b) (fun a => Loc.far peer.1 peer.2 a d.key) (runBytes b x.2 run).1 (runBytes d x.1 run).1
          (runBytes d x.1 run).2 false
      ∃ rows, rows.flatten = ms.flatten ∧ (∀ r ∈ rows, r.length ≤ 30) ∧
        exec (.cpyr g v fl) s = .next (commanded s1 i.h t rows (if k.noflag then none else
          some (scalarPkt s1 i.h (if fl.rel = 1 ∧ fl.rsc = 4 then 6 else 1) peer f
            { slot := k.fslot, crd := k.forg.map Int.ofNat, mesh := none } k.fval)) fl (d.place, f.place)))

/-- R255 and R256: the moves of one row take every byte once, in order, from the source byte at the same offset, each within one granule of
the source and of the destination; a destination granule is given the tag of the source granule of its first byte exactly where it is
written whole. -/
def Sys2Proof.Claims.RowMovesCoverTheRow : Prop :=
  ∀ (srcAt dstAt : Nat → Loc) (src dst n : Nat),
    let ms := rowMoves srcAt dstAt src dst n false
    (ms.map (·.n)).sum = n ∧
    ∀ (k : Nat) (m : Move), ms[k]? = some m →
      let o := ((ms.take k).map (·.n)).sum
      0 < m.n ∧ m.src = some (srcAt (src + o)) ∧ m.dst = dstAt (dst + o) ∧
      (src + o) / 64 = (src + o + m.n - 1) / 64 ∧ (dst + o) / 64 = (dst + o + m.n - 1) / 64 ∧
      (m.tag = true ↔ (dst + o) % 64 = 0 ∧ dst + o + 64 ≤ dst + n)

/-- R207, R250 and R254 to R257: copies and fills start, and their moves cover every byte of a row once. Model's choices it rests
on: assumption log 82, 98. -/
def Obligations.EngineCopies : Prop :=
  Sys2Proof.Claims.EngineCopiesStart ∧
  Sys2Proof.Claims.RowMovesCoverTheRow

/-- R102, R103, R258 and R259: a collective that passes its checks is taken up by the flux engine: cp and the call count of its channel
advance, its first packets go to the other members, and no byte of storage changes at its issue. -/
def Sys2Proof.Claims.CollectivesStart : Prop :=
  ∀ (g : Guard) (v : BitVec 5) (fl : EFlags) (s : State) (i : Iss) (t : Task) (ws : List Word) (ch : Nat),
    Issues s i g → (s.ctx i.h).task = some t → 2 ≤ t.lvl → blockWords i.h v .t 0 5 s = .ok (ws, s) → EngineRoom s i.h t fl →
    let c := s.ctx i.h
    let w (k : Nat) : Word := ws.getD k 0
    c.chan (fld (w 0) 2 0) = some ch →
    ∀ op ∈ [(Instr.collAllreduce, 0), (.collAllgather, 1), (.collReducescatter, 2), (.collAlltoall, 3)], ∀ x s1,
      collOf s t.dev t.dctx c.box op.2 w ch = .ok x →
      (∀ r ∈ collRuns x (w 0), slotWindow s c r.1 none r.2.1 r.2.2.1 (!r.2.2.2) = .ok () ∧
        slotAligned s c r.1 none r.2.1 r.2.2.1 (!r.2.2.2) = true ∧
        (r.2.2.2 = true → (c.box r.1).acc ≠ 0 ∧ NotConverting s i.h (c.box r.1))) →
      (collRuns x (w 0)).forM (fun r => windowPages i.h (c.box r.1) [rowCrd r.2.1 (0, 0, 0)] (r.2.2.1.getD 0 0) r.2.2.2) s = .ok ((), s1) →
      (∃ u, exec (op.1 g v fl) s = .next u ∧ u.mem = s1.mem ∧ (u.ctx i.h).wc.cp = c.wc.cp + 1 ∧ (u.ctx i.h).q.seq = c.q.seq + 1 ∧
        (u.ctx i.h).f = c.f ∧ mfind (u.dc t.dev t.dctx).chan ch = some (((mfind (s1.dc t.dev t.dctx).chan ch).getD (0, 0)).1, BitVec.ofNat 64 x.count) ∧
        mfind u.colls s1.clk.tick = some { x with h := some i.h, acq := if fl.acq = 1 then some (c.q.seq + 1, fl.asc.toNat) else (u.ctx i.h).cmdAcq none }) ∧
      x.count = ((mfind (s.dc t.dev t.dctx).chan ch).getD (0, 0)).2.toNat + 1 ∧ x.n = fld (w 3) 15 0 ∧ x.chunk = fld (w 3) 47 32

/-- R109, R226, R261, R262, R264 and R328: `place.q` gives the placement word, `place.d` declares a placement whole with its version advanced,
`ckpt` arms a checkpoint and gives its number, and `tpre` arms a pre-emption. -/
def Sys2Proof.Claims.PlacementsAndTimedRequests : Prop :=
  ∀ (g : Guard) (d : BitVec 5) (o : Opnd) (bx : BitVec 4) (s s1 : State) (i : Iss) (t : Task) (v : Word), Issues s i g →
    (s.ctx i.h).task = some t →
    let b := (s.ctx i.h).box bx.toNat
    let e := s.entry t.dev t.dctx b
    (b.level = 3 → LatchFree s i.h →
      exec (.placeQ g d bx) s = .next (latched s i.h .t 1 [.bytes (8 * d.toNat) (toBytes 8 e.w0.toNat)] d.toNat false)) ∧
    (b.level ≠ 3 → exec (.placeQ g d bx) s = .next (s.stopIssue i (trapAt 0x02 .t 0 []))) ∧
    (rdScalar i.h o 0 s = .ok (v, s1) → (s1.ctx i.h).task = some t →
      let b := (s1.ctx i.h).box bx.toNat
      let e := s1.entry t.dev t.dctx b
      b.level = 3 → fld v 63 62 = 0 → fld v 60 12 = 0 →
      (∀ a < 3, let x := axisState (fld v 11 0) a
        axisBad x = false ∧ (4 ≤ x ∨ x < b.rank) ∧ (a < fld (s1.dc t.dev t.dctx).msh 35 34 ∨ x = 4) ∧ (fmtTagged b.fmt = true → x ≠ 8)) →
      e.cip = false →
      ∃ w, exec (.placeD g o bx) s = .next (s1.modDc t.dev t.dctx fun x => { x with place := mins x.place b.place { e with w0 := w } }) ∧
        fld w 63 63 = 1 ∧ fld w 62 62 = 0 ∧ fld w 61 61 = fld v 61 61 ∧ fld w 60 48 = 0 ∧ fld w 47 32 = (e.ver + 1) % 65536 ∧
        fld w 31 12 = 0 ∧ fld w 11 0 = fld v 11 0) ∧
    (rdScalar i.h o 1 s = .ok (v, s1) → t.lvl = 3 → (s1.ctx i.h).task = some t → (s1.ctx i.h).wc.cp < 63 → LatchFree s1 i.h →
      let dc := s1.dc t.dev t.dctx
      let at' : Word := if v.toNat < (s1.now t.dev).toNat + 20000 then s1.now t.dev + 20000 else v
      (∀ x ∈ dc.timed, x.kind = 3 → x.t = at' → x.done = true) →
      let armed := if fld (mget 0 dc.ckcfg 0) 47 12 = 0 ∨ fld (mget 0 dc.ckcfg 1) 47 12 = 0
        then s1.armTimed t.dev t.dctx { Timed.new 6 at' (dc.evnum + 1) with who := [i.h] }
        else s1.armSpan t.dev t.dctx { Timed.new 3 at' (dc.evnum + 1) with who := [i.h] }
      exec (.ckpt g d o) s = .next (latched (armed.modCtx i.h fun c => { c with wc := { c.wc with cp := c.wc.cp + 1 } }) i.h .t 1
        [.bytes (8 * d.toNat) (toBytes 8 (dc.evnum + 1))] d.toNat false)) ∧
    (rdScalar i.h o 1 s = .ok (v, s1) → (s1.ctx i.h).task = some t → s1.priv (s1.ctx i.h) = true →
      exec (.tpre g o) s = .next (s1.armSpan t.dev t.dctx (Timed.new 2 v ((s1.dc t.dev t.dctx).evnum + 1)))) ∧
    (rdScalar i.h o 1 s = .ok (v, s1) → s1.priv (s1.ctx i.h) = false → exec (.tpre g o) s = .next (s.stopIssue i (trapAt 0x04 .t 0 [])))

/-- R102, R103, R109, R258, R259, R261, R262 and R264: collectives, placements, checkpoints and pre-emptions asked for by a task.
Model's choices it rests on: assumption log 22, 97. -/
def Obligations.CollectivesAndPlacements : Prop :=
  Sys2Proof.Claims.CollectivesStart ∧
  Sys2Proof.Claims.PlacementsAndTimedRequests

/-- The placement entry of a box for the task of a context (R107). -/
def Sys2Proof.Claims.placed (s : State) (h : Nat) (b : Desc) : PlEnt :=
  match (s.ctx h).task with
  | some t => s.entry t.dev t.dctx b
  | none => PlEnt.zero

/-- The members that hold a replica of a box's shard, without this one (R248). -/
def Sys2Proof.Claims.replicaPeers (s : State) (h : Nat) (b : Desc) : List (Nat × Nat) :=
  (s.taskDc (s.ctx h)).replicas (placed s h b).cur

/-- R110 to R113, R247 and R248: a demanding load at the placement it demands is a plain load; at another it waits for the
conversion it starts or joins, in the load queue. A shard store writes the shard of this member and, in one entry, those of every
member that holds a replica. Model's choices it rests on: assumption log 22. -/
def Obligations.DemandingLoadsAndShardStores : Prop :=
  ∀ (g : Guard) (path : Path) (s : State) (i : Iss) (t : Task) (b : Desc) (p : RPath), Issues s i g → (s.ctx i.h).task = some t →
    let dc := s.dc t.dev t.dctx
    let e := s.entry t.dev t.dctx b
    (∀ d full ps fin s1, d ≠ 0 → boxM i.h path s = .ok ((b, p), s) →
      let w := (s.ctx i.h).g d
      demandCheck dc.msh b e w (ownMesh s (s.ctx i.h) p) = .ok full → pathCheck s (s.ctx i.h) b p = .ok () →
      crdCheck p.slot b.fmt (shardExts dc.msh dc.mco b full) p.crd 1 = .ok () → s.membersUp dc e (fld w 14 12) full = true →
      codePieces i.h d b p s = .ok ((ps, fin), s1) → LoadRoom s1 i.h →
      (full = e.cur → e.cip = false → exec (.ldp g d path) s = .next (loaded s1 i.h ps .load none none fin 380 d.toNat)) ∧
      (¬ (full = e.cur ∧ e.cip = false) → ∃ u, exec (.ldp g d path) s = .next (u.demand t.dev t.dctx b (fld w 14 12) full (.ldp i.h s1.clk.tick)) ∧
        u = s1.bump.modCtx i.h fun c =>
          { c with wc := { c.wc with ld := c.wc.ld + 1 },
                   lats := c.lats ++ [{ tok := s1.clk.tick, slot := Slot.num .m, code := d.toNat, dist := 380, here := false, occ := true,
                                        tile := false, wrs := [] }],
                   q := { c.q with seq := c.q.seq + 1, pend := c.q.pend ++ [{ tok := s1.clk.tick, fin := fin }],
                                   lq := c.q.lq ++ [{ tok := s1.clk.tick, seq := c.q.seq, kind := .load, acq := some 4, rel := none,
                                                      conv := none, ps := ps }] } })) ∧
    (∀ a x s1 l s2, (∀ n, a ≠ .w n) → rdScalar i.h a 0 s = .ok (x, s1) → boxM i.h path s1 = .ok ((b, p), s1) → p.mesh = none →
      fmtRaw b.fmt = true → b.level = 3 → (placed s1 i.h b).valid = true →
      accessM i.h b p 1 1 true true s1 = .ok (l, s2) → StoreRoom s2 i.h →
      let peers := replicaPeers s2 i.h b
      (∀ q ∈ peers, s2.peerUp q.1 = true) → (∀ y ∈ (s2.ctx i.h).q.sq, ∀ ps n, y.kind ≠ .remote ps n true) →
      exec (.stp g a path) s = .next (stored s2 i.h (l.flatten.map fun q => { q with data := toBytes (fmtBytes b.fmt) x.toNat })
        (if peers = [] then .store else .remote (peers.map fun q => scalarPkt s2 i.h 1 q b p x) b.place false) none)) ∧
    (∀ n v l s1, noGrant (s.ctx i.h) = false → viewM i.h .m n false 0 s = .ok (v, s) → boxM i.h path s = .ok ((b, p), s) → p.mesh = none →
      v.fmt = b.fmt → b.level = 3 → (placed s i.h b).valid = true →
      let k := grantOf (s.ctx i.h) v
      let c0 := p.crd.getD 0 0
      accessM i.h b p k.1 k.2 true (blockAligned b.fmt c0 k.1) s = .ok (l, s1) → StoreRoom s1 i.h →
      let peers := replicaPeers s1 i.h b
      (∀ q ∈ peers, s1.peerUp q.1 = true) → (∀ y ∈ (s1.ctx i.h).q.sq, ∀ ps n, y.kind ≠ .remote ps n true) →
      exec (.stp g (.w n) path) s = .next (stored s1 i.h (storePieces (s.ctx i.h) v c0 k.1 l)
        (if peers = [] then .store else .remote (peers.flatMap fun q => viewPkts s1 i.h q b p v k.1 k.2) b.place false) none)) ∧
    (noGrant (s.ctx i.h) = true → ∀ n, exec (.stp g (.w n) path) s = .next s)

/-! Calls, copies and ends of tasks (R84 to R97, R134, R138, R212, R254 to R257, R320, R323). -/

/-- The commands of a call's copies: one of the given kind for each selection of each member that moves anything, and each goes on in the
next cycle; with nothing to move the stage ends in the next cycle instead (R86, R87, R97). -/
def Sys2Proof.Claims.CopiesStart (t : State) (wall : Nat) (kind : CmdKind) (ev : Instr) (e : CallEnt) (copies : List (Nat × List (List Move)))
    (acq : Option (Nat × Nat)) : Prop :=
  (copies = [] → (wall + 1, ev) ∈ t.agenda) ∧
  ∀ x ∈ copies, ∃ id c, mfind t.cmds id = some c ∧ c.kind = kind ∧ c.mem = x.1 ∧ c.rows = x.2 ∧ c.acq = acq ∧ c.susp = none ∧
    (wall + 1, .memoryAccessPerform e.parent id 0) ∈ t.agenda

/-- The stages of a call (R84 to R89, R93, R96 and R320): WAIT to COPY-IN once its AFTER handles are satisfied and its storage is found, READY
when the copies inward have landed, RUN when its contexts are free, then the copies outward and RECORD, and at last the record in the
parent's event queue. Until then it stays where it is and tries again in the next cycle. -/
def Sys2Proof.Claims.CallsRunTheirCourse : Prop :=
  ∀ (s : State) (tab ent : Nat),
    let e := s.call tab ent
    let p := s.ctx e.parent
    let size := (e.sels.map fun x => childBytes x (selParent p x)).foldl (· + ·) 0
    e.dead = false →
    (e.st = .wait → p.halt = false → (∀ hd ∈ e.after, s.afterOk tab e.parent hd = true) → ∀ cores pool bases,
      s.findStore tab e size = some (cores, pool, bases) →
      ∃ t e', exec (.callLeaveWait tab ent) s = .next t ∧ t.mem = s.mem ∧ t.call tab ent = e' ∧
        e' = { e with st := .copyIn, cores := cores, pool := pool, bases := bases, size := size,
                      boxes := bases.map fun b => memberBoxes p (s.childLvl e) e.sels b } ∧
        CopiesStart t s.clk.wall (.inward tab ent) (.inwardCopyLanded tab ent) e (allRows s e' inRows) (some (e.seq, parentScope p.lvl))) ∧
    (e.st = .wait → (p.halt = true ∨ (∃ hd ∈ e.after, s.afterOk tab e.parent hd = false) ∨ s.findStore tab e size = none) →
      exec (.callLeaveWait tab ent) s = .next (s.sched 1 (.callLeaveWait tab ent))) ∧
    (e.st = .copyIn → (∃ x ∈ s.cmds, x.2.kind = .inward tab ent) → exec (.inwardCopyLanded tab ent) s = .next s) ∧
    (e.st = .copyIn → (∀ x ∈ s.cmds, x.2.kind ≠ .inward tab ent) → e.status = 0 →
      ∃ t, exec (.inwardCopyLanded tab ent) s = .next t ∧ t.mem = s.mem ∧ t.call tab ent = { e with st := .ready, ready := s.clk.tick } ∧
        (s.clk.wall + 1, .childStart tab ent) ∈ t.agenda ∧
        (1 < e.nmem → (s.clk.wall + 110000, .gangReadyTimeout tab ent) ∈ t.agenda)) ∧
    (e.st = .copyIn → (∀ x ∈ s.cmds, x.2.kind ≠ .inward tab ent) → e.status ≠ 0 →
      exec (.inwardCopyLanded tab ent) s = .next ((s.modCall tab ent fun e => { e with st := .record }).sched 1 (.recordWrite tab ent))) ∧
    (e.st = .ready → exec (.gangReadyTimeout tab ent) s = .next (s.modCall tab ent fun e => { e with hold := true })) ∧
    (e.st ≠ .ready → exec (.gangReadyTimeout tab ent) s = .next s) ∧
    (∀ k ws hs, e.st = .ready → e.start = none → p.halt = false → p.task = some k →
      s.taskWords k.dev k.dctx k.image k.key e.task = some ws → s.childCtxs e = some hs →
      (∀ x ∈ s.table tab, x.1 ≠ ent → x.2.ready < e.ready → x.2.st = .ready → x.2.dead = false →
        x.2.hold = false ∧ s.canStart x.2 = false) →
      ∃ t, exec (.childStart tab ent) s = .next t ∧ t.mem = s.mem ∧ t.call tab ent = { e with st := .run, ctxs := hs, alive := hs.length } ∧
        ∀ h ∈ hs, (t.ctx h).st = .ready ∧ (t.ctx h).stamp = s.clk.wall ∧ (t.ctx h).pc = atBit (fld (ws.getD 0 0) 63 32) 0 ∧
          (t.ctx h).lats = [] ∧ (t.ctx h).ccy = 0 ∧ ∃ c, (t.ctx h).task = some c ∧ c.parent = some (tab, ent) ∧ c.lvl = s.childLvl e ∧
            c.dev = k.dev ∧ c.dctx = k.dctx) ∧
    (e.st = .copyOut → s.orderHeld tab e = false → p.halt = false →
      ∃ t, exec (.outwardCopyStart tab ent) s = .next t ∧ t.mem = s.mem ∧ t.call tab ent = e ∧
        CopiesStart t s.clk.wall (.outward tab ent) (.outwardCopyLanded tab ent) e (allRows s e outRows) none) ∧
    (e.st = .copyOut → (s.orderHeld tab e = true ∨ p.halt = true) →
      exec (.outwardCopyStart tab ent) s = .next (s.sched 1 (.outwardCopyStart tab ent))) ∧
    (e.st = .copyOut → (∃ x ∈ s.cmds, x.2.kind = .outward tab ent) → exec (.outwardCopyLanded tab ent) s = .next s) ∧
    (e.st = .copyOut → (∀ x ∈ s.cmds, x.2.kind ≠ .outward tab ent) →
      exec (.outwardCopyLanded tab ent) s = .next ((s.modCall tab ent fun e => { e with st := .record }).sched 1 (.recordWrite tab ent))) ∧
    (e.st = .record → p.q.eq.length < 32 → e.gen < 256 → ent < 256 → e.kind < 256 → e.status < 256 →
      ∃ t r, exec (.recordWrite tab ent) s = .next t ∧ t.mem = s.mem ∧ (t.ctx e.parent).q.eq = p.q.eq ++ [r] ∧
        t.call tab ent = { e with st := .done } ∧ recHandle r = 256 * e.gen + ent ∧ recKind r = e.kind ∧ recStatus r = e.status ∧
        r.extractLsb' 64 64 = e.cycles) ∧
    (e.st = .record → 32 ≤ p.q.eq.length → exec (.recordWrite tab ent) s = .next (s.sched 1 (.recordWrite tab ent)))

/-- R89, R90, R97, R134, R138, R212, R257 and R323: the ends. A finished command drops cp, after its flag and its acknowledgements where it
has them; a copy that is refused leaves its call a STATUS of 3 to 6, and with the last of the call's copies the stage ends; a task with nothing left under way frees its context, and its
last member sends the call on. -/
def Sys2Proof.Claims.CommandsAndTasksEnd : Prop :=
  ∀ (s : State),
    (∀ id, mfind s.cmds id = none → exec (.copyComplete id) s = .next s ∧ exec (.copyFault id) s = .next s) ∧
    (∀ id c h, mfind s.cmds id = some c → c.kind = .copy h → c.flag = none →
      ((c.rel = some 4 → c.wait = 0) → exec (.copyComplete id) s =
        .next ({ s with cmds := mdel s.cmds id }.modCtx h fun x => { x with wc := { x.wc with cp := x.wc.cp - 1 } })) ∧
      (c.rel = some 4 → c.wait ≠ 0 → exec (.copyComplete id) s = .next (s.sched 1 (.copyComplete id)))) ∧
    (∀ id c h p, mfind s.cmds id = some c → c.kind = .copy h → c.flag = some p →
      (s.net.egress (pairKey p.ssub p.ctx p.dst p.dsub)).opens = true →
      ∃ t, exec (.copyComplete id) s = .next t ∧ t.mem = s.mem ∧
        (c.rel ≠ some 4 → (t.ctx h).wc.cp = (s.ctx h).wc.cp - 1) ∧ (c.rel = some 4 → (t.ctx h).wc.cp = (s.ctx h).wc.cp ∧
          ∃ c', mfind t.cmds id = some c' ∧ c'.flag = none ∧ c'.wait = c.wait + 1)) ∧
    (∀ id c h tok fmt, mfind s.cmds id = some c → c.kind = .gather h tok fmt →
      ∃ t, exec (.copyComplete id) s = .next t ∧ t.mem = s.mem ∧ t.cmds = mdel s.cmds id ∧
        ((s.ctx h).dbg.due = 0 → t.ctx h = (s.ctx h).fill tok [.hl { fmt := fmt, rows := c.got }])) ∧
    (∀ id c tab ent, mfind s.cmds id = some c → c.susp = none → c.deny = true →
      let last := { s with cmds := mdel s.cmds id }.moreOf c.kind = false
      let e := s.call tab ent
      (c.kind = .inward tab ent → ∃ t, exec (.copyFault id) s = .next t ∧ t.cmds = mdel s.cmds id ∧
        t.call tab ent = { e with status := if e.status = 0 then 3 else e.status } ∧ (last → ∃ d, (d, .inwardCopyLanded tab ent) ∈ t.agenda)) ∧
      (c.kind = .outward tab ent → ∃ t, exec (.copyFault id) s = .next t ∧ t.cmds = mdel s.cmds id ∧
        t.call tab ent = { e with status := if e.status = 0 then 5 else e.status } ∧ (last → ∃ d, (d, .outwardCopyLanded tab ent) ∈ t.agenda))) ∧
    (∀ id c va, mfind s.cmds id = some c → c.susp = some va → c.deny = false →
      let d := s.dc c.dev c.dctx
      ∃ t, exec (.copyFault id) s = .next t ∧ (t.dc c.dev c.dctx).fqcnt = d.fqcnt + 1 ∧
        mfind (t.dc c.dev c.dctx).susp (d.fqcnt % 2 ^ 32) = some (.cmd id) ∧ mfind t.cmds id = some c) ∧
    (∀ h, (s.ctx h).fin = none → exec (.taskEnd h) s = .next s) ∧
    (∀ h k, (s.ctx h).fin = some 0 → (s.ctx h).task = some k → (s.ctx h).trp.fq = [] → s.callsOf h = [] → (s.ctx h).lats = [] →
      (s.ctx h).trp.aside = none → s.stillOut h (s.ctx h) = false →
      ∃ t, exec (.taskEnd h) s = .next t ∧ t.mem = s.mem ∧ (t.ctx h).st = .free ∧ (t.ctx h).task = none ∧
        (∀ tab ent, k.parent = some (tab, ent) → (s.call tab ent).alive = 1 → (s.call tab ent).dead = false → (s.call tab ent).status = 0 →
          (t.call tab ent).st = .copyOut ∧ (s.call tab ent).cycles.toNat ≤ (t.call tab ent).cycles.toNat ∧
          (s.ctx h).ccy.toNat ≤ (t.call tab ent).cycles.toNat ∧ (s.clk.wall + 1, .outwardCopyStart tab ent) ∈ t.agenda)) ∧
    (∀ h k x, (s.ctx h).fin = some 0 → (s.ctx h).task = some k → (s.ctx h).trp.fq = [] → x ∈ s.callsOf h → (s.call x.1 x.2).st ≠ .done →
      ∃ t, exec (.taskEnd h) s = .next t ∧ (t.ctx h).task = some k ∧ (t.ctx h).st = (s.ctx h).st ∧ ∃ d, (d, .taskEnd h) ∈ t.agenda)

/-- R84 to R90, R97, R134, R138, R212, R257 and R323: the course of a call, and the ends of commands and tasks. Model's choices it
rests on: assumption log 82, 88, 96. -/
def Obligations.CallsAndTheirEnds : Prop :=
  Sys2Proof.Claims.CallsRunTheirCourse ∧
  Sys2Proof.Claims.CommandsAndTasksEnd

/-! The fabric (R139, R140, R242 to R244, R332, R335, R339, R341, R365). -/

/-- A packet `q` is the answer of a type to the packet `p`: it goes back to the device `p` came from, with the number and the place in the
source's books that `p` has (R335, R339). -/
def Sys2Proof.Claims.AnswerTo (s : State) (p q : Pkt) (ty : Nat) : Prop :=
  q.ty = ty ∧ q.src = s.net.fpeer ∧ q.dst = p.src ∧ q.dsub = p.ssub ∧ q.ssub = p.dsub ∧ q.ctx = p.ctx ∧ q.seq = p.seq ∧ q.id = p.id

/-- The numbered packet has been committed at this device (R139). -/
def Sys2Proof.Claims.Committed (s : State) (p : Pkt) : Prop :=
  let i := s.net.ingress (pairKey p.dsub p.ctx p.src p.ssub)
  p.seq < i.c ∨ p.seq ∈ i.above

/-- The target has counted a refusal of a packet by its source, and neither memory nor a number of any pair has changed (R339). -/
def Sys2Proof.Claims.Refuses (s : State) (p : Pkt) (u : State) : Prop :=
  u.mem = s.mem ∧ u.net.ing = s.net.ing ∧
  mget 0 u.net.refused (memberKey p.src p.ssub) = mget 0 s.net.refused (memberKey p.src p.ssub) + 1

/-- The event is still to come. -/
def Sys2Proof.Claims.Due (s : State) (e : Instr) : Prop := ∃ d, (d, e) ∈ s.agenda

/-- R332: every kind of packet whose source is no peer of state 1 is dropped and counted, and has no other effect. -/
def Sys2Proof.Claims.PacketsOfAbsentPeersAreDropped : Prop :=
  ∀ (s : State) (p : Pkt), s.peerUp p.src = false →
    ∀ e ∈ [Instr.writePacket, .readRequest, .readData, .atomicPacket, .atomicResult, .fencePacket, .cancel, .receiverNotReady,
           .writeAcknowledgement, .channelElement, .channelCredit, .fluxEngineStep, .ieee1588Message, .startOrStopToken, .launchMessage,
           .memberReport, .memberAcknowledgement],
      exec (e p) s = .next (s.countErr 5)

/-- R120, R139, R140, R243, R339 and R365: at its target a remote access is made at its homes and answered, or refused where it does not
translate or meets a converting tensor; its number commits with it, and is never made twice; a fence writes its flag once the counter has
reached its number, and a cancellation lets the counter pass and discards the fences above it. -/
def Sys2Proof.Claims.PacketsReachTheirHomes : Prop :=
  ∀ (s : State) (p : Pkt), s.peerUp p.src = true →
    let refused (e : Instr) (n : Nat) (wr : Bool) : Prop :=
      (s.target p n wr = none → ∃ (u : State) (q : Pkt), exec e s = .next (u.send q) ∧ Refuses s p u ∧ AnswerTo s p q 8 ∧ q.opa = 0)
    let converts (e : Instr) (n : Nat) : Prop :=
      (∀ ps, s.target p n true = some ps → s.targetConverts p n = true →
        ∃ (u : State) (q : Pkt), exec e s = .next (u.send q) ∧ Refuses s p u ∧ AnswerTo s p q 8 ∧ q.opa = 1)
    let n := p.data.length
    (p.op ≠ 1 → p.op ≠ 3 → (s.seen p = false → refused (.writePacket p) n true ∧ converts (.writePacket p) n) ∧
      (s.seen p = true → ∃ q, exec (.writePacket p) s = .next (s.send q) ∧ AnswerTo s p q 9) ∧
      (∀ ps s1, s.seen p = false → s.target p n true = some ps → s.targetConverts p n = false →
        let l := layPlaces ps p.data ((cutGran p.va n (n / 64 + 2)).zipIdx.map fun x => p.tags.getD x.2 none)
        s.mirroredAll l = (true, s1) →
        ∃ (u : State) (q : Pkt), exec (.writePacket p) s = .next (u.send q) ∧ u.mem = (s1.writeParts l).mem ∧ Committed u p ∧ AnswerTo s1 p q 9)) ∧
    refused (.readRequest p) p.len false ∧
    (∀ ps, s.target p p.len false = some ps →
      (s.targetConverts p p.len = true → exec (.readRequest p) s = .next (s.sched 1 (.readRequest p))) ∧
      (s.targetConverts p p.len = false → ∃ (u : State) (q : Pkt), exec (.readRequest p) s = .next (u.send q) ∧ u.mem = s.mem ∧ q.ty = 3 ∧ q.dst = p.src ∧
        q.dsub = p.ssub ∧ q.id = p.id ∧ q.opa = p.opa ∧ q.tags.length = ps.length ∧ q.data.length = (ps.map (·.2)).sum)) ∧
    refused (.atomicPacket p) p.len true ∧ converts (.atomicPacket p) p.len ∧
    (∀ x ps, s.target p p.len true = some (x :: ps) → s.targetConverts p p.len = false →
      (s.seen p = false → mkeysFrom none (s.clu (homeClu x.1)).crq = true →
        ∃ t, exec (.atomicPacket p) s = .next t ∧ t.mem = s.mem ∧ Due t (.crucibleServe (homeClu x.1)) ∧
          mget [] (t.clu (homeClu x.1)).crq 64 = mget [] (s.clu (homeClu x.1)).crq 64 ++
            [{ h := none, rem := some p, pl := x.1, op := p.op, fmt := p.len, v := p.opa, cmp := p.opb }]) ∧
      (s.seen p = true → ∃ (u : State) (q : Pkt), exec (.atomicPacket p) s = .next (u.send q) ∧ u.mem = s.mem ∧ AnswerTo u p q 5)) ∧
    (s.seen p = true → ∃ q, exec (.fencePacket p) s = .next (s.send q) ∧ AnswerTo s p q 9) ∧
    (s.seen p = false → refused (.fencePacket p) n true ∧ converts (.fencePacket p) n ∧
      (∀ ps, s.target p n true = some ps → s.targetConverts p n = false →
        ∃ t, exec (.fencePacket p) s = .next t ∧ t.mem = s.mem ∧
          let i := s.net.ingress (pairKey p.dsub p.ctx p.src p.ssub)
          let j := t.net.ingress (pairKey p.dsub p.ctx p.src p.ssub)
          (∃ f ∈ j.fences, f.seq = p.seq) ∧ (∀ f ∈ i.fences, f ∈ j.fences) ∧ j.c = i.c ∧
            (p.seq ≤ i.c → Due t (.fenceFlagWrite p.dsub (pairKey p.dsub p.ctx p.src p.ssub))))) ∧
    (∃ t, exec (.cancel p) s = .next t ∧ t.mem = s.mem ∧ Committed t p ∧
      ∀ f ∈ (t.net.ingress (pairKey p.dsub p.ctx p.src p.ssub)).fences, f.seq ≤ p.seq) ∧
    (∀ d k f, let i := s.net.ingress k
      firstFence i.fences = some f →
      (i.c < f.seq → exec (.fenceFlagWrite d k) s = .next s) ∧
      (∀ ps s1, f.seq ≤ i.c → s.target f f.data.length true = some ps → s.targetConverts f f.data.length = false →
        let l := layPlaces ps f.data []
        s.mirroredAll l = (true, s1) →
        ∃ (u : State) (q : Pkt), exec (.fenceFlagWrite d k) s = .next (u.send q) ∧ u.mem = (s1.writeParts l).mem ∧ Committed u f ∧ AnswerTo s1 f q 9 ∧
          ∀ g ∈ (u.net.ingress k).fences, g.seq ≠ f.seq)) ∧
    (∀ d k, (s.net.ingress k).fences = [] → exec (.fenceFlagWrite d k) s = .next s)

/-- R120, R139, R140, R243, R332, R339 and R365: what a device does with the packets of other devices. Model's choices it rests
on: assumption log 36, 48, 83. -/
def Obligations.PacketsAtTheTarget : Prop :=
  Sys2Proof.Claims.PacketsOfAbsentPeersAreDropped ∧
  Sys2Proof.Claims.PacketsReachTheirHomes

/-- R139, R140, R230, R243, R244, R257 and R341: at the source an answer fills the load it serves, in the context or in its saved
image, and its number is acknowledged; a refused access waits base x 2^(k-1) and is sent again with its number, and after the
refusal of the eleventh resend it faults at its context; a held write leaves when the window opens; channel elements join the
receive end in the order of their numbers, and credits return. Model's choices it rests on: assumption log 55, 83. -/
def Obligations.AnswersReachTheirSources : Prop :=
  ∀ (s : State) (p : Pkt) (r : Far), s.peerUp p.src = true →
    let key := pairKey r.pkt.ssub r.pkt.ctx r.pkt.dst r.pkt.dsub
    (mfind s.net.far p.id = none →
      (∀ e ∈ [Instr.atomicResult, .receiverNotReady], exec (e p) s = .next s) ∧
      exec (.readData p) s = .next { s with images := s.images.map fun x =>
        if (mfind x.2.far p.id).isSome then (x.1, { x.2 with evs := x.2.evs ++ [(0, .readData p)] }) else x }) ∧
    (mfind s.net.far p.id = some r →
      (∀ e part ts, (e, part, ts) ∈ [(Instr.readData, p.opa.toNat, p.tags), (Instr.atomicResult, 0, [none])] →
        ∃ t, exec (e p) s = .next t ∧ t.mem = s.mem ∧ (r.pkt.ty ≠ 2 → (t.net.egress key).pend = (s.net.egress key).pend.filter (· != r.pkt.seq)) ∧
          ∀ h, r.h = some h → (t.ctx h).f = (s.ctx h).f ∧
            ∀ a ∈ (s.ctx h).q.lq, a.tok = r.tok → a.isAlign = false →
              { a with ps := layPieces a.ps part p.data ts } ∈ (t.ctx h).q.lq) ∧
      (p.op ≠ 1 → ∃ t, exec (.writeAcknowledgement p) s = .next t ∧ t.mem = s.mem ∧ t.hw = s.hw ∧
        (r.pkt.ty ≠ 2 → (t.net.egress key).pend = (s.net.egress key).pend.filter (· != r.pkt.seq)) ∧
        (∀ k c, r.cmd = some k → mfind s.cmds k = some c → mfind t.cmds k = some { c with wait := c.wait - 1 })) ∧
      (r.tries < 11 → ∃ t, exec (.receiverNotReady p) s = .next t ∧ t.mem = s.mem ∧ t.hw = s.hw ∧
        mfind t.net.far p.id = some { r with conv := p.opa == 1, tries := r.tries + 1 } ∧
        (s.clk.wall + nsCycles (max 100 (fld s.net.fbko 31 0) * 2 ^ r.tries), .backoffResend p.id) ∈ t.agenda)) ∧
    (p.op = 1 → ∃ t, exec (.writeAcknowledgement p) s = .next t ∧ t.mem = s.mem ∧
      ∀ a b, (a, p.id, b) ∈ s.net.mir → (a, p.id, true) ∈ t.net.mir) ∧
    (∀ id, mfind s.net.far id = none → exec (.backoffResend id) s = .next s) ∧
    (∀ id, mfind s.net.far id = some r → r.tries ≤ 11 → exec (.backoffResend id) s = .next (s.send r.pkt)) ∧
    (∀ id h, mfind s.net.far id = some r → 11 < r.tries → r.cmd = none → r.pkt.ty = 1 → r.h = some h → (s.ctx h).st ≠ .free →
      (s.ctx h).fin = none → (s.ctx h).trp.fq.length < 8 →
      ∃ t a, exec (.backoffResend id) s = .next t ∧ t.mem = s.mem ∧ (t.ctx h).trp.fq = (s.ctx h).trp.fq ++ [a] ∧
        fld a.afw0 7 0 = (if r.conv then 0x10 else 0x0E) ∧ fld a.afw0 63 32 = r.pkt.seq % 2 ^ 32 ∧ fld a.afw1 10 0 = r.pkt.dst % 2048 ∧
        (t.ctx h).f = (s.ctx h).f) ∧
    (∀ h tok, (s.ctx h).stores.find? (fun a => a.tok == tok && !a.isAlign) = none → exec (.egressRelease h tok) s = .next s) ∧
    (∀ h tok a q ps place b, (s.ctx h).stores.find? (fun a => a.tok == tok && !a.isAlign) = some a → a.kind = .remote (q :: ps) place b →
      let c := s.ctx h
      c.halt = false → s.mayDepart h c a q = true →
      let k := pairKey q.ssub q.ctx q.dst q.dsub
      ((s.net.egress k).opens = false → ∃ t, exec (.egressRelease h tok) s = .next t ∧ t.mem = s.mem ∧ t.net = s.net ∧
        Due t (.egressRelease h a.tok)) ∧
      ((s.net.egress k).opens = true → ∃ t, exec (.egressRelease h tok) s = .next t ∧ t.mem = s.mem ∧
        (t.net.egress k).next = (s.net.egress k).next + 1 ∧ (t.net.egress k).pend = (s.net.egress k).pend ++ [(s.net.egress k).next])) ∧
    (let i := fld p.opa 5 0
     let d := s.dc p.dsub p.ctx
     ∀ w0 w1, mfind d.chan i = some (w0, w1) →
      (d.live = true → fld w0 63 61 = 5 → fld p.opb 14 0 = fld w0 14 0 → (mfind d.chbuf i).getD [] = [] → p.seq % 65536 = fld w1 15 0 →
        ∃ t v, exec (.channelElement p) s = .next t ∧ t.mem = s.mem ∧ t.hw = s.hw ∧
          mfind (t.dc p.dsub p.ctx).chq i = some ((mfind d.chq i).getD [] ++ [p.data]) ∧ mfind (t.dc p.dsub p.ctx).chan i = some (w0, v) ∧
          fld v 15 0 = (fld w1 15 0 + 1) % 65536 ∧ fld v 22 16 = (fld w1 22 16 + 1) % 128) ∧
      (d.live = true → fld w0 63 61 = 5 → fld p.opb 14 0 = fld w0 14 0 → (mfind d.chbuf i).getD [] = [] → p.seq % 65536 ≠ fld w1 15 0 →
        ∃ t, exec (.channelElement p) s = .next t ∧ mfind (t.dc p.dsub p.ctx).chq i = mfind d.chq i ∧
          mfind (t.dc p.dsub p.ctx).chan i = some (w0, w1)) ∧
      (d.live = true → fld w0 63 61 = 5 → fld p.opb 14 0 ≠ fld w0 14 0 →
        ∃ t v, exec (.channelElement p) s = .next t ∧ (t.dc p.dsub p.ctx).chq = d.chq ∧ mfind (t.dc p.dsub p.ctx).chan i = some (w0, v) ∧
          bitOf v 63 = true) ∧
      (fld w0 62 61 = 0 → ∃ t v, exec (.channelCredit p) s = .next t ∧ t.mem = s.mem ∧ t.hw = s.hw ∧
        mfind (t.dc p.dsub p.ctx).chan i = some (w0, v) ∧ fld v 22 16 = (fld w1 22 16 + 1) % 128 ∧ fld v 15 0 = fld w1 15 0))

/-! The flux engine (R102 to R122, R258 to R260, R399). -/

/-- The placement entry of an index of a device context, with the conversion in progress on it. -/
def Sys2Proof.Claims.Converts (s : State) (d c pl : Nat) (e : PlEnt) (k : Conv) : Prop :=
  mfind (s.dc d c).place pl = some e ∧ e.conv = some k

/-- R102, R112, R113, R121 and R259: a step of a member that has come joins the conversion or the collective of its number, is kept for one
that has not been issued here, meets the conversion of the same tensor under another mask, and answers with the abandonment where that number has been passed. -/
def Sys2Proof.Claims.StepsJoinTheirConversion : Prop :=
  ∀ (s : State) (p : Pkt), s.peerUp p.src = true → (s.dc p.dsub p.ctx).live = true →
    let d := s.dc p.dsub p.ctx
    (∀ place mask tgt cur ord, p.flux = .convFirst place mask tgt cur ord →
      let f : First := { seq := p.seq, place := place, mask := mask, tgt := tgt, cur := cur, ord := ord }
      (∀ pl e k, d.convOf mask p.seq = some (pl, e, k) → Converts s p.dsub p.ctx pl e k →
        ∃ t k', exec (.fluxEngineStep p) s = .next t ∧ t.mem = s.mem ∧ Converts t p.dsub p.ctx pl { e with conv := some k' } k' ∧
          k' = { k with firsts := mins k.firsts (d.indexOf mask (p.src, p.ssub)) f }) ∧
      (d.convOf mask p.seq = none → seqAhead p.seq (mget 0 d.seqc mask) = true → d.crossed place mask (p.src, p.ssub) = none →
        exec (.fluxEngineStep p) s = .next (s.modDc p.dsub p.ctx fun x => { x with flux := x.flux ++ [p] })) ∧
      (∀ e k i, d.convOf mask p.seq = none → seqAhead p.seq (mget 0 d.seqc mask) = true → Converts s p.dsub p.ctx place e k →
        k.mask ≠ mask → convTraffic e.cur k.mask k.tgt = true → i = d.indexOf k.mask (p.src, p.ssub) →
        i < (d.groupPeers (maskAxes k.mask)).length → mfind k.firsts i = none →
        ∃ t k', exec (.fluxEngineStep p) s = .next t ∧ t.mem = s.mem ∧ Converts t p.dsub p.ctx place { e with conv := some k' } k' ∧
          k' = { k with firsts := mins k.firsts i f }) ∧
      (d.convOf mask p.seq = none → seqAhead p.seq (mget 0 d.seqc mask) = false →
        ∃ q : Pkt, exec (.fluxEngineStep p) s = .next (s.send q) ∧ q.dst = p.src ∧ q.dsub = p.ssub ∧ q.seq = p.seq ∧
          q.flux = .convDrop place mask 2 0)) ∧
    (∀ place mask pl e k, p.flux = .convPart place mask → d.convOf mask p.seq = some (pl, e, k) → Converts s p.dsub p.ctx pl e k →
      ∃ t k', exec (.fluxEngineStep p) s = .next t ∧ t.mem = s.mem ∧ Converts t p.dsub p.ctx pl { e with conv := some k' } k' ∧
        k' = { k with parts := mins k.parts (d.indexOf mask (p.src, p.ssub)) (fluxElems k.desc.fmt p) }) ∧
    (∀ chan k n chunk, p.flux = .collFirst chan k n chunk →
      (∀ id x, s.collNo p.dsub p.ctx chan p.seq = some (id, x) →
        ∃ t, exec (.fluxEngineStep p) s = .next t ∧ t.mem = s.mem ∧
          mfind t.colls id = some { x with firsts := mins x.firsts (x.peers.findIdx (· == (p.src, p.ssub))) [k, n, chunk] }) ∧
      (s.collNo p.dsub p.ctx chan p.seq = none → seqAhead p.seq ((mfind d.chan chan).getD (0, 0)).2.toNat = true →
        exec (.fluxEngineStep p) s = .next (s.modDc p.dsub p.ctx fun x => { x with flux := x.flux ++ [p] }))) ∧
    (∀ chan id x, p.flux = .collPart chan → s.collNo p.dsub p.ctx chan p.seq = some (id, x) →
      ∃ t, exec (.fluxEngineStep p) s = .next t ∧ t.mem = s.mem ∧
        mfind t.colls id = some { x with parts := mins x.parts (x.peers.findIdx (· == (p.src, p.ssub))) (fluxElems x.src.fmt p) })

/-- R106, R107, R112 to R119 and R399: a conversion starts once every member's first packet is there and agrees, and leaves the entry in the
state demanded, its version advanced, once every shard is there and the new shard is written; a member that differs ends it with LAST 2,
CUR as it was. The steps kept are taken in first. Sums are formed in TREE order: the largest power of two of members before the rest. -/
def Sys2Proof.Claims.ConversionsRunTheirCourse : Prop :=
  (∀ (fmt : Nat) (pick : Nat → Nat) (a b x y z : Nat),
    memberSum fmt 0 pick [a] = a ∧ memberSum fmt 0 pick [a, b] = elemAdd fmt a b ∧
    memberSum fmt 0 pick [a, b, x] = elemAdd fmt (elemAdd fmt a b) x ∧
    memberSum fmt 0 pick [a, b, x, y] = elemAdd fmt (elemAdd fmt a b) (elemAdd fmt x y) ∧
    memberSum fmt 0 pick [a, b, x, y, z] = elemAdd fmt (elemAdd fmt (elemAdd fmt a b) (elemAdd fmt x y)) z) ∧
  ∀ (s : State) (d c pl : Nat),
    let r := s.refeed d c
    let x := r.dc d c
    ((∀ e, mfind x.place pl = some e → e.conv = none) →
      exec (.conversionStart d c pl) s = .next r ∧ exec (.conversionComplete d c pl) s = .next r) ∧
    ∀ e k, Converts r d c pl e k → k.refused = false → k.susp = none →
      let b := k.desc
      let peers := x.groupPeers (maskAxes k.mask)
      let traffic := convTraffic e.cur k.mask k.tgt
      let ext := shardExts x.msh x.mco b k.tgt
      (∀ i cause, k.going = false → x.mismatch k traffic = some (i, cause) →
        ∃ t e', exec (.conversionStart d c pl) s = .next t ∧ t.mem = r.mem ∧ mfind (t.dc d c).place pl = some e' ∧ e'.conv = none ∧
          e'.cip = false ∧ e'.cur = e.cur ∧ fld e'.w1 3 0 = 2) ∧
      (k.going = false → x.mismatch k traffic = none → traffic = true → (∃ i < peers.length, mfind k.firsts i = none) →
        exec (.conversionStart d c pl) s = .next (r.sched 1 (.conversionStart d c pl))) ∧
      (∀ ps qs es u, k.going = false → x.mismatch k traffic = none → (traffic = true → ∀ i < peers.length, mfind k.firsts i ≠ none) →
        r.convReady d pl (r.footprint d c b) k.wait = true →
        r.granPlaces d c b false (b.winGrans (shardExts x.msh x.mco b e.cur)) = .ok ps → r.granPlaces d c b true (b.winGrans ext) = .ok qs →
        r.readElems b.fmt ps = (es, u) →
        ∃ t k', exec (.conversionStart d c pl) s = .next t ∧ t.mem = r.mem ∧ Converts t d c pl { e with conv := some k' } k' ∧
          k' = { k with going := true, parts := mins k.parts (x.indexOf k.mask (x.peerOf x.mco)) es } ∧ Due t (.conversionComplete d c pl)) ∧
      (k.going = true → traffic = true → (∃ i < peers.length, mfind k.parts i = none) →
        exec (.conversionComplete d c pl) s = .next (r.sched 1 (.conversionComplete d c pl))) ∧
      (∀ ps ws s0 s1, k.going = true → (traffic = true → ∀ i < peers.length, mfind k.parts i ≠ none) → r.convReady d pl [] k.wait = true →
        k.tgt < 4096 → r.granPlaces d c b true (b.winGrans ext) = .ok ps →
        let o := shardOrg x.msh x.mco b k.tgt
        let es : List Elem := (windowRows ext).flatMap fun w => (List.range (ext.getD 0 0)).map fun a =>
          convElem (groupKey peers c (k.mask * 1024 + pl)) x e k [o.getD 0 0 + a, o.getD 1 0 + w.1, o.getD 2 0 + w.2.1, o.getD 3 0 + w.2.2]
        r.granWrites b.fmt (convSums e.cur k) ps es = (ws, s0) → s0.mirroredAll ws = (true, s1) →
        ∃ t e', exec (.conversionComplete d c pl) s = .next t ∧ t.mem = (((s1.writeParts ws).forgetBeside d c b ext).forgetHits k).mem ∧
          mfind (t.dc d c).place pl = some e' ∧ e'.conv = none ∧ e'.cip = false ∧ e'.cur = k.tgt ∧ e'.ver = (e.ver + 1) % 65536 ∧
          fld e'.w1 3 0 = 1)

/-- R106, R107, R112 to R119, R121 and R259: conversions, from the first step of a member to the new shard. Model's choices it
rests on: assumption log 67, 68, 69, 70, 113. -/
def Obligations.Conversions : Prop :=
  Sys2Proof.Claims.StepsJoinTheirConversion ∧
  Sys2Proof.Claims.ConversionsRunTheirCourse

/-- R258 to R260: a collective sends its source run once every member's first packet agrees; each chunk is written with its
counter after it, and cp drops with the last one; a member that differs ends it, and nothing is written. Model's choices it rests
on: assumption log 35, 67. -/
def Obligations.CollectivesRunTheirCourse : Prop :=
  ∀ (s : State) (id : Nat),
    (mfind s.colls id = none → ∀ j, exec (.collStart id) s = .next s ∧ exec (.chunkFinal id j) s = .next s) ∧
    (∀ y x, mfind s.colls id = some y →
      let r := s.refeed y.dev y.dctx
      mfind r.colls id = some x → x.refused = false → x.going = false → x.susp = none →
      let held : Prop := ∃ h seq sc, x.h = some h ∧ x.acq = some (seq, sc) ∧ r.allAt h seq sc = false
      (∀ i cause, collDiffers (r.dc x.dev x.dctx) x = some (i, cause) →
        ∃ t, exec (.collStart id) s = .next t ∧ t.mem = r.mem ∧ ∀ h, x.h = some h → (t.ctx h).wc.cp = (r.ctx h).wc.cp - 1) ∧
      (collDiffers (r.dc x.dev x.dctx) x = none → (held ∨ ∃ i < x.g, i ≠ x.me ∧ mfind x.firsts i = none) →
        exec (.collStart id) s = .next (r.sched 1 (.collStart id))) ∧
      (∀ ps es u, collDiffers (r.dc x.dev x.dctx) x = none → ¬ held → (∀ i < x.g, i ≠ x.me → mfind x.firsts i ≠ none) →
        r.granPlaces x.dev x.dctx x.src false (x.src.runGrans x.sorg (if 2 ≤ x.k then x.g * x.n else x.n)) = .ok ps →
        r.readElems x.src.fmt ps = (es, u) →
        ∃ t, exec (.collStart id) s = .next t ∧ t.mem = r.mem ∧ mfind t.colls id = some { x with going := true, parts := mins x.parts x.me es } ∧
          Due t (.chunkFinal id 0))) ∧
    (∀ x j, mfind s.colls id = some x → x.refused = false → x.going = true → x.susp = none →
      let run := if x.k = 1 ∨ x.k = 3 then x.g * x.n else x.n
      let n := min x.chunk (run - j * x.chunk)
      ((∃ i < x.g, mfind x.parts i = none) → exec (.chunkFinal id j) s = .next (s.sched 1 (.chunkFinal id j))) ∧
      (∀ ps cs ws vs s0 s1 s2, (∀ i < x.g, mfind x.parts i ≠ none) →
        s.granPlaces x.dev x.dctx x.dst true (x.dst.runGrans (moveD0 x.dorg (j * x.chunk)) n) = .ok ps →
        s.granPlaces x.dev x.dctx x.ctr true (x.ctr.runGrans (moveD0 x.corg j) 1) = .ok cs →
        s.granWrites x.dst.fmt (decide (x.k = 0 ∨ x.k = 2)) ps
          ((List.range n).map fun i => collElem x (groupKey x.peers x.dctx (2 ^ 19 + x.chan)) (j * x.chunk + i)) = (ws, s0) →
        s0.granWrites 11 false cs [some (x.count % 2 ^ 64, 0)] = (vs, s1) → s1.mirroredAll (ws ++ vs) = (true, s2) →
        ∃ t, exec (.chunkFinal id j) s = .next t ∧ t.mem = (s2.writeParts (ws ++ vs)).mem ∧
          (j * x.chunk + n < run → mfind t.colls id = some { x with final := j + 1 } ∧ Due t (.chunkFinal id (j + 1))) ∧
          (run ≤ j * x.chunk + n → ∀ h, x.h = some h → (t.ctx h).wc.cp = (s.ctx h).wc.cp - 1)))

/-! Swaps, timed events and the timebase (R62, R63, R160, R161, R262 to R264, R317, R327, R328). -/

/-- Every context of a device is halted, and nothing else of it has changed (R160). -/
def Sys2Proof.Claims.Halted (s t : State) (d : Nat) : Prop :=
  ∀ x ∈ s.hw, s.devOf x.1 = d → (x.1, { x.2 with halt := true }) ∈ t.hw

/-- R62, R63, R98, R142, R160, R161 and R317: a pre-emption asked for halts every context of its partition, the exchange waits
until the partition is quiet, and then saves the whole partition, its fetched runs aside, and makes another's image live, with no
translation left of the one before; a context with work comes in where none is resident. Model's choices it rests on: assumption
log 17, 78, 79. -/
def Obligations.SwapsExchangeTheImage : Prop :=
  ∀ (s : State) (d : Nat),
    (∀ p, (d, p) ∈ s.part → p.asked = true → p.halt = false → ∃ t, exec .preemptRequest s = .next t ∧ t.mem = s.mem ∧ Halted s t d ∧
      Due t (.contextSwap d)) ∧
    (s.part = [] → exec .preemptRequest s = .next s) ∧
    ((s.partOf d).halt = false → exec (.contextSwap d) s = .next s) ∧
    ((s.partOf d).halt = true → s.quiet d = false → exec (.contextSwap d) s = .next (s.sched 1 (.contextSwap d))) ∧
    (∀ k c, (s.partOf d).halt = true → s.quiet d = true → (s.partOf d).next = c + 1 → (s.partOf d).num = 0 → s.resident d = some k → k ≠ c →
      mkeysFrom none s.images = true → mkeysFrom none s.res = true →
      let i := (mfind s.images (d * 16 + c)).getD Image.zero
      mkeysFrom none i.hw = true →
      ∃ t, exec (.contextSwap d) s = .next t ∧ t.resident d = some c ∧ mfind t.images (d * 16 + k) = some (s.image d) ∧
        (∀ h x, mfind i.hw h = some x → s.devOf h = d → t.ctx h = { x with halt := false }) ∧
        t.mem.hbm = s.mem.hbm ∧ t.mem.hbmTag = s.mem.hbmTag ∧ t.mem.hbmKey = s.mem.hbmKey ∧ (t.partOf d).halt = false ∧
        (∀ n, s.devOfDie (n / 10) = d → (t.clu n).tlb = [])) ∧
    (s.mem.wf = true → mkeysFrom none s.hw = true →
      (∀ a, s.devOfDie (a / 2 ^ 18 / 640) = d → mget 0 (s.image d).sp a = mget 0 s.mem.sp a) ∧
      (∀ h, s.devOf h = d → mfind (s.image d).hw h = (mfind s.hw h).map Ctx.unfetch)) ∧
    (∀ c : Ctx, { c.unfetch with q := { c.unfetch.q with ag := c.q.ag } } = c ∧
      ∀ n < 4, ∀ g, mget none c.unfetch.q.ag n = some g → g.fetched = []) ∧
    ((∀ e < 8, s.resident e = none ∧ s.candidate e none = none) → exec .priorityPreempt s = .next s) ∧
    (∀ c, d < 8 → (∀ e < 8, s.resident e = none ∧ (e ≠ d → s.candidate e none = none)) → s.candidate d none = some c →
      (s.partOf d).asked = false → (s.dc d c).members.length ≤ 1 →
      ∃ t, exec .priorityPreempt s = .next t ∧ t.mem = s.mem ∧ t.hw = s.hw ∧ Due t .preemptRequest ∧ (t.partOf d).asked = true ∧
        (t.partOf d).next = c + 1)

/-- The timed event of a number in a device context has been carried out. -/
def Sys2Proof.Claims.CarriedOut (t : State) (d c num : Nat) : Prop := ∃ e ∈ (t.dc d c).timed, e.num = num ∧ e.done = true

/-- R262 to R264, R327 and R328: a timed event is carried out in the first cycle in which `now` has reached its timestamp, or, in
token mode, when its token comes; a coordinator that misses an acknowledgement waits or has the span rolled back; the timebase
follows its messages, grows less certain without them, and changes to token mode and back. Model's choices it rests on: assumption
log 16, 18. -/
def Obligations.TimedEventsAndTheTimebase : Prop :=
  ∀ (s : State) (d c num : Nat) (e : Timed),
    let halts := (s.dc d c).timed.find? fun e => e.num == num && (e.kind == 2 || e.kind == 3) && !e.done
    let starts := (s.dc d c).timed.find? fun e => e.num == num && (e.kind == 1 || e.kind == 4) && !e.done
    (halts = none → exec (.timedHalt d c num) s = .next s) ∧
    (halts = some e → (s.now d).toNat < e.t.toNat → exec (.timedHalt d c num) s = .next (s.sched 1 (.timedHalt d c num))) ∧
    (halts = some e → e.t.toNat ≤ (s.now d).toNat → s.acts d c e = false → exec (.timedHalt d c num) s = .next s) ∧
    (halts = some e → e.t.toNat ≤ (s.now d).toNat → s.acts d c e = true →
      ∃ t, exec (.timedHalt d c num) s = .next t ∧ CarriedOut t d c num ∧ (s.dc d c).tlcnt < (t.dc d c).tlcnt ∧
        (s.resident d = some c → Halted s t d) ∧ (e.kind = 3 → Due t .checkpointHalt) ∧
        (e.kind = 2 → s.resident d = some c → Due t (.contextSwap d))) ∧
    (starts = none → exec (.timedStart d c num) s = .next s) ∧
    (starts = some e → (s.now d).toNat < e.t.toNat → exec (.timedStart d c num) s = .next (s.sched 1 (.timedStart d c num))) ∧
    (starts = some e → e.t.toNat ≤ (s.now d).toNat → s.acts d c e = true → s.resident d = some c → (s.partOf d).halt = false →
      (e.kind = 4 → ∃ t, exec (.timedStart d c num) s = .next t ∧ CarriedOut t d c num ∧ t.hw = s.hw) ∧
      (e.kind = 1 → e.ent = none → ∃ t, exec (.timedStart d c num) s = .next t ∧ CarriedOut t d c num ∧ Due t .taskStart ∧
        ∀ x ∈ s.bel.launch, x.2.at' = some e.t → x.2.dev = d → x.2.dctx = c → x.1 ∈ t.bel.tasks)) ∧
    (∀ p kind at' n, s.peerUp p.src = true → (s.dc p.dsub p.ctx).live = true →
      (p.flux = .arm kind at' n → s.findTimed p.dsub p.ctx kind at' = none → exec (.startOrStopToken p) s =
        .next (s.armTimed p.dsub p.ctx { Timed.new kind at' n with asker := memberKey p.src p.ssub + 1 })) ∧
      (p.flux = .token kind at' → s.findTimed p.dsub p.ctx kind at' = some e →
        ((e.done = true ∨ (s.tb p.dsub).mode ≠ 2) → exec (.startOrStopToken p) s = .next s) ∧
        (e.done = false → (s.tb p.dsub).mode = 2 → (kind = 2 ∨ kind = 3) → ∃ t, exec (.startOrStopToken p) s = .next t ∧
          CarriedOut t p.dsub p.ctx e.num ∧ (s.resident p.dsub = some p.ctx → Halted s t p.dsub)))) ∧
    (s.latecomers 0 20000 = [] → exec .stragglerTimeout s = .next s) ∧
    (s.latecomers 0 20000 = [(d, c, e)] → (s.dc d c).allAcked e = false →
      ((s.dc d c).spol = 0 → ∃ t, exec .stragglerTimeout s = .next t ∧ t.mem = s.mem ∧ Due t .stragglerWaitExpiry ∧
        (t.dc d c).back = (s.dc d c).back) ∧
      ((s.dc d c).spol ≠ 0 → ∃ t, exec .stragglerTimeout s = .next t ∧ t.mem = s.mem ∧ Due t .rollback ∧
        (t.dc d c).back = some ((((mfind s.ckpts (d * 16 + c)).getD []).filter (·.full) |>.map (·.num)).foldl max 0,
          s.now d + 1000000, 0))) ∧
    (s.latecomers 1 1019998 = [] → exec .stragglerWaitExpiry s = .next s) ∧
    (s.latecomers 1 1019998 = [(d, c, e)] → (s.dc d c).allAcked e = false →
      ∃ t, exec .stragglerWaitExpiry s = .next t ∧ t.mem = s.mem ∧ Due t .rollback ∧ (t.dc d c).back ≠ none) ∧
    (∀ p off unc, s.peerUp p.src = true → p.flux = .time off unc →
      let b := s.tb p.dsub
      ∃ t, exec (.ieee1588Message p) s = .next t ∧ t.mem = s.mem ∧ t.hw = s.hw ∧ (2000 < unc → Due t .tokenModeEnter) ∧
        (∀ x, x ≠ p.dsub → t.tb x = s.tb x) ∧
        t.tb p.dsub = { b with off := off, unc := unc, slew := -off, last := s.now p.dsub, mode := if b.mode = 1 then 0 else b.mode,
                               below := if unc < 1000 then b.below.orElse fun _ => some (s.now p.dsub) else none }) ∧
    ((∀ x ∈ s.devices, (s.now x).toNat < (s.tb x).last.toNat + 1999999990) → exec .holdoverEnter s = .next s) ∧
    (∀ x ∈ s.devices, (s.tb x).last.toNat + 1999999990 ≤ (s.now x).toNat → ∃ t, exec .holdoverEnter s = .next t ∧ t.mem = s.mem ∧
      t.hw = s.hw ∧ (s.tb x).unc < (t.tb x).unc ∧ (t.tb x).mode = (if (s.tb x).mode = 2 then 2 else 1) ∧ Due t .holdoverEnter) ∧
    (∃ t, exec .tokenModeEnter s = .next t ∧ t.mem = s.mem ∧ t.hw = s.hw ∧ ∀ x ∈ s.devices,
      t.tb x = if 2000 < (s.tb x).unc then { s.tb x with mode := 2, below := none } else s.tb x) ∧
    ((∀ x ∈ s.devices, (s.tb x).mode ≠ 2 ∨ (s.tb x).below = none) → exec .lockRegain s = .next s) ∧
    (∃ t, exec .lockRegain s = .next t ∧ t.mem = s.mem ∧ t.hw = s.hw ∧ ∀ x ∈ s.devices,
      (∀ b, (s.tb x).mode = 2 → (s.tb x).below = some b → b.toNat + 1000000000 ≤ (s.now x).toNat → t.tb x = { s.tb x with mode := 0 }) ∧
      (((s.tb x).mode ≠ 2 ∨ (∀ b, (s.tb x).below = some b → (s.now x).toNat < b.toNat + 1000000000)) → t.tb x = s.tb x))

/-! The bellows (R309 to R322, R324 to R326, R352, R353, R400). -/

/-- An entry of a queue is due to start. -/
def Sys2Proof.Claims.StartsNow (t : State) (q id : Nat) : Prop := (q, id) ∈ t.bel.starts ∧ Due t .entryStart

/-- An entry of a queue is due to start and to complete with a status (R310, R312). -/
def Sys2Proof.Claims.EndsWith (t : State) (q id st : Nat) : Prop :=
  StartsNow t q id ∧ (q, id) ∈ t.bel.dones ∧ Due t .entryComplete ∧ ∃ e ∈ (t.queue q).ents, e.id = id ∧ e.fin.map (·.1) = some st

/-- Every entry has a number of its own, and the queues stand in order: what the bellows keep of the queues (R309, R310). -/
def Sys2Proof.Claims.QueuesApart (s : State) : Prop :=
  mkeysFrom none s.bel.qs = true ∧
  ∀ x ∈ s.bel.qs, ∀ y ∈ s.bel.qs, ∀ e ∈ x.2.ents, ∀ f ∈ y.2.ents, e.id = f.id → x.1 = y.1 ∧ e = f

/-- The INFO that an entry is to complete with (R312). -/
def Sys2Proof.Claims.Informs (t : State) (q id info : Nat) : Prop := ∃ e ∈ (t.queue q).ents, e.id = id ∧ e.fin.map (·.2) = some info

/-- One entry of a type waits, and its words hold only what its type uses (R311, R313). -/
def Sys2Proof.Claims.Waits (s : State) (ty q : Nat) (e : QEnt) (use : List (Nat × Word)) : Prop :=
  QueuesApart s ∧ s.waiting ty = [(q, e)] ∧ s.running ty = [] ∧ wordsOk e use = true

/-- One entry of a type waits, and of the entries that are ready to start on its device it comes first (R317). -/
def Sys2Proof.Claims.Serves (s : State) (ty q : Nat) (e : QEnt) (use : List (Nat × Word)) : Prop :=
  Waits s ty q e use ∧ s.first q e = true

/-- The state in which an entry of a queue is acted on: its queue was served last on its device (R317). -/
def Sys2Proof.Claims.serving (s : State) (q : Nat) : State :=
  { s with bel := { s.bel with served := mput 63 s.bel.served (s.queueDev q) q } }

/-- R309 to R313, R317, R352 and R353: the entry at HEAD of an enabled queue is taken, HEAD advances and its type's event follows; a queue
whose TAIL runs past its size, or whose entry does not translate, stops; a started entry lets its queue take the next; a completed entry
has its last word written and leaves. -/
def Sys2Proof.Claims.EntriesAreTakenAndCompleted : Prop :=
  ∀ (s : State) (q : Nat),
    let k := s.queue q
    let dev := s.queueDev q
    (k.en = false → exec (.entryTake q) s = .next s) ∧
    (k.en = true → 2 ^ k.size < (k.tail + 2 ^ 32 - k.head) % 2 ^ 32 →
      ∃ t, exec (.entryTake q) s = .next t ∧ t.mem = s.mem ∧ (t.queue q).err = true ∧ (t.queue q).en = false ∧ (t.queue q).head = k.head) ∧
    (k.en = true → (k.tail + 2 ^ 32 - k.head) % 2 ^ 32 ≤ 2 ^ k.size → ((s.dc dev k.ctx).live = false ∨ (s.dc dev k.ctx).ending = true) →
      exec (.entryTake q) s = .next s) ∧
    (k.en = true → (s.dc dev k.ctx).live = true → (s.dc dev k.ctx).ending = false → (k.tail + 2 ^ 32 - k.head) % 2 ^ 32 ≤ 2 ^ k.size →
      k.takeable = true →
      (k.ctx = 0 ∨ (s.resident dev = some k.ctx ∧ (s.partOf dev).asked = false)) →
      (∀ s1, s.bellRead dev k.ctx (k.addr + 128 * (k.head % 2 ^ k.size)) 16 = (none, s1) →
        ∃ t, exec (.entryTake q) s = .next t ∧ (t.queue q).err = true ∧ (t.queue q).en = false) ∧
      (∀ ws s1, s.bellRead dev k.ctx (k.addr + 128 * (k.head % 2 ^ k.size)) 16 = (some ws, s1) →
        ∃ t e, exec (.entryTake q) s = .next t ∧ t.mem = s1.mem ∧ (t.queue q).head = (k.head + 1) % 2 ^ 32 ∧ e.ws = ws ∧ e.pos = k.head ∧
          e.started = false ∧ (∀ ev, entryEvent e.ty = some ev → Due t ev ∧ e.fin = none ∧ (t.queue q).ents = k.ents ++ [e]) ∧
          (entryEvent e.ty = none → QueuesApart s → (∀ x ∈ s.bel.qs, ∀ y ∈ x.2.ents, y.id < s1.clk.tick) → EndsWith t q e.id 1))) ∧
    (∀ id, s.bel.starts = [(q, id)] → ∃ t, exec .entryStart s = .next t ∧ t.mem = s.mem ∧ t.bel.starts = [] ∧ Due t (.entryTake q) ∧
      (t.queue q).ents = k.ents.map fun e => if e.id = id then { e with started := true } else e) ∧
    (∀ id e st info u, s.reviewEnds = s → s.bel.dones = [(q, id)] → k.ents.find? (fun x => x.id == id) = some e → e.fin = some (st, info) →
      let w := atBit 1 63 ||| atBit st 48 ||| atBit (info % 2 ^ 32) 0
      { s with bel := { s.bel with dones := [] } }.bellWrite dev k.ctx (k.addr + 128 * (e.pos % 2 ^ k.size) + 120) (toBytes 8 w.toNat) =
        some (true, u) →
      ∃ t, exec .entryComplete s = .next t ∧ t.mem = u.mem ∧ (t.queue q).ents = k.ents.filter (fun x => x.id != id) ∧ t.bel.dones = [] ∧
        Due t (.entryTake q))

/-- R69, R97, R264, R313, R317 and R400: of the entries ready to start on a device the
one of the highest PRIO is served, and among equals the next queue in turn; NOP completes; SIGNAL writes its value once every earlier entry has completed; WAITVAL completes once
the value meets its condition, and waits until then; TINVAL drops the cached translations of its range once no access that
used one is left; FAULTREPLY resumes or abandons what it names; TPRE and TRESUME arm their events. An entry of management from another context than 0 completes with STATUS 2. -/
def Sys2Proof.Claims.QueueEntriesAct : Prop :=
  ∀ (s : State) (q : Nat) (e : QEnt),
    let r := serving s q
    let dev := s.queueDev q
    let c := (s.queue q).ctx
    let w (n : Nat) : Word := e.ws.getD n 0
    (∀ x ∈ s.allWaiting, s.queueDev x.1 = dev → s.ready x.1 x.2 = true → s.first q e = true →
      let turn (n : Nat) : Nat := (n + 127 - mget 63 s.bel.served dev) % 64
      (s.queue x.1).prio ≤ (s.queue q).prio ∧ ((s.queue x.1).prio = (s.queue q).prio → turn q ≤ turn x.1)) ∧
    (Serves s 0 q e [] → ∃ t, exec .nop s = .next t ∧ t.mem = s.mem ∧ EndsWith t q e.id 0) ∧
    (Waits s 7 q e [(1, wAll), (2, wAll)] → s.alone q e = false → exec .signal s = .next (s.schedOnce 1 .signal)) ∧
    (Serves s 7 q e [(1, wAll), (2, wAll)] →
      ((w 1).toNat % 8 ≠ 0 → ∃ t, exec .signal s = .next t ∧ t.mem = s.mem ∧ EndsWith t q e.id 1) ∧
      ((w 1).toNat % 8 = 0 → r.bellWrite dev c (w 1).toNat (toBytes 8 (w 2).toNat) = none →
        ∃ t, exec .signal s = .next t ∧ t.mem = s.mem ∧ EndsWith t q e.id 8) ∧
      (∀ u, (w 1).toNat % 8 = 0 → r.bellWrite dev c (w 1).toNat (toBytes 8 (w 2).toNat) = some (true, u) → u.bel = r.bel →
        ∃ t, exec .signal s = .next t ∧ t.mem = u.mem ∧ EndsWith t q e.id 0)) ∧
    (Waits s 8 q e [(1, wAll), (2, wAll), (3, wLow 3)] → (w 1).toNat % 8 = 0 → fld (w 3) 2 0 < 6 →
      ∀ x u, s.bellRead dev c (w 1).toNat 1 = (some [x], u) →
        (waitvCond (fld (w 3) 2 0) x (w 2) = true → s.first q e = true → ∃ t, exec .waitval s = .next t ∧ t.mem = s.mem ∧ EndsWith t q e.id 0) ∧
        (waitvCond (fld (w 3) 2 0) x (w 2) = false → exec .waitval s = .next (s.schedOnce 1 .waitval))) ∧
    (Serves s 9 q e [(1, wAll), (2, wAll), (3, wLow 4)] → c = 0 →
      let k := fld (w 3) 3 0
      ((k = 0 ∨ (s.dc dev k).live = false) → ∃ t, exec .tinval s = .next t ∧ t.mem = s.mem ∧ EndsWith t q e.id 1) ∧
      let hit (z : TlbEnt) : Bool := z.dev == dev && z.dctx == k && z.va < (w 1).toNat + (w 2).toNat && (w 1).toNat < z.va + z.size
      let used := (s.clus.flatMap fun x => (x.2.tlb ++ x.2.old).filter hit) ++ s.host.apTlb.flatMap fun x => x.2.filter hit
      (k ≠ 0 → (s.dc dev k).live = true → s.accessIn dev k (fun p => used.any fun z => s.inPage dev z p) = false →
        ∃ t, exec .tinval s = .next t ∧ t.mem = s.mem ∧ EndsWith t q e.id 0 ∧ (∀ cl, ∀ z ∈ (t.clu cl).tlb, hit z = false) ∧
          ∀ x ∈ t.host.apTlb, ∀ z ∈ x.2, hit z = false) ∧
      (k ≠ 0 → (s.dc dev k).live = true → s.accessIn dev k (fun p => used.any fun z => s.inPage dev z p) = true →
        ∃ t, exec .tinval s = .next t ∧ t.mem = s.mem ∧ StartsNow t q e.id ∧ Due t .tinval ∧
          ∀ x ∈ (t.queue q).ents, x.id = e.id → x.fin = none)) ∧
    (Serves s 10 q e [(1, wLow 32), (2, wLow 1), (3, wLow 4)] → c = 0 →
      let k := fld (w 3) 3 0
      let fid := fld (w 1) 31 0
      ((k = 0 ∨ (s.dc dev k).live = false ∨ mfind (s.dc dev k).susp fid = none) →
        ∃ t, exec .faultreply s = .next t ∧ t.mem = s.mem ∧ EndsWith t q e.id 1 ∧ Informs t q e.id fid) ∧
      (∀ id x, k ≠ 0 → (s.dc dev k).live = true → mfind (s.dc dev k).susp fid = some (.cmd id) → s.resident dev = some k → mfind s.cmds id = some x → x.susp ≠ none →
        ∃ t, exec .faultreply s = .next t ∧ t.mem = s.mem ∧ EndsWith t q e.id 0 ∧ Informs t q e.id fid ∧
          mfind t.cmds id = some { x with susp := none, deny := !bitOf (w 2) 0 } ∧ (bitOf (w 2) 0 = false → Due t (.copyFault id)) ∧
          (bitOf (w 2) 0 = true → ∃ h, Due t (.memoryAccessPerform h id 0)))) ∧
    (∀ ty ev kind, (ty, ev, kind) ∈ [(11, Instr.tpreEntry, 2), (12, Instr.tresume, 4)] → Serves s ty q e [(1, wAll), (2, wLow 4)] → c = 0 →
      let k := fld (w 2) 3 0
      ((k = 0 ∨ (s.dc dev k).live = false) → ∃ t, exec ev s = .next t ∧ t.mem = s.mem ∧ EndsWith t q e.id 1) ∧
      (k ≠ 0 → (s.dc dev k).live = true → ∃ t, exec ev s = .next t ∧ t.mem = s.mem ∧ StartsNow t q e.id ∧
        ∃ x ∈ (t.dc dev k).timed, x.kind = kind ∧ x.t = w 1 ∧ x.num = (s.dc dev k).evnum + 1 ∧ x.qent = some e.id)) ∧
    (∀ ty ev use, (ty, ev, use) ∈ [(1, Instr.create, [(1, wAll), (2, wLow 4)]), (2, .destroy, [(2, wLow 4)]),
        (9, .tinval, [(1, wAll), (2, wAll), (3, wLow 4)]), (10, .faultreply, [(1, wLow 32), (2, wLow 1), (3, wLow 4)]),
        (11, .tpreEntry, [(1, wAll), (2, wLow 4)]), (12, .tresume, [(1, wAll), (2, wLow 4)])] →
      Serves s ty q e use → c ≠ 0 → ∃ t, exec ev s = .next t ∧ t.mem = s.mem ∧ EndsWith t q e.id 2)

/-- R69, R97, R264, R310 to R313, R317 and R400: queue entries are taken, act and complete. Model's choices it rests on:
assumption log 17, 75. -/
def Obligations.QueueEntries : Prop :=
  Sys2Proof.Claims.EntriesAreTakenAndCompleted ∧
  Sys2Proof.Claims.QueueEntriesAct

/-- R63, R108, R110 to R113, R258, R313, R314, R321, R322 and R400: CREATE makes a context from its record, or refuses it; DESTROY
ends one; COLL and CONV start their collective and their conversion, or complete with the status of the check that fails. Model's
choices it rests on: assumption log 20, 71, 73, 74. -/
def Obligations.EntriesMakeContextsAndStartTheFlux : Prop :=
  ∀ (s u : State) (q : Nat) (e : QEnt) (ws : List Word),
    let r := serving s q
    let dev := s.queueDev q
    let c := (s.queue q).ctx
    let w (n : Nat) : Word := e.ws.getD n 0
    (Serves s 1 q e [(1, wAll), (2, wLow 4)] → c = 0 →
      let k := fld (w 2) 3 0
      (r.bellRead dev 0 (w 1).toNat 16 = (none, u) → ∃ t, exec .create s = .next t ∧ EndsWith t q e.id 8) ∧
      (r.bellRead dev 0 (w 1).toNat 16 = (some ws, u) →
        (recordReserved ws = true → ∃ t, exec .create s = .next t ∧ EndsWith t q e.id 1) ∧
        (recordReserved ws = false → u.recordBad dev k ws = true → ∃ t, exec .create s = .next t ∧ EndsWith t q e.id 7) ∧
        (∀ n bs u1, recordReserved ws = false → u.recordBad dev k ws = false → recordSizes (ws.getD 0 0) (fld (ws.getD 1 0) 35 34) = some n →
          let cnt := n.foldl (· * ·) 1
          cnt ≤ 2 ^ 14 → u.virtRead dev 0 (ws.getD 3 0).toNat 0 (2 * cnt) = (some bs, u1) →
          let mesh := (chunksOf 2 bs (cnt + 1)).map ofBytes
          (∀ x ∈ mesh, x < 2 ^ 14) → twice mesh = false → dev * 2048 + s.net.fpeer ∈ mesh →
          ∃ t, exec .create s = .next t ∧ EndsWith t q e.id 0 ∧ (t.dc dev k).live = true ∧
            (fld (ws.getD 0 0) 41 40 = u1.dieMode → t.mem = u1.mem) ∧ t.dieMode = fld (ws.getD 0 0) 41 40 ∧
            (t.dc dev k).key = fld (ws.getD 0 0) 55 48 ∧ (t.dc dev k).ptb = ws.getD 2 0 ∧ (t.dc dev k).place = [] ∧
            (t.dc dev k).fq = ws.getD 4 0 ∧ (t.dc dev k).tlog = ws.getD 5 0 ∧ mfind t.images (dev * 16 + k) = some Image.zero))) ∧
    (Serves s 2 q e [(2, wLow 4)] → c = 0 →
      let k := fld (w 2) 3 0
      ((k = 0 ∨ (s.dc dev k).live = false) → ∃ t, exec .destroy s = .next t ∧ t.mem = s.mem ∧ EndsWith t q e.id 1) ∧
      (k ≠ 0 → (s.dc dev k).live = true → s.resident dev ≠ some k → (∀ x ∈ s.queuesOf dev k, x.2.ents = []) →
        ∃ t, exec .destroy s = .next t ∧ t.mem = s.mem ∧ EndsWith t q e.id 0 ∧ (t.dc dev k).live = false ∧
          (∀ cl, ∀ z ∈ (t.clu cl).tlb, ¬ (z.dev = dev ∧ z.dctx = k)) ∧ ∀ n ∈ t.net.eg.map (·.1) ++ t.net.ing.map (·.1),
            n / 16384 ≠ dev * 16 + k)) ∧
    (Serves s 6 q e [(2, wLow 4), (3, wAll), (4, wAll)] →
      let args := (w 3).toNat
      (args % 8 ≠ 0 → ∃ t, exec .conv s = .next t ∧ EndsWith t q e.id 1) ∧
      (∀ l, args % 8 = 0 → r.argsAt dev c args = (some (l, 0), u) → u.bel = r.bel →
        let b := l.getD (fld (w 2) 3 0) Desc.none
        let p := u.entry dev c b
        ((u.boxOk dev c b = false ∨ (u.dc dev c).mirrorRoom l = false) → ∃ t, exec .conv s = .next t ∧ EndsWith t q e.id 1) ∧
        (u.boxOk dev c b = true → (u.dc dev c).mirrorRoom l = true → (∀ x, demandCheck (u.dc dev c).msh b p (w 4) true = .error x → ∃ t, exec .conv s = .next t ∧ EndsWith t q e.id (badStatus x)) ∧
        (∀ full, demandCheck (u.dc dev c).msh b p (w 4) true = .ok full →
          (full = p.cur → p.cip = false → ∃ t, exec .conv s = .next t ∧ EndsWith t q e.id 0) ∧
          (¬ (full = p.cur ∧ p.cip = false) → u.membersUp (u.dc dev c) p (fld (w 4) 14 12) full = true →
            ∃ t k, exec .conv s = .next t ∧ t.mem = u.mem ∧ StartsNow t q e.id ∧ (t.entry dev c b).conv = some k ∧ .entry e.id ∈ k.wait ∧
              (∃ y ∈ (t.queue q).ents, y.id = e.id ∧ y.num = k.seq) ∧
              (t.dc dev c).mirror = (u.dc dev c).mirror ++ newMirrors (u.dc dev c) l ∧
              (p.conv = none → k.tgt = full ∧ k.seq = (mget 0 (u.dc dev c).seqc (fld (w 4) 14 12) + 1) % 2 ^ 32)))))) ∧
    (Serves s 5 q e ([(2, wLow 10), (3, wAll), (5, wAll)] ++ (List.range 5).map fun k => (8 + k, wAll)) →
      let args := (w 3).toNat
      let x0 (n : Nat) : Word := e.ws.getD (8 + n) 0
      (args % 8 ≠ 0 → ∃ t, exec .coll s = .next t ∧ EndsWith t q e.id 1) ∧
      (∀ l ch x, args % 8 = 0 → (bitOf (w 2) 0 = true → fld (w 2) 3 1 ≤ 4) → (bitOf (w 2) 4 = true → fld (w 2) 7 5 ≤ 4) →
        r.argsAt dev c args = (some (l, 0), u) → u.bel = r.bel → chanByte (w 5) (fld (x0 0) 2 0) = some ch →
        collOf u dev c (argsCtx dev c l).box (fld (w 2) 9 8) x0 ch = .ok x → u.collRunsBad x (argsCtx dev c l) (x0 0) = none →
        (u.dc dev c).mirrorRoom l = true →
        ∃ t, exec .coll s = .next t ∧ t.mem = u.mem ∧ StartsNow t q e.id ∧ (t.dc dev c).mirror = (u.dc dev c).mirror ++ newMirrors (u.dc dev c) l ∧ mfind t.colls u.clk.tick = some { x with q := some e.id } ∧
          Due t (.collStart u.clk.tick)))

/-- The launches, by type, and what a launch asks of the words (R313). -/
def Sys2Proof.Claims.launches : List (Nat × Instr × Word) := [(3, .launch, 0), (4, .tlaunchEntry, wAll)]

/-- R12, R300, R313 to R316, R318 and R319: a launch that passes its checks reserves a context on the first die that has one free,
and its task starts there with its boxes, its views and its registers as R315 gives them; the members of a launch on several
devices check, report and reserve at the launching member's word. Model's choices it rests on: assumption log 15, 41, 42. -/
def Obligations.LaunchesStartTheirTasks : Prop :=
  ∀ (s : State) (q : Nat) (e : QEnt),
    let r := serving s q
    let dev := s.queueDev q
    let c := (s.queue q).ctx
    (∀ y ∈ launches, ∀ u lv, Serves s y.1 q e (launchUse y.2.2) → r.launchLevel dev c e.ws = (lv, u) → lv ≠ some 3 →
      (∀ st u1, u.launchInfo dev c e.ws = (.error st, u1) → u1.bel = r.bel → ∃ t, exec y.2.1 s = .next t ∧ EndsWith t q e.id st) ∧
      (∀ i u1 h, u.launchInfo dev c e.ws = (.ok i, u1) → u1.bel = r.bel → u1.placeTask dev (s.queue q).nextDie = some h →
        ∃ t, exec y.2.1 s = .next t ∧ t.mem = u1.mem ∧ StartsNow t q e.id ∧ (t.queue q).lastDie = some (dieOf h) ∧
          mfind t.bel.launch h = some { ent := e.id, lead := 0, dev := dev, dctx := c, ws := e.ws, at' := launchAt e.ws } ∧
          (launchAt e.ws = none → h ∈ t.bel.tasks ∧ Due t .taskStart) ∧
          (∀ x, launchAt e.ws = some x → ∃ z ∈ (t.dc dev c).timed, z.kind = 1 ∧ z.t = x ∧ z.qent = some e.id))) ∧
    (∀ p ent k pr f ws, s.peerUp p.src = true → (s.dc p.dsub p.ctx).live = true → p.flux = .launch 0 ent k pr f ws →
      (∀ st u, s.launchInfo p.dsub p.ctx ws = (.error st, u) →
        exec (.launchMessage p) s = .next (u.tell p.dsub p.ctx 257 (p.src, p.ssub) (.report ent 0 st 0))) ∧
      (∀ i u, s.launchInfo p.dsub p.ctx ws = (.ok i, u) →
        exec (.launchMessage p) s = .next (u.tell p.dsub p.ctx 257 (p.src, p.ssub) (.report ent 0 0 0)))) ∧
    (∀ p go ent k pr f ws i u h, s.peerUp p.src = true → (s.dc p.dsub p.ctx).live = true → p.flux = .launch go ent k pr f ws → go ≠ 0 →
      p.src ≠ s.net.fpeer → s.resident p.dsub = some p.ctx → (s.partOf p.dsub).asked = false → s.launchInfo p.dsub p.ctx ws = (.ok i, u) →
      s.placeTask p.dsub (s.peerDie p k f) = some h →
      ∃ t, exec (.launchMessage p) s = .next t ∧ t.mem = u.mem ∧
        mfind t.bel.launch h = some { ent := ent, lead := memberKey p.src p.ssub + 1, dev := p.dsub, dctx := p.ctx, ws := ws,
                                      at' := launchAt ws }) ∧
    (∀ p ent st ccy, s.peerUp p.src = true → p.flux = .report ent 1 st ccy →
      exec (.memberReport p) s = .next ((s.entryReport ent (memberKey p.src p.ssub) 1 st ccy).schedOnce 0 .entryComplete)) ∧
    (∀ p ent st ccy k, s.peerUp p.src = true → QueuesApart s → mfind s.bel.qs q = some k → e ∈ k.ents → e.id = ent → e.started = false →
      e.fin = none → e.checks = [] → st ≠ 0 → st ≠ 256 → (q, ent) ∉ s.bel.starts →
      (s.dc dev k.ctx).members = [(p.src, p.ssub)] → p.flux = .report ent 0 st ccy → ∃ t, exec (.memberReport p) s = .next t ∧ EndsWith t q ent st) ∧
    (s.bel.tasks = [] → exec .taskStart s = .next s) ∧
    (∀ h v i u (ws : List (List (Place × List Byte × Option Tag))) s1, s.bel.tasks = [h] → mfind s.bel.launch h = some v → s.resident v.dev = some v.dctx → (s.partOf v.dev).halt = false →
      s.launchInfo v.dev v.dctx v.ws = (.ok i, u) → (zeroed i.boxes).map (u.zeroWrites v.dev v.dctx) = ws.map some →
      u.mirroredAll ws.flatten = (true, s1) →
      ∃ t k, exec .taskStart s = .next t ∧ t.mem = (s1.writeParts ws.flatten).mem ∧ (t.ctx h).st = .ready ∧
        (t.ctx h).pc = atBit (fld (i.tws.getD 0 0) 63 32) 0 ∧ (t.ctx h).trp.tvec = v.ws.getD 6 0 ∧ (t.ctx h).lats = [] ∧
        (t.ctx h).f.rs = startReg [] 2 (v.ws.getD 4 0) ∧
        (t.ctx h).f.vd = startViews i.tws ∧ (∀ n < 16, i.boxes.length = 16 → (t.ctx h).box n = i.boxes.getD n Desc.none) ∧
        (t.ctx h).task = some k ∧ k.lvl = i.lvl ∧ k.dev = v.dev ∧ k.dctx = v.dctx ∧ k.queue = some v.ent ∧ k.cbase = i.cbase ∧
        k.csize = i.csize ∧ k.image = v.ws.getD 1 0)

/-- R319 and R324 to R326: the three stages of the quench act once, when the clock of the oldest started launch passes their
limit: T1 pre-empts the context, T2 ends every task of the entry abnormally, and T3 takes the cores of those that have not ended
out of issue, their arrays reset. Model's choices it rests on: assumption log 76, 77. -/
def Obligations.QuenchStagesAct : Prop :=
  ∀ (s : State) (q : Nat) (e : QEnt) (b : Nat),
    let k := s.queue q
    let dev := s.queueDev q
    (k.clocked = none → exec (.quenchT1 q) s = .next s ∧ exec (.quenchT2 q) s = .next s ∧ exec (.quenchT3 q) s = .next s) ∧
    (k.clocked = some e → e.since = some b → e.checks = [] →
      let late (n : Nat) : Prop := k.limits.getD n 0 ≠ 0 ∧ k.limits.getD n 0 * 1100 + 1 ≤ e.clk + (s.clk.wall - b) ∧ e.stage / 2 ^ n % 2 = 0
      (late 0 → (s.dc dev k.ctx).members.length ≤ 1 → (s.partOf dev).asked = false →
        ∃ t, exec (.quenchT1 q) s = .next t ∧ t.mem = s.mem ∧ t.hw = s.hw ∧ (t.queue q).pre = true ∧ (t.partOf dev).asked = true ∧
          Due t .preemptRequest) ∧
      (late 0 → 1 < (s.dc dev k.ctx).members.length → ∃ t, exec (.quenchT1 q) s = .next t ∧ t.mem = s.mem ∧ t.hw = s.hw ∧
        (t.queue q).pre = true ∧ ∃ z ∈ (t.dc dev k.ctx).timed, z.kind = 2 ∧ z.t = s.now dev + 100000) ∧
      (late 1 → ∃ t, exec (.quenchT2 q) s = .next t ∧ t.mem = s.mem ∧ (t.queue q).killed = true ∧
        ∀ h ∈ s.runners dev 0 e.id, (s.ctx h).fin = none ∨ (s.ctx h).fin = some 0 → (t.ctx h).fin = some 2 ∧ (t.ctx h).f = (s.ctx h).f) ∧
      (late 2 → (s.runners dev 0 e.id = [] → ∃ t, exec (.quenchT3 q) s = .next t ∧ t.mem = s.mem ∧ (t.queue q).fenced = k.fenced) ∧
        (∀ h ∈ s.runners dev 0 e.id, s.mem.wf = true → ∃ t, exec (.quenchT3 q) s = .next t ∧ (t.queue q).fenced = true ∧
          (t.core (coreOf h)).fenced = true ∧ (t.core (coreOf h)).holder = none ∧ (t.ctx h).fin = some 12 ∧
          (∀ a, a / 2 ^ 18 = coreOf h → mget 0 t.mem.sp a = 0))))

/-! The host interface (R309, R310, R340, R347, R350 to R362, R370, R375, R381). -/

/-- R309, R310, R340, R350 to R358, R370, R375 and R381: what a register write leaves. A write of four bytes changes its half alone; a write that
names no register of its function's changes nothing; every other register has its own rule. No write of a register changes storage. -/
def Sys2Proof.Claims.HostRegisterWrites : Prop :=
  ∀ (s : State) (w : RegWr),
    let f := regFn w
    let o := regOff w
    let v := s.regNew w
    (w.n = 8 → v = w.val) ∧
    (w.n = 4 → ∀ k < 64, v.getLsbD k =
      if w.off % 8 = 0 then (if k < 32 then w.val.getLsbD k else (s.regRead f o).getLsbD k)
      else (if k < 32 then (s.regRead f o).getLsbD k else w.val.getLsbD (k - 32))) ∧
    (s.regQueue w = none → exec (.qcfgWrite w) s = .next (s.regAck w) ∧ exec (.qtailWrite w) s = .next (s.regAck w)) ∧
    (∀ q, s.regQueue w = some q →
      let k := s.queue q
      (∃ t, exec (.qtailWrite w) s = .next t ∧ t.mem = s.mem ∧ t.queue q = { k with tail := fld v 31 0 } ∧ Due t (.entryTake q)) ∧
      (s.fnMgt f = false → k.ctx = 0 → exec (.qcfgWrite w) s = .next (s.regAck w)) ∧
      (s.fnMgt f = true → k.en = true → ∃ t, exec (.qcfgWrite w) s = .next t ∧ t.mem = s.mem ∧
        t.queue q = { k with cfg := putFld k.cfg 0 0 (fld v 0 0) }) ∧
      (s.fnMgt f = true → k.en = false → bitOf v 0 = true → ∃ t, exec (.qcfgWrite w) s = .next t ∧ t.mem = s.mem ∧ Due t (.entryTake q) ∧
        (t.queue q).head = k.head ∧ (t.queue q).fenced = false ∧ (t.queue q).killed = false ∧ (t.queue q).pre = false ∧
        (4 ≤ fld v 47 40 ∧ fld v 47 40 ≤ 16 → (t.queue q).cfg = v &&& 0x0000FF0F00000701 ∧ (t.queue q).err = false) ∧
        (¬ (4 ≤ fld v 47 40 ∧ fld v 47 40 ≤ 16) → (t.queue q).en = false ∧ (t.queue q).err = true)) ∧
      (o % 64 = 8 → ∃ t, exec (.registerWrite w) s = .next t ∧ t.mem = s.mem ∧
        t.queue q = if k.en then k else { k with base := v &&& 0x0000FFFFFFFFFF80 }) ∧
      (o % 64 = 32 → ∃ t, exec (.registerWrite w) s = .next t ∧ t.mem = s.mem ∧ (t.queue q).lim = v ∧ (t.queue q).cfg = k.cfg) ∧
      (o % 64 = 40 → ∃ t, exec (.registerWrite w) s = .next t ∧ t.mem = s.mem ∧ (t.queue q).lim3 = v &&& 0xFFFFFFFF)) ∧
    (f < 8 → ∀ k < 16, k = (o - 0x1100) / 8 → mkeysFrom none (s.fn f).apw = true → ∃ t, exec (.apwcfgWrite w) s = .next t ∧ t.mem = s.mem ∧
      (∀ j, j ≠ k → mget 0 (t.fn f).apw j = mget 0 (s.fn f).apw j) ∧
      let y := mget 0 (t.fn f).apw k
      fld y 55 48 = fld v 55 48 ∧ fld y 39 36 = fld v 39 36 ∧ fld y 5 1 = fld v 5 1 ∧
      (bitOf y 0 = true ↔ bitOf v 0 = true ∧ fld v 39 36 ≠ 0 ∧ (s.fnDc f (fld v 39 36)).live = true ∧ 16 ≤ fld v 5 1 ∧ fld v 5 1 ≤ 33)) ∧
    (f < 8 → bitOf (regMerge 0 w) 63 = true → ∃ t, exec (.aperrWrite w) s = .next t ∧ t.mem = s.mem ∧ t.fn f = { s.fn f with aperr := 0 }) ∧
    (bitOf (regMerge 0 w) 63 = false → exec (.aperrWrite w) s = .next (s.regAck w)) ∧
    (∀ dev c e, s.fnDev f = some dev → f < 8 → s.fnMgt f = true → c = (o - 0x20000) / 1024 → e = o % 1024 / 16 → c < 16 →
      (s.chanBound dev c e = true → exec (.channelEntryWrite w) s = .next (s.regAck w)) ∧
      (s.chanBound dev c e = false → o % 16 = 0 → ∃ t x y, exec (.channelEntryWrite w) s = .next t ∧ t.mem = s.mem ∧
        mfind (t.dc dev c).chan e = some (x, y) ∧ fld x 63 32 = fld v 63 32 ∧ fld x 31 15 = 0 ∧ fld x 14 0 = fld v 14 0 ∧ y = 0 ∧
        (mkeysFrom none (s.dc dev c).chnew = true → mget false (t.dc dev c).chnew e = (bitOf v 63 && fld v 62 61 == 0)))) ∧
    (f < 8 →
      let n := (o - 0x2000) / 16
      (bitOf v 32 = true → ∃ t, exec (.msixVectorControlWrite w) s = .next t ∧ t.mem = s.mem ∧ t.outs = s.outs ∧
        (mkeysFrom none (s.fn f).unmask = true → mget false (t.fn f).unmask n = false)) ∧
      (bitOf v 32 = false → ∃ t, exec (.msixVectorControlWrite w) s = .next t ∧ t.mem = s.mem ∧
        t.outs = s.outs ++ (if mget false (s.fn f).pend n then [.msi w.port w.fn n] else []) ∧
        (mkeysFrom none (s.fn f).unmask = true → mget false (t.fn f).unmask n = true) ∧
        (mkeysFrom none (s.fn f).pend = true → mget false (t.fn f).pend n = false))) ∧
    (∀ k < 8, s.fnMgt f = true → k = (o - 0x18300) / 8 → mkeysFrom none s.mgt.errs = true → w.val = 0 →
      ∃ t, exec (.errorLogWrite w) s = .next t ∧ t.mem = s.mem ∧ ∀ j, mget 0 t.mgt.errs j = if j = k then 0 else mget 0 s.mgt.errs j) ∧
    (w.val ≠ 0 → exec (.errorLogWrite w) s = .next (s.regAck w)) ∧
    (f < 8 → o = 0x1010 → ∃ t, exec (.registerWrite w) s = .next t ∧ t.mem = s.mem ∧
      ∀ q < 64, (t.fn f).irqen.getLsbD q = (v.getLsbD q && (s.fnDev f == some (s.queueDev q)))) ∧
    (f < 8 → (o = 0x1000 ∨ o = 0x1008) → exec (.registerWrite w) s = .next (s.regAck w)) ∧
    (f < 8 → s.fnMgt f = false → 0x10000 ≤ o → exec (.registerWrite w) s = .next (s.regAck w)) ∧
    (s.fnMgt f = true →
      (f < 8 → o = 0x40000 → ∃ t, exec (.registerWrite w) s = .next t ∧ t.mem = s.mem ∧ (t.fn f).pwbase = v &&& 0x0000007F00000000) ∧
      (o = 0x10010 → ∃ t, exec (.registerWrite w) s = .next t ∧ t.mem = s.mem ∧ t.net.fadp = v &&& 0xFFFF) ∧
      (o = 0x10018 → ∃ t, exec (.registerWrite w) s = .next t ∧ t.mem = s.mem ∧ fld t.net.fbko 31 0 = max 100 (fld v 31 0)) ∧
      (o = 0x10020 → ∃ t, exec (.registerWrite w) s = .next t ∧ t.mem = s.mem ∧ fld t.mgt.retiv 31 0 = max 10 (fld v 31 0)) ∧
      (o = 0x10028 → ∃ t, exec (.registerWrite w) s = .next t ∧ t.mem = s.mem ∧ t.mgt.wlim = min 4800 (max 1000 (fld v 15 0)) ∧
        t.mgt.tlim = if 60 ≤ fld v 31 16 ∧ fld v 31 16 ≤ 95 then fld v 31 16 else 95) ∧
      (o = 0x18400 → (w.n = 8 ∨ w.off % 8 = 4) → ∃ t, exec (.registerWrite w) s = .next t ∧ t.mem = s.mem ∧ t.mgt.dbgctl = v ∧
        ∀ e, dbgEvent (fld v 63 56) = some e → Due t e ∧ bitOf t.mgt.dbgst 63 = true))

/-- R347 to R350, R354, R355, R358 to R362 and R379: posted writes and reads at the ordering point. A request longer than its port supports has
no effect, an AtomicOp request ends as an Unsupported Request, and a write that finds no room for its pieces waits. A register write goes to its register once no
earlier write of its function stands; a failure of the aperture writes nothing and is recorded once; a piece that has arrived is written
at its homes; a read waits for the writes before it, and completes. -/
def Sys2Proof.Claims.HostRequests : Prop :=
  ∀ (s : State) (r : Req),
    let f := reqFn r
    let r' := { r with len := r.data.length }
    let x := s.fn f
    ((s.carries r.port = false ∨ 4 ≤ r.fn) → exec (.postedWrite r) s = .next s ∧ exec (.memoryRead r) s = .next s) ∧
    (4096 < r.data.length → exec (.postedWrite r) s = .next s) ∧ (4096 < r.len → exec (.memoryRead r) s = .next s) ∧
    (s.carries r.port = true → r.fn < 4 → r.len ≤ 4096 → r.aop = true →
      exec (.memoryRead r) s = .next (s.emit (.cpl r.port r.fn r.off none))) ∧
    (s.mgt.state = 2 → exec (.postedWrite r) s = .next s ∧ (s.carries r.port = true → r.fn < 4 → r.len ≤ 4096 → r.aop = false →
      (f = 0 → r.bar = 0 → r.off = 0x10000 → r.len = 8 →
        exec (.memoryRead r) s = .next (s.emit (.cpl 0 0 0x10000 (some (toBytes 8 s.mgt.stat.toNat))))) ∧
      (f ≠ 0 ∨ r.bar ≠ 0 ∨ r.off / 8 ≠ 0x2000 → exec (.memoryRead r) s = .next (s.emit (.cpl r.port r.fn r.off none))))) ∧
    (s.carries r.port = true → r.fn < 4 → s.mgt.state ≠ 2 →
      (r.data ≠ [] → r.data.length ≤ 4096 → 512 < x.pieces + s.piecesFor r' →
        ∃ t, exec (.postedWrite r) s = .next t ∧ t.mem = s.mem ∧ t.fn f = x ∧ Due t (.postedWrite r') ∧
          ∀ y ∈ t.agenda, hostReq f y.2 = true → s.clk.wall + 1 ≤ y.1) ∧
      (∀ dev, r.data ≠ [] → r.data.length ≤ 4096 → x.pieces + s.piecesFor r' ≤ 512 → s.fnDev f = some dev →
        (r.bar = 0 → (r'.len = 4 ∨ r'.len = 8) → r.off % r'.len = 0 → r.bad = false → x.posted = [] →
          ∃ t w, exec (.postedWrite r) s = .next t ∧ t.mem = s.mem ∧ Due t (regEvent w) ∧ w.port = r.port ∧ w.fn = r.fn ∧ w.off = r.off ∧
            w.n = r'.len ∧ w.val = BitVec.ofNat 64 (ofBytes r.data)) ∧
        (r.bar = 0 → (r'.len = 4 ∨ r'.len = 8) → r.off % r'.len = 0 → r.bad = false → r.ro = false → (∃ p l, x.posted = p :: l ∧ p.sent = true) →
          ∃ t p, exec (.postedWrite r) s = .next t ∧ t.mem = s.mem ∧ (t.fn f).posted = x.posted ++ [p] ∧ p.req = r' ∧ p.sent = false) ∧
        (r.bar = 2 → ∀ k, (s.apPlaces dev x.apw r' true).1 = .error k →
          ∃ t, exec (.postedWrite r) s = .next t ∧ t.mem = s.mem ∧ (t.fn f).posted = x.posted ∧
            (bitOf x.aperr 63 = false → bitOf (t.fn f).aperr 63 = true ∧ fld (t.fn f).aperr 47 40 = k ∧ fld (t.fn f).aperr 55 48 = 1 ∧
              bitOf (t.fn f).aperr 32 = false ∧ (t.fn f).aperra = BitVec.ofNat 64 r.off) ∧
            (bitOf x.aperr 63 = true → fld (t.fn f).aperr 47 32 = fld x.aperr 47 32 ∧ (t.fn f).aperra = x.aperra ∧
              fld (t.fn f).aperr 55 48 = min 255 (fld x.aperr 55 48 + 1))) ∧
        (r.bar = 2 → ∀ ps, (s.apPlaces dev x.apw r' true).1 = .ok ps → x.posted = [] → ps ≠ [] →
          ∃ t p, exec (.postedWrite r) s = .next t ∧ t.mem = s.mem ∧ p.ps = (piecesOf ps r.data).zipIdx.map (fun y => (y.2, y.1)) ∧
            p.sent = true ∧ p ∈ (t.fn f).posted ∧ ∀ y ∈ p.ps, Due t (.pieceAck f p.id y.1)) ∧
        (r.bar = 4 → s.fnMgt f = false → exec (.postedWrite r) s = .next s)) ∧
      (r.len ≤ 4096 → r.aop = false → ∃ t, exec (.memoryRead r) s = .next t ∧ t.mem = s.mem ∧ Due t (.pieceAck f 0 0) ∧ (t.fn f).posted = x.posted ∧
        ∃ n, (t.fn f).reads = x.reads ++ [(n, { r with data := [] }, x.apw)] ∧ ∀ p ∈ x.posted, p.id ≤ n)) ∧
    (∀ id k p pc s1, x.posted.find? (fun p => p.id == id && p.sent) = some p → p.ps.find? (fun y => y.1 == k) = some (k, pc) →
      s.mirroredAll (granParts pc) = (true, s1) →
      ∃ t, exec (.pieceAck f id k) s = .next t ∧ t.mem = ((s1.writeParts (granParts pc)).hostHits (granParts pc)).mem ∧
        ((∀ d c, ∀ e ∈ (s1.dc d c).place, e.2.conv = none) → t.mem = (s1.writeParts (granParts pc)).mem) ∧
        ∀ y ∈ (t.fn f).posted, y.id = id → ∀ z ∈ y.ps, z.1 ≠ k) ∧
    (∀ id k n dev apw, x.posted = [] → x.reads = [(n, r, apw)] → s.fnDev f = some dev → r.bar = 0 → (r.len = 4 ∨ r.len = 8) → r.off % r.len = 0 →
      ∃ t, exec (.pieceAck f id k) s = .next t ∧ t.mem = s.mem ∧ (t.fn f).reads = [] ∧ t.outs = s.outs ++
        [.cpl r.port r.fn r.off (some (((toBytes 8 (s.regRead f (r.off / 8 * 8)).toNat).drop (r.off % 8)).take r.len))])

/-- R309, R310, R340, R347 to R362, R370, R375, R379 and R381: register writes, posted writes and reads of the host. Model's
choices it rests on: assumption log 52, 53, 54, 55, 56, 57, 113. -/
def Obligations.HostInterface : Prop :=
  Sys2Proof.Claims.HostRegisterWrites ∧
  Sys2Proof.Claims.HostRequests

/-! Links (R333, R336 to R338, R344, R345, R347, R351, R374). -/

/-- R336 to R338, R344, R345, R347, R351 and R374: a port or a link that trains comes up whole or not at all; a link that loses
lanes halves and then goes down; a flit that does not verify is counted, not taken, and asked for again, and one out of order is
not taken; a packet from a source outside the partition is dropped and counted; a rollover loads the next key into the idle slot
at both ends, and waits while flits of the old epoch stand; a package link that fails is logged, and strikes its devices only
where no other route is left. Model's choices it rests on: assumption log 58, 62, 64. -/
def Obligations.LinksTrainLoseAndCarry : Prop :=
  ∀ (s : State) (k : Nat),
    let l := s.link k
    (2 ≤ k → exec (.pcieLinkTraining k) s = .next s) ∧
    (k < 2 → ∃ t, exec (.pcieLinkTraining k) s = .next t ∧ t.mem = s.mem ∧ (∀ j, j ≠ k → t.port j = s.port j) ∧
      ((t.port k).up = true ↔ (t.port k).fail = false) ∧
      ((t.port k).up = true → 5 ≤ (t.port k).rate ∧ 8 ≤ (t.port k).width ∧ ((t.port k).flit = true ↔ 6 ≤ (t.port k).rate))) ∧
    (∃ t, exec (.linkTraining k) s = .next t ∧ t.mem = s.mem ∧ (36 ≤ k → t.links = s.links) ∧
      (k < 36 → l.up = true → t.link k = l ∨ t.link k = { l with lanes := 8 }) ∧
      (k < 36 → l.up = false → t.link k = Link.zero ∨ ((t.link k).up = true ∧ (t.link k).sess = true ∧ (t.link k).lanes = 8 ∧
        ((t.link k).gen = 1 ∨ (t.link k).gen = 2) ∧ (t.link k).keys = (t.link k).rkeys))) ∧
    (∃ t, exec (.linkRetrainRequest k) s = .next t ∧ t.links = s.links ∧ t.mem = s.mem ∧ Due t (.linkTraining k)) ∧
    (l.up = false → exec (.laneLoss k) s = .next s) ∧
    (l.up = true → ∃ t, exec (.laneLoss k) s = .next t ∧ t.mem = s.mem ∧ t.mgt.llcnt = s.mgt.llcnt + 1 ∧
      (l.lanes = 8 → t.link k = { l with lanes := 4 }) ∧ (l.lanes ≠ 8 → (t.link k).up = false)) ∧
    (l.rx = [] → exec (.flitReceive k) s = .next s) ∧
    (∀ x good rx, l.rx = (x, good) :: rx →
      let l' := { l with rx := rx }
      let verifies := good = true ∧ mfind l.rkeys (slotIx x.epoch) = some x.key
      (l.up = false → exec (.flitReceive k) s = .next (s.setLink k l')) ∧
      (l.up = true → ¬ verifies → exec (.flitReceive k) s = .next ((s.setLink k { l' with ask := true }).countErr 3)) ∧
      (l.up = true → verifies → x.seq ≠ l.rxseq → exec (.flitReceive k) s = .next (s.setLink k l')) ∧
      (l.up = true → verifies → x.seq = l.rxseq → ∃ t, exec (.flitReceive k) s = .next t ∧ t.mem = s.mem ∧
        (x.last = false → (t.link k).rxseq = (l.rxseq + 1) % 2 ^ 32 ∧
          (t.link k).rkeys = if x.epoch = l.repoch then l.rkeys else mdel l.rkeys (slotIx (!x.epoch))) ∧
        (x.last = false → l.wait = [] → t.agenda = s.agenda ∧ (x.ack = l.txseq → (t.link k).replay = []) ∧
          ∀ a y b, l.replay = a ++ y :: b → y.seq = x.ack → x.ack ≠ l.txseq → (∀ z ∈ a, z.seq ≠ x.ack) → (t.link k).replay = y :: b) ∧
        (x.last = true → s.peerUp x.pkt.src = false → ∃ u : State, t = u.countErr 5) ∧
        (x.last = true → s.peerUp x.pkt.src = true → x.pkt.dst = s.net.fpeer → ∀ e, pktEvent x.pkt = some e → Due t e))) ∧
    ((l.up = false ∨ (∃ y ∈ l.replay, y.epoch ≠ l.epoch) ∨ mfind l.rkeys (slotIx (!l.repoch)) ≠ none) → exec (.linkKeyRollover k) s = .next s) ∧
    (l.up = true → (∀ y ∈ l.replay, y.epoch = l.epoch) → mfind l.rkeys (slotIx (!l.repoch)) = none →
      ∃ t, exec (.linkKeyRollover k) s = .next t ∧ t.mem = s.mem ∧ (t.link k).epoch = !l.epoch ∧ (t.link k).repoch = l.repoch ∧
        (t.link k).replay = l.replay ∧ (t.link k).sent = 0 ∧ mfind (t.link k).keys (slotIx (!l.epoch)) = some l.next ∧
        mfind (t.link k).keys (slotIx l.epoch) = mfind l.keys (slotIx l.epoch) ∧ mfind (t.link k).rkeys (slotIx (!l.repoch)) = some l.next ∧
        mfind (t.link k).rkeys (slotIx l.repoch) = mfind l.rkeys (slotIx l.repoch)) ∧
    (∀ a b, let n := pkgKey a b
      ((pkgLink a b = false ∨ mget 0 s.pkg n = 8) → ∃ t, exec (.packageLinkFail a b) s = .next t ∧ t.pkg = s.pkg ∧ t.mem = s.mem ∧
        t.hw = s.hw ∧ t.mgt = s.mgt) ∧
      (pkgLink a b = true → mget 0 s.pkg n ≠ 8 → mkeysFrom none s.pkg = true →
        ∃ t, exec (.packageLinkFail a b) s = .next t ∧ t.mgt.llcnt = s.mgt.llcnt + 1 ∧ (mget 0 t.pkg n = 4 ∨ mget 0 t.pkg n = 8) ∧
          (mget 0 s.pkg n ≠ 0 → mget 0 t.pkg n = 8) ∧ (∀ m, m ≠ n → mget 0 t.pkg m = mget 0 s.pkg m) ∧
          (mget 0 t.pkg n = 4 → t.mem = s.mem ∧ t.hw = s.hw) ∧
          ((∀ x < 18, ∀ y < 10, (s.pkgPath x y false).isSome = true → (t.pkgPath x y false).isSome = true) → t.mem = s.mem ∧ t.hw = s.hw)))

/-! Failure, checkpoints, rollback and takeover (R78, R262, R328, R363 to R370). -/

/-- A device context that is live, where every other live one is passed over. -/
def Sys2Proof.Claims.OnlyOne (s : State) (d c : Nat) (idle : Nat → Nat → Prop) : Prop :=
  mkeysFrom none s.dctx = true ∧ (d, c) ∈ s.dctxs ∧ ∀ x ∈ s.dctxs, x ≠ (d, c) → idle x.1 x.2

/-- No device context has anything to do. -/
def Sys2Proof.Claims.AllIdle (s : State) (idle : Nat → Nat → Prop) : Prop := ∀ x ∈ s.dctxs, idle x.1 x.2

/-- The number of the last complete checkpoint of a device context. -/
def Sys2Proof.Claims.lastCkpt (s : State) (d c : Nat) : Nat := (((s.ckptsOf d c).filter (·.full)).map (·.num)).foldl max 0

/-- R78, R363 and R366: heartbeats go to the coordinator, which counts those it misses and takes a member with ten missing in a row, or no longer in state 1, as lost; an
error beyond correction has the span rolled back, or ended where it has no checkpoint. What ends a device context here stops its
commands, ends its tasks, completes its started entries with STATUS 9 and writes the recovery record. -/
def Sys2Proof.Claims.HeartbeatsLossesAndErrors : Prop :=
  ∀ (s : State) (d c : Nat),
    let x := s.dc d c
    ((x.live = false ∨ s.mgt.beats = false ∨ x.members.length ≤ 1) → exec (.heartbeatSend d c) s = .next s) ∧
    (x.live = true → s.mgt.beats = true → 1 < x.members.length →
      (s.coordinates d c = false → exec (.heartbeatSend d c) s =
        .next ((s.sched 110000 (.heartbeatSend d c)).tell d c 258 x.coordinator (.beat x.buddy))) ∧
      (∀ p sub, s.coordinates d c = true → x.members = [(s.net.fpeer, d), (p, sub)] → p ≠ s.net.fpeer → mkeysFrom none x.misses = true →
        ∃ t, exec (.heartbeatSend d c) s = .next t ∧ t.mem = s.mem ∧ t.hw = s.hw ∧ Due t (.heartbeatSend d c) ∧
          mget 0 (t.dc d c).misses (memberKey p sub) = mget 0 x.misses (memberKey p sub) + 1 ∧
          ((mget 0 x.misses (memberKey p sub) = 10 ∨ mget 0 s.net.peers p ≠ 1) → Due t (.deviceLost p)))) ∧
    (∀ p, let idle (d c : Nat) : Prop := s.coordinates d c = false ∨ (∀ m ∈ (s.dc d c).members, m.1 ≠ p) ∨ (s.dc d c).lost = some p ∨ p ∈ (s.dc d c).gone
      (AllIdle s idle → exec (.deviceLost p) s = .next s) ∧
      (OnlyOne s d c idle → ¬ idle d c →
        ((s.standby = none ∨ s.hasCkpt d c = false ∨ p ∈ x.buddiesOf p ∨ p ∈ x.risk) →
          exec (.deviceLost p) s = .next (s.loseSpan d c p)) ∧
        (s.standby ≠ none → s.hasCkpt d c = true → p ∉ x.buddiesOf p → p ∉ x.risk → x.lost ≠ none →
          exec (.deviceLost p) s = .next (s.schedOnce 110000 (.deviceLost p))) ∧
        (s.standby ≠ none → s.hasCkpt d c = true → p ∉ x.buddiesOf p → p ∉ x.risk → x.lost = none →
          ∃ t, exec (.deviceLost p) s = .next t ∧ t.mem = s.mem ∧ t.hw = s.hw ∧ (t.dc d c).lost = some p ∧ Due t .takeoverAdmission ∧
            (∀ b, (b ∈ x.buddiesOf p ∨ b ∈ x.wardsOf p) → b ∈ (t.dc d c).risk) ∧
            ∃ z ∈ (t.dc d c).timed, z.kind = 2 ∧ z.t = s.now d + 100000))) ∧
    (∀ a, s.ownersOf a = [] → exec (.machineCheck a) s = .next (s.countErr 2)) ∧
    (∀ a, s.ownersOf a = [(d, c)] →
      let n := s.countErr 2
      let r := if a < regSpace then { n with mgt := { n.mgt with bad := a / 64 :: n.mgt.bad } } else n
      (s.coordinates d c = true → s.hasCkpt d c = true → ∃ t, exec (.machineCheck a) s = .next t ∧ t.mem = s.mem ∧ Due t .rollback ∧
        (t.dc d c).back = some (lastCkpt s d c, s.now d + 1000000, 0) ∧ t.mgt.bad = r.mgt.bad) ∧
      (s.hasCkpt d c = false → exec (.machineCheck a) s = .next ((r.tellAll d c 258 (.ended 4 0)).endSpan d c 4 0)) ∧
      (s.coordinates d c = false → s.hasCkpt d c = true → exec (.machineCheck a) s = .next (r.tell d c 258 x.coordinator .struck))) ∧
    (∀ kind lost, kind < 256 → mwf 0 s.mgt.rcv = true → mkeysFrom none s.bel.qs = true →
      let t := s.endSpan d c kind lost
      mget 0 t.mgt.rcv 0 = BitVec.ofNat 64 kind ∧ fld (mget 0 t.mgt.rcv 1) 31 21 = lost % 2048 ∧ Due t .entryComplete ∧
      (∀ y ∈ t.cmds, ¬ (y.2.dev = d ∧ y.2.dctx = c)) ∧ (∀ y ∈ t.colls, ¬ (y.2.dev = d ∧ y.2.dctx = c)) ∧
      (∀ h, s.resident d = some c → s.devOf h = d → (∃ y ∈ s.hw, y.1 = h ∧ y.2.task ≠ none) → (s.ctx h).fin = none ∨ (s.ctx h).fin = some 0 →
        (t.ctx h).fin = some 13) ∧
      (∀ q k, mfind s.bel.qs q = some k → s.queueDev q = d → k.ctx = c → ∀ e ∈ k.ents, e.started = true → e.fin = none →
        ∃ e' ∈ (t.queue q).ents, e'.id = e.id ∧ ∃ info, e'.fin = some (9, info)))

/-- R262, R365 and R370: a checkpoint is called when the period has passed, takes the image of the halted partition once it is
quiet into the slot that the last complete one does not lie in (what the slot then holds is free; assumption log 80), lets the
partition go on, and is complete when every member's stream has landed; the contexts that asked then receive their records.
Model's choices it rests on: assumption log 16, 56, 80. -/
def Obligations.CheckpointsAreTaken : Prop :=
  ∀ (s : State) (d c num : Nat),
    let x := s.dc d c
    let per (d c : Nat) : Nat := fld (mget 0 (s.dc d c).ckcfg 2) 63 32
    let idle (d c : Nat) : Prop := per d c = 0 ∨ s.coordinates d c = false ∨ (s.now d).toNat < (s.dc d c).ckNext.toNat
    (AllIdle s idle → exec .checkpointPeriod s = .next s) ∧
    (OnlyOne s d c idle → ¬ idle d c → ∃ t, exec .checkpointPeriod s = .next t ∧ t.mem = s.mem ∧ t.hw = s.hw ∧ Due t .checkpointPeriod ∧
      (t.dc d c).ckNext = x.ckNext + BitVec.ofNat 64 (per d c * 1000000) ∧ (x.ckptArea = false → (t.dc d c).timed = x.timed) ∧
      (x.ckptArea = true → ∃ z ∈ (t.dc d c).timed, z.kind = 3 ∧ z.t = s.now d + 20000 ∧ z.num = x.evnum + 1)) ∧
    (s.toTake = [] → exec .checkpointHalt s = .next s) ∧
    (∀ e, s.toTake = [(d, c, e)] →
      let free := if ((s.ckptsOf d c).filter (·.full)).any fun k => k.slot == 0 then 1 else 0
      (s.resident d = some c → s.quiet d = false → exec .checkpointHalt s = .next (s.schedOnce 1 .checkpointHalt)) ∧
      (s.resident d = some c → s.quiet d = true → ∃ t k, exec .checkpointHalt s = .next t ∧ t.mem = (s.fillSlot d c free).mem ∧
        k.slot = free ∧ k ∈ t.ckptsOf d c ∧ k.num = e.num ∧ k.t = e.t ∧ k.img = s.image d ∧ k.dc = x ∧ k.full = false ∧ (t.partOf d).halt = false ∧
        ∀ y ∈ t.hw, t.devOf y.1 = d → y.2.halt = false) ∧
      (s.resident d ≠ some c → ∃ t k, exec .checkpointHalt s = .next t ∧ t.mem = (s.fillSlot d c free).mem ∧ t.hw = s.hw ∧
        k.slot = free ∧ k ∈ t.ckptsOf d c ∧ k.num = e.num ∧ k.img = (mfind s.images (d * 16 + c)).getD Image.zero ∧ k.full = false)) ∧
    (let e := x.timed.find? fun e => e.num == num && (e.kind == 3 || e.kind == 6)
     (e = none → exec (.checkpointComplete d c num) s = .next s) ∧
     (∀ z, e = some z → z.kind = 3 → ∃ t, exec (.checkpointComplete d c num) s = .next t ∧ t.mem = s.mem ∧
       (∀ k ∈ s.ckptsOf d c, k.num = num → { k with full := true } ∈ t.ckptsOf d c) ∧ (∀ k ∈ t.ckptsOf d c, num ≤ k.num)) ∧
     (∀ z h, e = some z → z.who = [h] → s.resident d = some c → (s.ctx h).q.eq.length < 32 →
       ∃ t r, exec (.checkpointComplete d c num) s = .next t ∧ t.mem = s.mem ∧ (t.ctx h).q.eq = (s.ctx h).q.eq ++ [r] ∧
         recHandle r = num % 65536 ∧ recKind r = 5 ∧ recStatus r = (if z.kind = 6 then 7 else 0) ∧ (t.ctx h).wc.cp = (s.ctx h).wc.cp - 1 ∧
         (t.ctx h).f = (s.ctx h).f ∧ ∀ y ∈ (t.dc d c).timed, y.num ≠ num) ∧
     (∀ z h, e = some z → h ∈ z.who → 32 ≤ (s.ctx h).q.eq.length → ∃ t, exec (.checkpointComplete d c num) s = .next t ∧ t.hw = s.hw ∧
       Due t (.checkpointComplete d c num)))

/-- R365, R368 and R369: a rollback puts the checkpoint's image, tables and queues in the place of what runs, halted until the
resumption, and records itself; without the checkpoint the device context ends. A standby takes the place of a lost peer once the
span has halted, and every member then rolls back. Model's choices it rests on: assumption log 16, 80. -/
def Obligations.RollbackAndTakeover : Prop :=
  ∀ (s : State) (d c : Nat),
    let x := s.dc d c
    (let idle (d c : Nat) : Prop := (s.dc d c).back = none
     (AllIdle s idle → exec .rollback s = .next s) ∧
     (∀ num t0, OnlyOne s d c idle → x.back = some (num, t0, 0) →
       ((s.ckptsOf d c).find? (fun k => k.num == num && k.full) = none →
         exec .rollback s = .next ((s.modDc d c fun y => { y with back := none }).endSpan d c 4 0)) ∧
       (∀ k, (s.ckptsOf d c).find? (fun k => k.num == num && k.full) = some k → mwf 0 s.mgt.rcv = true → mkeysFrom none k.qs = true →
         ∃ t, exec .rollback s = .next t ∧ t.mem.hbm = s.mem.hbm ∧ (t.dc d c).place = k.dc.place ∧ (t.dc d c).chan = k.dc.chan ∧
           (t.dc d c).seqc = k.dc.seqc ∧ (t.dc d c).back = none ∧ (t.dc d c).buddy = x.buddy ∧ (t.dc d c).fqcnt = x.fqcnt ∧ (t.dc d c).tlcnt = x.tlcnt ∧
           mget 0 t.mgt.rcv 0 = 1 ∧ fld (mget 0 t.mgt.rcv 1) 63 32 = k.num % 2 ^ 32 ∧ mget 0 t.mgt.rcv 2 = k.t ∧ mget 0 t.mgt.rcv 3 = t0 ∧
           (∃ z ∈ (t.dc d c).timed, z.kind = 4 ∧ z.t = t0) ∧ (∀ q y, mfind k.qs q = some y → (t.queue q).head = y.head) ∧
           (s.resident d = some c → mkeysFrom none k.img.hw = true → ∀ h y, mfind k.img.hw h = some y → s.devOf h = d →
             t.ctx h = { y with halt := true }) ∧
           (s.resident d ≠ some c → mfind t.images (d * 16 + c) = some k.img)))) ∧
    (let idle (d c : Nat) : Prop := (s.dc d c).lost = none
     (AllIdle s idle → exec .takeoverAdmission s = .next s ∧ exec .takeoverRestore s = .next s) ∧
     (∀ p, OnlyOne s d c idle → x.lost = some p →
       ((s.resident d = some c ∧ (s.partOf d).halt = false ∨ ∀ m ∈ x.members, m.1 ≠ p) →
         exec .takeoverAdmission s = .next (s.schedOnce 110000 .takeoverAdmission)) ∧
       ((s.resident d = some c → (s.partOf d).halt = true) → (∃ m ∈ x.members, m.1 = p) →
         (s.standby = none → exec .takeoverAdmission s = .next (s.loseSpan d c p)) ∧
         (∀ new, s.standby = some new → new ≠ p → mkeysFrom none s.net.peers = true →
           ∃ t, exec .takeoverAdmission s = .next t ∧ t.mem = s.mem ∧ t.hw = s.hw ∧ mget 0 t.net.peers new = 1 ∧ mget 0 t.net.peers p = 2 ∧
             (∀ j, j ≠ new → j ≠ p → mget 0 t.net.peers j = mget 0 s.net.peers j) ∧
             (mkeysFrom none s.net.route = true → t.route 0 p = 0 ∧ t.route 1 p = 0) ∧
             (t.dc d c).mtab = x.mtab.map (fun y => if y.2 % 2048 = p then (y.1, y.2 / 2048 * 2048 + new) else y) ∧
             (t.dc d c).buddy = (if x.buddy = p then new else x.buddy) ∧ (∃ g, .key x.key new g ∈ t.outs) ∧
             (∀ w, mfind s.ward (wardKey p d c) = some w → mfind t.ward (wardKey new d c) = some { w with log := [] }) ∧ Due t .takeoverRestore)) ∧
       ∃ t, exec .takeoverRestore s = .next t ∧ t.mem = s.mem ∧ t.hw = s.hw ∧ Due t .rollback ∧ (t.dc d c).lost = none ∧
         (t.dc d c).back = some (lastCkpt s d c, s.now d + 1000000, p + 1) ∧
         ∃ z ∈ (t.dc d c).timed, z.kind = 3 ∧ z.t = s.now d + 2000000))

/-- R319, R328, R363 and R365 to R368: what a member does with a message of its span: an acknowledgement is kept, a heartbeat clears the count of those
missing, a stream is taken in as the ward's copy and acknowledged, an image for a standby is kept as its checkpoint, a stage of the quench acts once the
context is resident, and a rollback, a loss, an end or a request for a checkpoint is
carried out. The packet type of these messages is the model's choice; assumption log 16. -/
def Sys2Proof.Claims.MembersFollowTheirSpan : Prop :=
  ∀ (s : State) (p : Pkt), s.peerUp p.src = true →
    let d := p.dsub
    let c := p.ctx
    let key := memberKey p.src p.ssub
    let x := s.dc d c
    (∀ b, p.flux = .beat b → ∃ t, exec (.memberAcknowledgement p) s = .next t ∧ t.mem = s.mem ∧ t.hw = s.hw ∧
      (mkeysFrom none x.misses = true → mget 0 (t.dc d c).misses key = 0) ∧ (mkeysFrom none x.buddies = true → mfind (t.dc d c).buddies key = some b)) ∧
    (p.flux = .struck → exec (.memberAcknowledgement p) s = .next (s.strike d c)) ∧
    (∀ kind lost, p.flux = .ended kind lost → exec (.memberAcknowledgement p) s = .next (s.endSpan d c kind lost)) ∧
    (∀ num t0 lost, p.flux = .back num t0 lost → ∃ t, exec (.memberAcknowledgement p) s = .next t ∧ t.mem = s.mem ∧
      (t.dc d c).back = some (num, t0, lost) ∧ Due t .rollback) ∧
    (∀ num t0, p.flux = .stream num t0 → ∃ (u : State) (q : Pkt) (w : Ward), exec (.memberAcknowledgement p) s = .next (u.send q) ∧ u.mem = s.mem ∧
      q.flux = .ack 12 t0 ∧ q.dst = p.src ∧ q.dsub = p.ssub ∧ mfind u.ward (wardKey p.src p.ssub c) = some w ∧ w.num = num ∧ w.log = [] ∧
      w.image = p.data ∧ w.t = t0 ∧
      (∀ va k bs g, (s.wardOf (wardKey p.src p.ssub c)).log = [(va, k, bs, g)] → (∀ y, g = some y → mfind w.tags (va / 64) = some y) ∧ ∀ a,
        mfind w.copy a = if va ≤ a ∧ a < va + bs.length then bs[a - va]? else mfind (s.wardOf (wardKey p.src p.ssub c)).copy a)) ∧
    (∀ num t0, p.flux = .image num t0 → exec (.memberAcknowledgement p) s = .next { s with
      ckpts := mins s.ckpts (d * 16 + c) (((ckptOf p.data).take 1).map fun k => { k with num := num, t := t0, full := true }) }) ∧
    (∀ stage ent, p.flux = .quench stage ent →
      (s.resident d = some c → exec (.memberAcknowledgement p) s = .next (s.quenchHere d c (key + 1) ent stage)) ∧
      (s.resident d ≠ some c → mfind s.images (d * 16 + c) ≠ none →
        exec (.memberAcknowledgement p) s = .next (s.sched 1 (.memberAcknowledgement p)))) ∧
    (p.flux = .restore → ∃ (t : State) (w : Ward), exec (.memberAcknowledgement p) s = .next t ∧ t.mem = s.mem ∧
      mfind t.ward (wardKey p.src p.ssub c) = some w ∧ w.log = [] ∧ w.copy = (s.wardOf (wardKey p.src p.ssub c)).copy) ∧
    (∀ t0 e, p.flux = .ack 11 t0 → s.findTimed d c 3 t0 = some e → exec (.memberAcknowledgement p) s = .next (s.sched 0 (.checkpointComplete d c e.num))) ∧
    (∀ t0, p.flux = .ack 11 t0 → s.findTimed d c 3 t0 = none → exec (.memberAcknowledgement p) s = .next s) ∧
    (∀ kind t0 e, 1 ≤ kind → kind ≤ 4 → p.flux = .ack kind t0 → s.findTimed d c kind t0 = some e →
      ∃ t, exec (.memberAcknowledgement p) s = .next t ∧ ∃ e' ∈ (t.dc d c).timed, e'.kind = kind ∧ e'.t = t0 ∧ e'.num = e.num ∧ key ∈ e'.acks) ∧
    (p.flux = .askCkpt → (∀ e ∈ x.timed, e.kind = 3 → e.done = true) → ∃ t, exec (.memberAcknowledgement p) s = .next t ∧ t.mem = s.mem ∧
      ∃ z ∈ (t.dc d c).timed, z.kind = 3 ∧ z.t = s.now d + 1000000) ∧
    (p.flux = .askCkpt → (∃ e ∈ x.timed, e.kind = 3 ∧ e.done = false) → exec (.memberAcknowledgement p) s = .next s)

/-- R78, R328, R363 and R365 to R369: heartbeats, losses and errors, and what a member does with a message of its span. Model's
choices it rests on: assumption log 16. -/
def Obligations.SpansLossesAndMessages : Prop :=
  Sys2Proof.Claims.HeartbeatsLossesAndErrors ∧
  Sys2Proof.Claims.MembersFollowTheirSpan

/-! Bring-up, power and reset (R308, R371, R378 to R383). -/

/-- R371 and R379: the machine right after reset: nothing runs, scratchpads and their tags are zero, device memory holds nothing,
no queue is enabled, no port or link is up, and power-on is the next event. Model's choices it rests on: assumption log 3, 4, 12.
-/
def Obligations.ResetLeavesNothingRunning : Prop :=
  (∀ h, (State.reset.ctx h).st = .free ∧ (State.reset.ctx h).task = none ∧ (State.reset.ctx h).ccy = 0 ∧ (State.reset.ctx h).scy = 0) ∧
  (∀ a, State.reset.mem.byte (.sp a) = some 0 ∧ State.reset.mem.tag (.sp a) = some 0) ∧ (∀ a k, State.reset.mem.byte (.hbm a k) = none) ∧
  (∀ q, (State.reset.queue q).en = false ∧ (State.reset.queue q).ents = []) ∧ (∀ d c, (State.reset.dc d c).live = false) ∧
  (∀ p, (State.reset.port p).up = false) ∧ (∀ k, (State.reset.link k).up = false) ∧ State.reset.agenda = [(0, .powerOnReset)] ∧
  ∃ t, step State.reset = .next t ∧ t.mem = State.reset.mem

/-- R308, R371, R378, R379 and R381 to R383: power-on verifies the image and brings the device up, or leaves it in the recovery
state; at the end of bring-up it is in service with context 0 of every device, whose fault area and time log are zeroed, or a step
has failed. The duty falls by one while power or a junction is above its limit and rises by one otherwise; a junction at 115 °C
trips, which stops issue and heartbeats. Model's choices it rests on: assumption log 12, 58, 60. -/
def Obligations.BringUpAndThrottling : Prop :=
  ∀ (s : State),
    let m := s.mgt
    let late := (m.state = 1 ∨ m.state = 4) ∧ m.due = s.clk.wall
    (¬ late → ∃ t, exec .powerOnReset s = .next t ∧ t.mem = State.reset.mem ∧ t.hw = [] ∧ t.dctx = [] ∧ t.bel = State.reset.bel ∧ t.links = [] ∧
      t.mgt.fuse = m.fuse ∧ t.mgt.image = m.image ∧
      ((m.image.sigOk = true ∧ m.image.digest = m.fuse ∧ m.roll.toNat ≤ m.image.sv.toNat) →
        t.mgt.state = 1 ∧ t.mgt.fwsv = m.image.sv ∧ t.mgt.roll.toNat = max m.roll.toNat m.image.sv.toNat ∧ (∃ k, t.keys = [(0, k)]) ∧
        Due t (.pcieLinkTraining 0) ∧ Due t (.pcieLinkTraining 1) ∧ (∀ k < 36, Due t (.linkTraining k)) ∧
        ∃ n, (n, .powerOnReset) ∈ t.agenda ∧ n = t.mgt.due ∧ s.clk.wall < n ∧ n < s.clk.wall + 18755000100) ∧
      (¬ (m.image.sigOk = true ∧ m.image.digest = m.fuse ∧ m.roll.toNat ≤ m.image.sv.toNat) →
        t.mgt.state = 2 ∧ t.mgt.roll = m.roll ∧ Due t (.pcieLinkTraining 0) ∧ t.keys = [])) ∧
    (late → ∃ t, exec .powerOnReset s = .next t ∧
      ((t.mgt.state = 3 ∧ t.mgt.beats = true ∧ Due t .throttleTick ∧ Due t (.scrub 0) ∧
          t.net.fpeer = m.peer % 2048 ∧ (mkeysFrom none m.peers = true → ∀ n, mget 0 t.net.peers n = if n < 1058 then mget 0 m.peers n % 4 else 0) ∧
          (mkeysFrom none m.route = true → ∀ n < 4096, mget 0 t.net.route n = mget 0 m.route n &&& ~~~0xFFE) ∧
          (∀ d ∈ s.devices, ∀ a < 0x30000, t.mem.byte (s.hbmPlace d a 0) = some 0 ∧ t.mem.tag (s.hbmPlace d a 0) = some 0) ∧
          (s.mem.wf = true → ∀ p, (∀ d ∈ s.devices, ∀ a < 0x30000, ∀ k, p ≠ .hbm (s.hbmAddr d a) k) →
            t.mem.byte p = s.mem.byte p ∧ t.mem.tag p = s.mem.tag p) ∧
          (mkeysFrom none s.res = true → ∀ d ∈ s.devices, (t.dc d 0).live = true ∧ (t.dc d 0).key = 0 ∧ (t.dc d 0).psplit = 65536 ∧
            (t.dc d 0).coord = t.net.fpeer ∧ (t.dc d 0).buddy = t.net.fpeer ∧ (t.dc d 0).fq = 0 ∧ (t.dc d 0).tlog = 0x20000 ∧
            t.resident d = some 0)) ∨
        (t.mgt.state = 4 ∧ t.mgt.err = true ∧ t.mem = s.mem ∧ t.hw = s.hw ∧ (m.retry = false → t.mgt.retry = true ∧ Due t .powerOnReset)))) ∧
    (∃ t, exec .throttleTick s = .next t ∧ t.mem = s.mem ∧ t.hw = s.hw ∧ (s.clk.wall + 1100000, .throttleTick) ∈ t.agenda ∧
      (let hot (n : Nat) : Prop := ∃ k < 8, n < t.mgt.temp.toNat / 256 ^ k % 256
       ((m.wlim < t.mgt.pwr ∨ hot m.tlim) → t.mgt.duty = max 2 (m.duty - 1)) ∧
       (¬ (m.wlim < t.mgt.pwr ∨ hot m.tlim) → t.mgt.duty = min 16 (m.duty + 1)) ∧ (hot 114 → Due t .thermalTrip))) ∧
    exec .thermalTrip s = .next { s with mgt := { m with trip := true, beats := false } } ∧
    (∀ v, exec (.coolantFlowChange v) s = .next { s with mgt := { m with flow := v } })

/-! Debug commands, attestation and owner keys (R371 to R376, R379, R380). -/

/-- The debug commands and their codes in DBGCTL (R375). -/
def Sys2Proof.Claims.debugCommands : List (Nat × Instr) :=
  [(1, .dbgStop), (2, .dbgStep), (3, .dbgRun), (4, .dbgRead), (5, .dbgBpset), (6, .dbgChk)]

/-- R154, R162, R375 and R376: a debug command acts on the contexts of its scope that hold a task of the device context it names,
and on nothing else; without context 0 or a debug grant it is refused; READ, BPSET and CHK need every target stopped and drained.
A stop is reported once the latches of every target have their results; a release gives a context that held the issue stage the
stage, or the first place before it. Model's choices it rests on: assumption log 65, 66. -/
def Obligations.DebugCommandsActOnTheirTargets : Prop :=
  ∀ (s : State), mkeysFrom none s.hw = true →
    let w := s.mgt.dbgctl
    let ts := s.dbgTargets
    let h0 := dbgCtx w
    let cmd (n : Nat) : Prop := fld w 63 56 = n ∧ s.dbgGranted = true
    let others (t : State) : Prop := ∀ h, h ∉ ts → t.ctx h = s.ctx h
    let released (t : State) (h : Nat) (step : Bool) : Prop :=
      let c := { s.ctx h with dbg := { (s.ctx h).dbg with stop := false, step := step, due := 0 } }
      (c.st ≠ .issue ∧ t.ctx h = c) ∨
        (c.st = .issue ∧ (t.core (coreOf h)).holder = some (h % 4) ∧ t.ctx h = { c with dbg := { c.dbg with held := false } }) ∨
        (c.st = .issue ∧ (t.core (coreOf h)).holder.isSome = true ∧ t.ctx h = { c with st := .ready })
    let stopped : Prop := ts ≠ [] ∧ ∀ h ∈ ts, (s.ctx h).dbg.stop = true ∧ (s.ctx h).dbg.due = 0
    (∀ h ∈ ts, (∃ t, (s.ctx h).task = some t ∧ t.dctx = fld w 55 52) ∧ (fld w 36 35 = 0 → h = h0) ∧ (fld w 36 35 = 1 → coreOf h = coreOf h0) ∧
      (2 ≤ fld w 36 35 → s.devOf h = s.devOf h0)) ∧
    (s.dbgGranted = true ↔ fld w 55 52 = 0 ∨ ∃ k, (s.dc (s.devOf h0) (fld w 55 52)).live = true ∧
      mfind s.keys (s.dc (s.devOf h0) (fld w 55 52)).key = some k ∧ k.grant = true) ∧
    (∀ y ∈ debugCommands, fld w 63 56 ≠ y.1 → exec y.2 s = .next s) ∧
    (∀ y ∈ debugCommands, fld w 63 56 = y.1 → s.dbgGranted = false → ∃ t, exec y.2 s = .next t ∧ t.hw = s.hw ∧ t.mem = s.mem ∧
      bitOf t.mgt.dbgst 61 = true) ∧
    (∀ y ∈ [(4, Instr.dbgRead), (5, .dbgBpset), (6, .dbgChk)], cmd y.1 → ¬ stopped → ∃ t, exec y.2 s = .next t ∧ t.hw = s.hw ∧ t.mem = s.mem ∧
      bitOf t.mgt.dbgst 61 = true) ∧
    (cmd 1 → ∃ t, exec .dbgStop s = .next t ∧ others t ∧ (bitOf t.mgt.dbgst 62 = true ↔ ts ≠ [] ∧ ∀ h ∈ ts, (t.ctx h).dbg.due = 0) ∧
      (bitOf t.mgt.dbgst 63 = true ↔ ∃ h ∈ ts, (t.ctx h).dbg.due ≠ 0) ∧
      ∀ h ∈ ts, let c := s.ctx h; t.ctx h = if c.dbg.stop = true then c else
        { c with dbg := { c.dbg with stop := true, step := false, past := true, held := c.dbg.held || c.st == .issue,
                                     due := if c.latched = true then 0 else 62 } }) ∧
    (cmd 2 → ∃ t, exec .dbgStep s = .next t ∧ others t ∧ t.mem = s.mem ∧ ∀ h ∈ ts,
      ((s.ctx h).dbg.stop = true → (s.ctx h).st ≠ .blocked → released t h true) ∧
      (((s.ctx h).dbg.stop = false ∨ (s.ctx h).st = .blocked) → t.ctx h = s.ctx h)) ∧
    (cmd 3 → ∃ t, exec .dbgRun s = .next t ∧ others t ∧ t.mem = s.mem ∧ ∀ h ∈ ts,
      ((s.ctx h).dbg.stop = true → released t h false) ∧
      ((s.ctx h).dbg.stop = false → t.ctx h = { s.ctx h with dbg := { (s.ctx h).dbg with stop := false, step := false, due := 0 } })) ∧
    (cmd 4 → stopped → ∃ t, exec .dbgRead s = .next t ∧ t.hw = s.hw ∧ t.mem = s.mem ∧
      (∀ n : BitVec 5, fld w 34 32 = 0 → fld w 31 0 = n.toNat → t.mgt.dbgdata = (s.ctx h0).g n) ∧
      (fld w 34 32 = 3 → t.mgt.dbgdata = (s.sreg h0 (fld w 31 0)).getD 0)) ∧
    (cmd 5 → stopped → ∃ t, exec .dbgBpset s = .next t ∧ others t ∧ t.mem = s.mem ∧ ∀ h ∈ ts, mkeysFrom none (s.ctx h).dbg.bp = true →
      t.ctx h = { s.ctx h with dbg := { (s.ctx h).dbg with bp := (t.ctx h).dbg.bp } } ∧ ∀ n, mget 0 (t.ctx h).dbg.bp n = if n = fld w 33 32 then w &&& 0xFFFFFFFD else mget 0 (s.ctx h).dbg.bp n) ∧
    (cmd 6 → stopped → ∃ t, exec .dbgChk s = .next t ∧ others t ∧ t.mem = s.mem ∧ ∀ h ∈ ts,
      t.ctx h = { s.ctx h with sys := { (s.ctx h).sys with chk := BitVec.ofNat 64 (fld w 1 0) } })

/-- The requests by their codes, with how far the negotiation must have gone (R372, R373); the codes are those of SPDM 1.3 and the model's own,
assumption log 21. -/
def Sys2Proof.Claims.requests : List (Instr × Nat × Nat) :=
  [(.getVersion, 0x84, 0), (.getCapabilities, 0xE1, 1), (.negotiateAlgorithms, 0xE3, 2), (.getDigests, 0x81, 3), (.getCertificate, 0x82, 3),
   (.challenge, 0x83, 3), (.getMeasurements, 0xE0, 3), (.keyExchange, 0xE4, 3), (.finish, 0xE5, 3), (.spdmHeartbeat, 0xE8, 3),
   (.keyUpdate, 0xE9, 3), (.endSession, 0xEC, 3), (.keygen, 0xFE01, 3), (.keygrant, 0xFE02, 3), (.keyzero, 0xFE03, 3), (.keysend, 0xFE04, 0),
   (.fwload, 0xFE05, 3)]

/-- A request is at the head of the inbox of a bus that is served, with its fields and what stands behind it, and no other bus asks. -/
def Sys2Proof.Claims.AsksAny (s : State) (b code : Nat) (a : List Nat) (rest : List (Nat × List Nat)) : Prop :=
  b < 3 ∧ s.busOn b = true ∧ (s.bus b).inbox = (code, a) :: rest ∧ ∀ j < 3, j ≠ b → s.busOn j = true → (s.bus j).inbox = []

/-- The codes the responder knows: in the recovery state those of the boot ROM (R372, R373, R380). -/
def Sys2Proof.Claims.Known (s : State) (code : Nat) : Prop :=
  if s.mgt.state = 2 then code ∈ [0x81, 0x82, 0x83, 0x84, 0xE0, 0xE1, 0xE3, 0xE4, 0xE5, 0xEC, 0xFE05]
  else code ∈ [0x81, 0x82, 0x83, 0x84, 0xE0, 0xE1, 0xE3, 0xE4, 0xE5, 0xE8, 0xE9, 0xEC, 0xFE01, 0xFE02, 0xFE03, 0xFE04]

def Sys2Proof.Claims.Asks (s : State) (b code : Nat) (a : List Nat) (rest : List (Nat × List Nat)) : Prop :=
  AsksAny s b code a rest ∧ Known s code

/-- An event leaves the responder of a bus so, answers with a code and its fields, and touches neither storage nor any context. -/
def Sys2Proof.Claims.Answers (e : Instr) (s : State) (b : Nat) (x : Spdm) (code : Nat) (l : List Nat) (t : State) : Prop :=
  exec e s = .next t ∧ t.mem = s.mem ∧ t.hw = s.hw ∧ t.bus b = x ∧ t.outs = s.outs ++ [.spdm b code l]

/-- R372, R373, R379 and R380: the responder answers each request in its turn, once the negotiation has gone as far as the request
needs; a request it does not know is answered with an error, and one that comes too early too. Owner keys are made, granted,
zeroed and sent only inside a session; an image is taken in the recovery state alone, where it verifies, and the device resets.
Model's choices it rests on: assumption log 12, 21. -/
def Obligations.RequestsAreAnswered : Prop :=
  ∀ (s : State) (b : Nat) (a : List Nat) (rest : List (Nat × List Nat)),
    let x := { s.bus b with inbox := rest }
    let k := a.headD 0
    let v := a.getD 1 0
    let slot : Prop := k = 0 ∨ (k = 1 ∧ s.mgt.state ≠ 2)
    let inside : Prop := x.sess = 2 ∧ k ≠ 0
    let reply (e : Instr) (y : Spdm) (code : Nat) (l : List Nat) : Prop := ∃ t, Answers e s b y code l t ∧ t.keys = s.keys
    ((∀ j < 3, s.busOn j = true → (s.bus j).inbox = []) → ∀ y ∈ requests, ∃ t, exec y.1 s = .next t ∧ t.outs = s.outs ∧ t.mem = s.mem ∧ t.hw = s.hw) ∧
    (∀ code, AsksAny s b code a [] → ¬ Known s code → ∀ y ∈ requests, ∃ t, Answers y.1 s b { s.bus b with inbox := [] } 0x7F [7] t) ∧
    (∀ y ∈ requests, Asks s b y.2.1 a rest → x.stage < y.2.2 → reply y.1 x 0x7F [4]) ∧
    (Asks s b 0x84 a rest → reply .getVersion { x with stage := 1, sess := 0 } 0x04 [0x1300]) ∧
    (Asks s b 0xE1 a rest → 1 ≤ x.stage → ∃ n < 2 ^ 32, reply .getCapabilities { x with stage := max 2 x.stage } 0x61 [n]) ∧
    (Asks s b 0xE3 a rest → 2 ≤ x.stage →
      let pick (i m : Nat) : Nat := if a.getD i 0 / m % 2 = 1 then m else 0
      reply .negotiateAlgorithms { x with stage := max 3 x.stage } 0x63 [pick 0 64, pick 1 4, pick 2 16, pick 3 2]) ∧
    (3 ≤ x.stage →
      (Asks s b 0x81 a rest → ∃ n m, reply .getDigests x 0x01 (if s.mgt.state = 2 then [1, n] else [3, n, m])) ∧
      (Asks s b 0x82 a rest → (slot → ∃ n, reply .getCertificate x 0x02 [k, n]) ∧ (¬ slot → reply .getCertificate x 0x7F [1])) ∧
      (Asks s b 0x83 a rest → (slot → ∃ n, reply .challenge x 0x03 [k, if s.mgt.state = 2 then 0 else 1, n]) ∧
        (¬ slot → reply .challenge x 0x7F [1])) ∧
      (Asks s b 0xE0 a rest → (k = 0 → reply .getMeasurements x 0x60 [4]) ∧
        (1 ≤ k → k ≤ 4 → ∃ l, reply .getMeasurements x 0x60 (k :: l) ∧ (k = 4 → l.getLast? = some s.mgt.roll.toNat)) ∧
        (k = 255 → ∃ l, reply .getMeasurements x 0x60 (1 :: l)) ∧ (4 < k → k ≠ 255 → reply .getMeasurements x 0x7F [1])) ∧
      (Asks s b 0xE4 a rest → reply .keyExchange { x with sess := 1, num := s.clk.tick, upd := 0 } 0x64 [s.clk.tick]) ∧
      (Asks s b 0xE5 a rest → (x.sess = 1 → reply .finish { x with sess := 2 } 0x65 []) ∧ (x.sess ≠ 1 → reply .finish x 0x7F [4])) ∧
      (Asks s b 0xE8 a rest → reply .spdmHeartbeat x (if x.sess = 2 then 0x68 else 0x7F) (if x.sess = 2 then [] else [4])) ∧
      (Asks s b 0xE9 a rest → (x.sess = 2 → reply .keyUpdate { x with upd := x.upd + 1 } 0x69 [x.upd + 1]) ∧
        (x.sess ≠ 2 → reply .keyUpdate x 0x7F [4])) ∧
      (Asks s b 0xEC a rest → (x.sess = 2 → reply .endSession { x with sess := 0 } 0x6C []) ∧ (x.sess ≠ 2 → reply .endSession x 0x7F [4])) ∧
      (∀ y ∈ [(Instr.keygen, 0xFE01), (.keygrant, 0xFE02), (.keyzero, 0xFE03), (.fwload, 0xFE05)], Asks s b y.2 a rest → ¬ inside →
        reply y.1 x 0x7F [4]) ∧
      (Asks s b 0xFE01 a rest → inside →
        (1 ≤ v → v ≤ 255 → mfind s.keys v = none → ∃ t, Answers .keygen s b x 0x7E [0] t ∧
          mfind t.keys v = some { key := 2 * s.clk.tick, grant := false, maker := some x.num } ∧ ∀ j, j ≠ v → mfind t.keys j = mfind s.keys j) ∧
        ((v = 0 ∨ 255 < v ∨ mfind s.keys v ≠ none) → reply .keygen x 0x7E [1])) ∧
      (Asks s b 0xFE02 a rest → inside →
        (∀ y, mfind s.keys v = some y → y.maker = some x.num → ∃ t, Answers .keygrant s b x 0x7E [0] t ∧
          mfind t.keys v = some { y with grant := a.getD 2 0 % 2 == 1 } ∧ ∀ j, j ≠ v → mfind t.keys j = mfind s.keys j) ∧
        ((∀ y, mfind s.keys v = some y → y.maker ≠ some x.num) → reply .keygrant x 0x7E [1])) ∧
      (Asks s b 0xFE03 a rest → inside →
        ((∃ y ∈ s.dctx, y.2.live = true ∧ y.2.key = v) → reply .keyzero x 0x7E [1]) ∧
        ((∀ y ∈ s.dctx, y.2.live = true → y.2.key ≠ v) → mkeysFrom none s.keys = true → ∃ t, Answers .keyzero s b x 0x7E [0] t ∧
          ∀ j, mfind t.keys j = if j = v then none else mfind s.keys j)) ∧
      (Asks s b 0xFE05 a rest → inside →
        let i : FwImage := { digest := v, sigOk := a.getD 2 0 == 1, sv := BitVec.ofNat 64 (a.getD 3 0) }
        let good : Prop := i.sigOk = true ∧ i.digest = s.mgt.fuse ∧ s.mgt.roll.toNat ≤ i.sv.toNat
        (good → ∃ t, Answers .fwload s b x 0x7E [0] t ∧ t.mgt.image = i ∧ Due t .powerOnReset) ∧ (¬ good → reply .fwload x 0x7E [1]))) ∧
    (Asks s b 0xFE04 a rest →
      (k = 2 → 1 ≤ v → v ≤ 255 → ∃ t, exec .keysend s = .next t ∧ t.mem = s.mem ∧ t.hw = s.hw ∧ t.bus b = x ∧ t.outs = s.outs ∧
        mfind t.keys v = some { key := 2 * a.getD 2 0 + 1, grant := a.getD 3 0 % 2 == 1, maker := none }) ∧
      (k ≠ 2 → ¬ inside → reply .keysend x 0x7F [4]) ∧
      (k ≠ 2 → inside → ∀ y, mfind s.keys v = some y →
        (s.mayHave v (a.getD 2 0) = true → ∃ t, exec .keysend s = .next t ∧ t.keys = s.keys ∧ t.bus b = x ∧
          t.outs = s.outs ++ [.key v (a.getD 2 0) y.grant, .spdm b 0x7E [0]]) ∧
        (s.mayHave v (a.getD 2 0) = false → reply .keysend x 0x7E [1])) ∧
      (k ≠ 2 → inside → mfind s.keys v = none → reply .keysend x 0x7E [1]))
end

