-- ==== Sys2Proof/Laws/Encode.lean ====
section
/-! SUPPORT. Laws of encodings: the fields of joined bits, and every operand code, path and slot word read as it was written. -/

namespace Sys2Proof

theorem extract_append_hi {m n : Nat} (x : BitVec m) (y : BitVec n) (k w : Nat) (h : n ≤ k) :
    @BitVec.extractLsb' (no_index (m + n)) k w (@HAppend.hAppend (BitVec m) (BitVec n) (no_index (BitVec (m + n))) _ x y) = x.extractLsb' (k - n) w := by
  apply BitVec.eq_of_getLsbD_eq; intro i hi
  simp only [BitVec.getLsbD_extractLsb', BitVec.getLsbD_append, show ¬ (k + i < n) by omega, if_false,
    show k + i - n = k - n + i by omega]
theorem extract_append_lo {m n : Nat} (x : BitVec m) (y : BitVec n) (k w : Nat) (h : k + w ≤ n) :
    @BitVec.extractLsb' (no_index (m + n)) k w (@HAppend.hAppend (BitVec m) (BitVec n) (no_index (BitVec (m + n))) _ x y) = y.extractLsb' k w := by
  apply BitVec.eq_of_getLsbD_eq; intro i hi
  simp only [BitVec.getLsbD_extractLsb', BitVec.getLsbD_append, show (k + i < n) by omega, if_true]
theorem getLsbD_append_lo {m n : Nat} (x : BitVec m) (y : BitVec n) (k : Nat) (h : k < n) :
    @BitVec.getLsbD (no_index (m + n)) (@HAppend.hAppend (BitVec m) (BitVec n) (no_index (BitVec (m + n))) _ x y) k = y.getLsbD k := by
  simp only [BitVec.getLsbD_append, h, if_true]
theorem getLsbD_append_hi {m n : Nat} (x : BitVec m) (y : BitVec n) (k : Nat) (h : n ≤ k) :
    @BitVec.getLsbD (no_index (m + n)) (@HAppend.hAppend (BitVec m) (BitVec n) (no_index (BitVec (m + n))) _ x y) k = x.getLsbD (k - n) := by
  simp only [BitVec.getLsbD_append, show ¬ k < n by omega, if_false]
theorem extract_all {n : Nat} (x : BitVec n) : x.extractLsb' 0 n = x := by
  apply BitVec.eq_of_getLsbD_eq; intro i hi
  simp [BitVec.getLsbD_extractLsb', hi]

theorem Raw.ofWord_word (r : Raw) : Raw.ofWord r.word = r := by
  obtain ⟨op, p, n, var, a, b, c, lo⟩ := r
  simp (disch := decide) only [Raw.ofWord, Raw.word, extract_append_hi, extract_append_lo, extract_all,
    Nat.sub_self, Nat.reduceAdd, Nat.reduceSub]
theorem Opnd.ofCode_code (o : Opnd) : Opnd.ofCode o.code = some o := by
  cases o <;> (try rename_i n; revert n) <;> decide

theorem roleOf_code {ro : Role} {o : Opnd} {k : Nat} (h : o.has ro = true) : roleOf ro o.code k = .ok o := by
  simp [roleOf, Opnd.ofCode_code, h]
theorem viewOf_code (n : BitVec 5) (k : Nat) : viewOf (1#3 ++ n) k = .ok n := by
  have := Opnd.ofCode_code (.w n); simp only [Opnd.code] at this; simp [viewOf, this]
theorem gregOf_code (n : BitVec 5) (k : Nat) : gregOf (0#3 ++ n) k = .ok n := by
  have := Opnd.ofCode_code (.g n); simp only [Opnd.code] at this; simp [gregOf, this]
theorem Raw.path_mk (q : Path) (h : q.wf = true) (op : BitVec 8) (p : BitVec 4) (n : BitVec 1) (var : BitVec 3) (a : BitVec 8) :
    Raw.path { op := op, p := p, n := n, var := var, a := a, b := q.c0.code, c := q.c1.code, lo := q.lo } = .ok q := by
  simp only [Path.wf, Bool.and_eq_true] at h
  obtain ⟨bx, c0, c1, c2, c3, msel⟩ := q
  simp (disch := decide) only [Raw.path, Path.lo, extract_append_hi, extract_append_lo, extract_all, Nat.sub_self, Nat.reduceAdd, Nat.reduceSub]
  simp [roleOf_code h.1.1.1, roleOf_code h.1.1.2, roleOf_code h.1.2, roleOf_code h.2, bind, Except.bind, pure, Except.pure]

theorem toNat_pad2 (x : BitVec 2) : (0#1 ++ x).toNat < 4 := by revert x; decide
theorem toNat_pad2_eq (x : BitVec 2) : (0#1 ++ x).toNat = x.toNat := by revert x; decide
theorem toNat_pad5_lt (x : BitVec 3) : (0#5 ++ x).toNat < 8 := by revert x; decide
theorem toNat_pad11 (x y : BitVec 1) : (0#1 ++ x ++ y).toNat < 4 := by revert x y; decide
theorem toNat_pad1 (x : BitVec 1) : (0#2 ++ x).toNat < 2 := by revert x; decide
theorem toNat_pad1_le (x : BitVec 1) : (0#2 ++ x).toNat ≤ 1 := by revert x; decide

end Sys2Proof
end

