-- ==== Sys2Proof/Laws/Map.lean ====
section
/-! SUPPORT. Laws of the sparse maps: an entry reads back as it was written, the others stay, and the canonical form is
kept by every operation. -/

namespace Sys2Proof.Machine

/-! Maps whose unlisted keys hold nothing. -/

@[simp] theorem mfind_nil {α : Type} (k : Nat) : mfind ([] : SMap α) k = none := rfl

@[simp] theorem mfind_mins {α : Type} (m : SMap α) (k j : Nat) (v : α) :
    mfind (mins m k v) j = if j = k then some v else mfind m j := by
  induction m with
  | nil =>
    by_cases h : j = k
    · subst h; simp [mins, mfind]
    · simp [mins, mfind, h, Ne.symm h]
  | cons x m ih =>
    obtain ⟨a, w⟩ := x
    simp only [mins]
    split
    · by_cases h : j = k
      · subst h; simp [mfind]
      · simp only [mfind, h, if_false, if_neg (Ne.symm h)]
        split
        · rename_i h1; simp [show a ≠ j by omega, show j < a by omega]
        · rfl
    · split
      · rename_i h1; subst h1
        by_cases h : j = k
        · subst h; simp [mfind]
        · simp [mfind, h, Ne.symm h]
      · simp only [mfind, ih]
        by_cases h : j = k
        · subst h; simp [show a ≠ j by omega, show ¬ j < a by omega]
        · simp [h]

theorem mfind_mins_self {α : Type} (m : SMap α) (k : Nat) (v : α) : mfind (mins m k v) k = some v := by simp

theorem mfind_mins_of_ne {α : Type} (m : SMap α) {k j : Nat} (v : α) (h : j ≠ k) : mfind (mins m k v) j = mfind m j := by
  simp [h]

/-! The order of keys. -/

/-- Every key of a sorted list is above the bound. -/
theorem mkeysFrom_some {α : Type} (a : Nat) (k : Nat) (v : α) (m : SMap α) :
    mkeysFrom (some a) ((k, v) :: m) = (decide (a < k) && mkeysFrom (some k) m) := rfl

theorem mkeysFrom_weaken {α : Type} {a b : Nat} (hab : b ≤ a) : ∀ (m : SMap α), mkeysFrom (some a) m = true →
    mkeysFrom (some b) m = true
  | [], _ => rfl
  | (k, v) :: m, h => by
    simp only [mkeysFrom_some, Bool.and_eq_true, decide_eq_true_eq] at h ⊢
    exact ⟨by omega, h.2⟩

theorem mkeysFrom_mins_some {α : Type} (v : α) (k : Nat) : ∀ (m : SMap α) (a : Nat), a < k → mkeysFrom (some a) m = true →
    mkeysFrom (some a) (mins m k v) = true
  | [], a, h, _ => by simp [mins, mkeysFrom, h]
  | (j, w) :: m, a, h, hm => by
    simp only [mkeysFrom_some, Bool.and_eq_true, decide_eq_true_eq] at hm
    simp only [mins]
    split
    · simp [mkeysFrom_some, *]
    · split
      · rename_i h1; subst h1; simp [mkeysFrom_some, *]
      · simp only [mkeysFrom_some, Bool.and_eq_true, decide_eq_true_eq]
        exact ⟨hm.1, mkeysFrom_mins_some v k m j (by omega) hm.2⟩

theorem mkeys_mins {α : Type} (m : SMap α) (k : Nat) (v : α) (hm : mkeysFrom none m = true) :
    mkeysFrom none (mins m k v) = true := by
  cases m with
  | nil => rfl
  | cons x m =>
    obtain ⟨j, w⟩ := x
    simp only [mkeysFrom, Bool.true_and] at hm
    simp only [mins]
    split
    · simp [mkeysFrom, hm, *]
    · split
      · rename_i h1; subst h1; simpa [mkeysFrom] using hm
      · simp only [mkeysFrom, Bool.true_and]
        exact mkeysFrom_mins_some v k m j (by omega) hm

theorem mkeys_minss {α : Type} : ∀ (vs : List α) (m : SMap α) (k : Nat), mkeysFrom none m = true →
    mkeysFrom none (minss m k vs) = true
  | [], _, _, h => h
  | v :: vs, m, k, h => mkeys_minss vs _ _ (mkeys_mins m k v h)

theorem mkeysFrom_mdel_some {α : Type} (k : Nat) : ∀ (m : SMap α) (a : Nat), mkeysFrom (some a) m = true →
    mkeysFrom (some a) (mdel m k) = true
  | [], _, _ => rfl
  | (j, w) :: m, a, hm => by
    have hm' := hm
    simp only [mkeysFrom_some, Bool.and_eq_true, decide_eq_true_eq] at hm
    simp only [mdel]
    split
    · exact hm'
    · split
      · exact mkeysFrom_weaken (by omega) m hm.2
      · simp only [mkeysFrom_some, Bool.and_eq_true, decide_eq_true_eq]
        exact ⟨hm.1, mkeysFrom_mdel_some k m j hm.2⟩

theorem mkeysFrom_filter {α : Type} (p : Nat × α → Bool) : ∀ (m : SMap α) (a : Nat), mkeysFrom (some a) m = true →
    mkeysFrom (some a) (m.filter p) = true
  | [], _, _ => rfl
  | (k, v) :: m, a, h => by
    simp only [mkeysFrom_some, Bool.and_eq_true, decide_eq_true_eq] at h
    rw [List.filter_cons]
    split
    · simp [mkeysFrom_some, h.1, mkeysFrom_filter p m k h.2]
    · exact mkeysFrom_weaken (Nat.le_of_lt h.1) _ (mkeysFrom_filter p m k h.2)

theorem mkeys_of_some {α : Type} {a : Nat} : ∀ (m : SMap α), mkeysFrom (some a) m = true → mkeysFrom none m = true
  | [], _ => rfl
  | (k, v) :: m, h => by
    simp only [mkeysFrom_some, Bool.and_eq_true] at h
    simp [mkeysFrom, h.2]

theorem mkeys_filter {α : Type} (p : Nat × α → Bool) : ∀ (m : SMap α), mkeysFrom none m = true → mkeysFrom none (m.filter p) = true
  | [], _ => rfl
  | (k, v) :: m, h => by
    simp only [mkeysFrom, Bool.true_and] at h
    rw [List.filter_cons]
    split
    · simp [mkeysFrom, mkeysFrom_filter p m k h]
    · exact mkeys_of_some _ (mkeysFrom_filter p m k h)

theorem mkeys_mdel {α : Type} (m : SMap α) (k : Nat) (hm : mkeysFrom none m = true) : mkeysFrom none (mdel m k) = true := by
  cases m with
  | nil => rfl
  | cons x m =>
    obtain ⟨j, w⟩ := x
    have hm' := hm
    simp only [mkeysFrom, Bool.true_and] at hm
    simp only [mdel]
    split
    · exact hm'
    · split
      · exact mkeys_of_some m hm
      · simp only [mkeysFrom, Bool.true_and]
        exact mkeysFrom_mdel_some k m j hm

theorem mfind_below {α : Type} (k : Nat) : ∀ (m : SMap α) (a : Nat), k ≤ a → mkeysFrom (some a) m = true → mfind m k = none
  | [], _, _, _ => rfl
  | (j, w) :: m, a, h, hm => by
    simp only [mkeysFrom_some, Bool.and_eq_true, decide_eq_true_eq] at hm
    simp [mfind, show j ≠ k by omega, show k < j by omega]

theorem mfind_mdel {α : Type} (m : SMap α) (k j : Nat) (hm : mkeysFrom none m = true) :
    mfind (mdel m k) j = if j = k then none else mfind m j := by
  induction m with
  | nil => simp [mdel]
  | cons x m ih =>
    obtain ⟨a, w⟩ := x
    simp only [mkeysFrom, Bool.true_and] at hm
    simp only [mdel]
    split
    · by_cases h : j = k
      · subst h; simp [mfind, show a ≠ j by omega, *]
      · simp [h]
    · split
      · rename_i h1; subst h1
        by_cases h : j = k
        · subst h; simp [mfind_below j m j (Nat.le_refl j) hm]
        · simp only [h, if_false, mfind, if_neg (Ne.symm h)]
          split
          · exact mfind_below j m k (by omega) hm
          · rfl
      · simp only [mfind, ih (mkeys_of_some m hm)]
        by_cases h : j = k
        · subst h; simp [show a ≠ j by omega]
        · simp [h]

/-! Maps with a default. -/

@[simp] theorem mget_nil {α : Type} (d : α) (k : Nat) : mget d ([] : SMap α) k = d := rfl

theorem mwfFrom_keys {α : Type} [DecidableEq α] (d : α) : ∀ (m : SMap α) (lo : Option Nat), mwfFrom d lo m = true →
    mkeysFrom lo m = true
  | [], _, _ => rfl
  | (k, v) :: m, lo, h => by
    simp only [mwfFrom, Bool.and_eq_true] at h
    simp only [mkeysFrom, Bool.and_eq_true]
    exact ⟨h.1.1, mwfFrom_keys d m (some k) h.2⟩

theorem mwf_keys {α : Type} [DecidableEq α] {d : α} {m : SMap α} (h : mwf d m = true) : mkeysFrom none m = true :=
  mwfFrom_keys d m none h

theorem mget_below {α : Type} (d : α) (k : Nat) : ∀ (m : SMap α) (a : Nat), k ≤ a → mkeysFrom (some a) m = true → mget d m k = d
  | [], _, _, _ => rfl
  | (j, w) :: m, a, h, hm => by
    simp only [mkeysFrom_some, Bool.and_eq_true, decide_eq_true_eq] at hm
    simp [mget, show j ≠ k by omega, show k < j by omega]

theorem mget_mput {α : Type} [DecidableEq α] (d : α) (m : SMap α) (k j : Nat) (v : α) (hm : mkeysFrom none m = true) :
    mget d (mput d m k v) j = if j = k then v else mget d m j := by
  induction m with
  | nil =>
    simp only [mput]
    split
    · subst_vars; simp
    · by_cases h : j = k
      · subst h; simp [mget]
      · simp [mget, h, Ne.symm h]
  | cons x m ih =>
    obtain ⟨a, w⟩ := x
    simp only [mkeysFrom, Bool.true_and] at hm
    simp only [mput]
    split
    · split
      · subst_vars
        by_cases h : j = k
        · subst h; simp [mget, show a ≠ j by omega, *]
        · simp [h]
      · by_cases h : j = k
        · subst h; simp [mget]
        · simp only [mget, h, if_false, if_neg (Ne.symm h)]
          split
          · simp [show a ≠ j by omega, show j < a by omega]
          · rfl
    · split
      · rename_i h1; subst h1
        split
        · subst_vars
          by_cases h : j = k
          · subst h; simp [mget_below v j m j (Nat.le_refl j) hm]
          · simp only [h, if_false, mget, if_neg (Ne.symm h)]
            split
            · exact mget_below v j m k (by omega) hm
            · rfl
        · by_cases h : j = k
          · subst h; simp [mget]
          · simp [mget, h, Ne.symm h]
      · simp only [mget, ih (mkeys_of_some m hm)]
        by_cases h : j = k
        · subst h; simp [show a ≠ j by omega, show ¬ j < a by omega]
        · simp [h]

theorem mwfFrom_weaken {α : Type} [DecidableEq α] {d : α} {a b : Nat} (hab : b ≤ a) : ∀ (m : SMap α),
    mwfFrom d (some a) m = true → mwfFrom d (some b) m = true
  | [], _ => rfl
  | (k, v) :: m, h => by
    simp only [mwfFrom, Bool.and_eq_true, decide_eq_true_eq] at h ⊢
    exact ⟨⟨by omega, h.1.2⟩, h.2⟩

theorem mwf_of_some {α : Type} [DecidableEq α] {d : α} {a : Nat} : ∀ (m : SMap α), mwfFrom d (some a) m = true → mwf d m = true
  | [], _ => rfl
  | (k, v) :: m, h => by
    simp only [mwfFrom, Bool.and_eq_true] at h
    simp only [mwf, mwfFrom, Bool.true_and, Bool.and_eq_true]
    exact ⟨h.1.2, h.2⟩

theorem mwfFrom_mput_some {α : Type} [DecidableEq α] (d v : α) (k : Nat) : ∀ (m : SMap α) (a : Nat), a < k →
    mwfFrom d (some a) m = true → mwfFrom d (some a) (mput d m k v) = true
  | [], a, h, _ => by
    simp only [mput]; split
    · rfl
    · simp [mwfFrom, *]
  | (j, w) :: m, a, h, hm => by
    have hm' := hm
    simp only [mwfFrom, Bool.and_eq_true, decide_eq_true_eq] at hm
    simp only [mput]
    split
    · split
      · exact hm'
      · simp [mwfFrom, hm.1.2, hm.2, *]
    · split
      · rename_i h1; subst h1
        split
        · exact mwfFrom_weaken (by omega) m hm.2
        · simp [mwfFrom, hm.2, *]
      · simp only [mwfFrom, Bool.and_eq_true, decide_eq_true_eq]
        exact ⟨hm.1, mwfFrom_mput_some d v k m j (by omega) hm.2⟩

theorem mwf_mput {α : Type} [DecidableEq α] (d : α) (m : SMap α) (k : Nat) (v : α) (hm : mwf d m = true) :
    mwf d (mput d m k v) = true := by
  cases m with
  | nil =>
    simp only [mput]; split
    · rfl
    · simp [mwf, mwfFrom, *]
  | cons x m =>
    obtain ⟨j, w⟩ := x
    have hm' := hm
    simp only [mwf, mwfFrom, Bool.true_and, Bool.and_eq_true, decide_eq_true_eq] at hm
    simp only [mput]
    split
    · split
      · exact hm'
      · simp [mwf, mwfFrom, hm.1, hm.2, *]
    · split
      · rename_i h1; subst h1
        split
        · exact mwf_of_some m hm.2
        · simp [mwf, mwfFrom, hm.2, *]
      · simp only [mwf, mwfFrom, Bool.true_and, Bool.and_eq_true, decide_eq_true_eq]
        exact ⟨hm.1, mwfFrom_mput_some d v k m j (by omega) hm.2⟩

theorem mwf_mputs {α : Type} [DecidableEq α] (d : α) : ∀ (vs : List α) (m : SMap α) (k : Nat), mwf d m = true →
    mwf d (mputs d m k vs) = true
  | [], _, _, h => h
  | v :: vs, m, k, h => mwf_mputs d vs _ _ (mwf_mput d m k v h)

theorem mwf_foldl_mput {α : Type} [DecidableEq α] (d : α) : ∀ (l : List (Nat × α)) (m : SMap α), mwf d m = true →
    mwf d (l.foldl (fun m x => mput d m x.1 x.2) m) = true
  | [], _, h => h
  | x :: l, m, h => mwf_foldl_mput d l _ (mwf_mput d m x.1 x.2 h)

theorem mwfFrom_filter {α : Type} [DecidableEq α] (d : α) (p : Nat × α → Bool) : ∀ (m : SMap α) (a : Nat),
    mwfFrom d (some a) m = true → mwfFrom d (some a) (m.filter p) = true
  | [], _, _ => rfl
  | (k, v) :: m, a, h => by
    simp only [mwfFrom, Bool.and_eq_true, decide_eq_true_eq] at h
    simp only [List.filter_cons]
    split
    · simp only [mwfFrom, Bool.and_eq_true, decide_eq_true_eq]
      exact ⟨h.1, mwfFrom_filter d p m k h.2⟩
    · exact mwfFrom_weaken (by omega) _ (mwfFrom_filter d p m k h.2)

theorem mwf_filter {α : Type} [DecidableEq α] (d : α) (p : Nat × α → Bool) (m : SMap α) (hm : mwf d m = true) :
    mwf d (m.filter p) = true := by
  cases m with
  | nil => rfl
  | cons x m =>
    obtain ⟨k, v⟩ := x
    simp only [mwf, mwfFrom, Bool.true_and, Bool.and_eq_true, decide_eq_true_eq] at hm
    simp only [List.filter_cons]
    split
    · simp only [mwf, mwfFrom, Bool.true_and, Bool.and_eq_true, decide_eq_true_eq]
      exact ⟨hm.1, mwfFrom_filter d p m k hm.2⟩
    · exact mwf_of_some _ (mwfFrom_filter d p m k hm.2)

/-- A run of entries written reads back, and every entry outside the run stays. -/
theorem mget_mputs {α : Type} [DecidableEq α] (d : α) : ∀ (vs : List α) (m : SMap α) (k j : Nat), mwf d m = true →
    mget d (mputs d m k vs) j = if k ≤ j ∧ j < k + vs.length then vs.getD (j - k) d else mget d m j
  | [], m, k, j, _ => by simp [mputs, show ¬ (k ≤ j ∧ j < k) by omega]
  | v :: vs, m, k, j, h => by
    rw [mputs, mget_mputs d vs _ _ _ (mwf_mput d m k v h), mget_mput d m k j v (mwf_keys h)]
    by_cases h1 : j = k
    · subst h1; simp [show ¬ (j + 1 ≤ j) by omega]
    · by_cases h2 : k + 1 ≤ j ∧ j < k + 1 + vs.length
      · obtain ⟨i, rfl⟩ : ∃ i, j = k + 1 + i := ⟨j - k - 1, by omega⟩
        simp [h2, show k ≤ k + 1 + i by omega, show k + 1 + i < k + (vs.length + 1) by omega,
          show k + 1 + i - (k + 1) = i by omega, show k + 1 + i - k = i + 1 by omega, List.getD]
      · rw [if_neg h2, if_neg h1, if_neg (by rw [List.length_cons]; omega)]

/-- A run of entries written reads back where unlisted keys hold nothing, and every entry outside the run stays. -/
theorem mfind_minss {α : Type} : ∀ (vs : List α) (m : SMap α) (k j : Nat),
    mfind (minss m k vs) j = if k ≤ j ∧ j < k + vs.length then vs[j - k]? else mfind m j
  | [], m, k, j => by simp [minss, show ¬ (k ≤ j ∧ j < k) by omega]
  | v :: vs, m, k, j => by
    rw [minss, mfind_minss vs, mfind_mins]
    by_cases h1 : j = k
    · subst h1; simp [show ¬ (j + 1 ≤ j) by omega]
    · by_cases h2 : k + 1 ≤ j ∧ j < k + 1 + vs.length
      · obtain ⟨i, rfl⟩ : ∃ i, j = k + 1 + i := ⟨j - k - 1, by omega⟩
        simp [h2, show k ≤ k + 1 + i by omega, show k + 1 + i < k + (vs.length + 1) by omega,
          show k + 1 + i - (k + 1) = i by omega, show k + 1 + i - k = i + 1 by omega]
      · rw [if_neg h2, if_neg h1, if_neg (by rw [List.length_cons]; omega)]

end Sys2Proof.Machine
end

