-- ==== Sys2Proof/Laws/State.lean ====
section
/-! SUPPORT. One lemma for each field of the state and each named update: what the update leaves of the field. -/

namespace Sys2Proof.Machine

@[simp] theorem State.setCtx_clk (s : State) (h : Nat) (c : Ctx) : (s.setCtx h c).clk = s.clk := rfl
@[simp] theorem State.setCtx_agenda (s : State) (h : Nat) (c : Ctx) : (s.setCtx h c).agenda = s.agenda := rfl
@[simp] theorem State.setCtx_iss (s : State) (h : Nat) (c : Ctx) : (s.setCtx h c).iss = s.iss := rfl
@[simp] theorem State.setCtx_cores (s : State) (h : Nat) (c : Ctx) : (s.setCtx h c).cores = s.cores := rfl
@[simp] theorem State.setCtx_ham (s : State) (h : Nat) (c : Ctx) : (s.setCtx h c).ham = s.ham := rfl
@[simp] theorem State.setCtx_clus (s : State) (h : Nat) (c : Ctx) : (s.setCtx h c).clus = s.clus := rfl
@[simp] theorem State.setCtx_cmds (s : State) (h : Nat) (c : Ctx) : (s.setCtx h c).cmds = s.cmds := rfl
@[simp] theorem State.setCtx_colls (s : State) (h : Nat) (c : Ctx) : (s.setCtx h c).colls = s.colls := rfl
@[simp] theorem State.setCtx_dctx (s : State) (h : Nat) (c : Ctx) : (s.setCtx h c).dctx = s.dctx := rfl
@[simp] theorem State.setCtx_mem (s : State) (h : Nat) (c : Ctx) : (s.setCtx h c).mem = s.mem := rfl
@[simp] theorem State.setCtx_dieMode (s : State) (h : Nat) (c : Ctx) : (s.setCtx h c).dieMode = s.dieMode := rfl
@[simp] theorem State.setCtx_net (s : State) (h : Nat) (c : Ctx) : (s.setCtx h c).net = s.net := rfl
@[simp] theorem State.setCtx_res (s : State) (h : Nat) (c : Ctx) : (s.setCtx h c).res = s.res := rfl
@[simp] theorem State.setCtx_images (s : State) (h : Nat) (c : Ctx) : (s.setCtx h c).images = s.images := rfl
@[simp] theorem State.setCtx_ckpts (s : State) (h : Nat) (c : Ctx) : (s.setCtx h c).ckpts = s.ckpts := rfl
@[simp] theorem State.setCtx_ward (s : State) (h : Nat) (c : Ctx) : (s.setCtx h c).ward = s.ward := rfl
@[simp] theorem State.setCtx_part (s : State) (h : Nat) (c : Ctx) : (s.setCtx h c).part = s.part := rfl
@[simp] theorem State.setCtx_bel (s : State) (h : Nat) (c : Ctx) : (s.setCtx h c).bel = s.bel := rfl
@[simp] theorem State.setCtx_host (s : State) (h : Nat) (c : Ctx) : (s.setCtx h c).host = s.host := rfl
@[simp] theorem State.setCtx_mgt (s : State) (h : Nat) (c : Ctx) : (s.setCtx h c).mgt = s.mgt := rfl
@[simp] theorem State.setCtx_tbs (s : State) (h : Nat) (c : Ctx) : (s.setCtx h c).tbs = s.tbs := rfl
@[simp] theorem State.setCtx_links (s : State) (h : Nat) (c : Ctx) : (s.setCtx h c).links = s.links := rfl
@[simp] theorem State.setCtx_pkg (s : State) (h : Nat) (c : Ctx) : (s.setCtx h c).pkg = s.pkg := rfl
@[simp] theorem State.setCtx_spdm (s : State) (h : Nat) (c : Ctx) : (s.setCtx h c).spdm = s.spdm := rfl
@[simp] theorem State.setCtx_keys (s : State) (h : Nat) (c : Ctx) : (s.setCtx h c).keys = s.keys := rfl
@[simp] theorem State.setCtx_outs (s : State) (h : Nat) (c : Ctx) : (s.setCtx h c).outs = s.outs := rfl

@[simp] theorem State.modCtx_clk (s : State) (h : Nat) (f : Ctx → Ctx) : (s.modCtx h f).clk = s.clk := rfl
@[simp] theorem State.modCtx_agenda (s : State) (h : Nat) (f : Ctx → Ctx) : (s.modCtx h f).agenda = s.agenda := rfl
@[simp] theorem State.modCtx_iss (s : State) (h : Nat) (f : Ctx → Ctx) : (s.modCtx h f).iss = s.iss := rfl
@[simp] theorem State.modCtx_cores (s : State) (h : Nat) (f : Ctx → Ctx) : (s.modCtx h f).cores = s.cores := rfl
@[simp] theorem State.modCtx_ham (s : State) (h : Nat) (f : Ctx → Ctx) : (s.modCtx h f).ham = s.ham := rfl
@[simp] theorem State.modCtx_clus (s : State) (h : Nat) (f : Ctx → Ctx) : (s.modCtx h f).clus = s.clus := rfl
@[simp] theorem State.modCtx_cmds (s : State) (h : Nat) (f : Ctx → Ctx) : (s.modCtx h f).cmds = s.cmds := rfl
@[simp] theorem State.modCtx_colls (s : State) (h : Nat) (f : Ctx → Ctx) : (s.modCtx h f).colls = s.colls := rfl
@[simp] theorem State.modCtx_dctx (s : State) (h : Nat) (f : Ctx → Ctx) : (s.modCtx h f).dctx = s.dctx := rfl
@[simp] theorem State.modCtx_mem (s : State) (h : Nat) (f : Ctx → Ctx) : (s.modCtx h f).mem = s.mem := rfl
@[simp] theorem State.modCtx_dieMode (s : State) (h : Nat) (f : Ctx → Ctx) : (s.modCtx h f).dieMode = s.dieMode := rfl
@[simp] theorem State.modCtx_net (s : State) (h : Nat) (f : Ctx → Ctx) : (s.modCtx h f).net = s.net := rfl
@[simp] theorem State.modCtx_res (s : State) (h : Nat) (f : Ctx → Ctx) : (s.modCtx h f).res = s.res := rfl
@[simp] theorem State.modCtx_images (s : State) (h : Nat) (f : Ctx → Ctx) : (s.modCtx h f).images = s.images := rfl
@[simp] theorem State.modCtx_ckpts (s : State) (h : Nat) (f : Ctx → Ctx) : (s.modCtx h f).ckpts = s.ckpts := rfl
@[simp] theorem State.modCtx_ward (s : State) (h : Nat) (f : Ctx → Ctx) : (s.modCtx h f).ward = s.ward := rfl
@[simp] theorem State.modCtx_part (s : State) (h : Nat) (f : Ctx → Ctx) : (s.modCtx h f).part = s.part := rfl
@[simp] theorem State.modCtx_bel (s : State) (h : Nat) (f : Ctx → Ctx) : (s.modCtx h f).bel = s.bel := rfl
@[simp] theorem State.modCtx_host (s : State) (h : Nat) (f : Ctx → Ctx) : (s.modCtx h f).host = s.host := rfl
@[simp] theorem State.modCtx_mgt (s : State) (h : Nat) (f : Ctx → Ctx) : (s.modCtx h f).mgt = s.mgt := rfl
@[simp] theorem State.modCtx_tbs (s : State) (h : Nat) (f : Ctx → Ctx) : (s.modCtx h f).tbs = s.tbs := rfl
@[simp] theorem State.modCtx_links (s : State) (h : Nat) (f : Ctx → Ctx) : (s.modCtx h f).links = s.links := rfl
@[simp] theorem State.modCtx_pkg (s : State) (h : Nat) (f : Ctx → Ctx) : (s.modCtx h f).pkg = s.pkg := rfl
@[simp] theorem State.modCtx_spdm (s : State) (h : Nat) (f : Ctx → Ctx) : (s.modCtx h f).spdm = s.spdm := rfl
@[simp] theorem State.modCtx_keys (s : State) (h : Nat) (f : Ctx → Ctx) : (s.modCtx h f).keys = s.keys := rfl
@[simp] theorem State.modCtx_outs (s : State) (h : Nat) (f : Ctx → Ctx) : (s.modCtx h f).outs = s.outs := rfl

@[simp] theorem State.setCore_clk (s : State) (k : Nat) (c : CoreSt) : (s.setCore k c).clk = s.clk := rfl
@[simp] theorem State.setCore_agenda (s : State) (k : Nat) (c : CoreSt) : (s.setCore k c).agenda = s.agenda := rfl
@[simp] theorem State.setCore_iss (s : State) (k : Nat) (c : CoreSt) : (s.setCore k c).iss = s.iss := rfl
@[simp] theorem State.setCore_hw (s : State) (k : Nat) (c : CoreSt) : (s.setCore k c).hw = s.hw := rfl
@[simp] theorem State.setCore_ham (s : State) (k : Nat) (c : CoreSt) : (s.setCore k c).ham = s.ham := rfl
@[simp] theorem State.setCore_clus (s : State) (k : Nat) (c : CoreSt) : (s.setCore k c).clus = s.clus := rfl
@[simp] theorem State.setCore_cmds (s : State) (k : Nat) (c : CoreSt) : (s.setCore k c).cmds = s.cmds := rfl
@[simp] theorem State.setCore_colls (s : State) (k : Nat) (c : CoreSt) : (s.setCore k c).colls = s.colls := rfl
@[simp] theorem State.setCore_dctx (s : State) (k : Nat) (c : CoreSt) : (s.setCore k c).dctx = s.dctx := rfl
@[simp] theorem State.setCore_mem (s : State) (k : Nat) (c : CoreSt) : (s.setCore k c).mem = s.mem := rfl
@[simp] theorem State.setCore_dieMode (s : State) (k : Nat) (c : CoreSt) : (s.setCore k c).dieMode = s.dieMode := rfl
@[simp] theorem State.setCore_net (s : State) (k : Nat) (c : CoreSt) : (s.setCore k c).net = s.net := rfl
@[simp] theorem State.setCore_res (s : State) (k : Nat) (c : CoreSt) : (s.setCore k c).res = s.res := rfl
@[simp] theorem State.setCore_images (s : State) (k : Nat) (c : CoreSt) : (s.setCore k c).images = s.images := rfl
@[simp] theorem State.setCore_ckpts (s : State) (k : Nat) (c : CoreSt) : (s.setCore k c).ckpts = s.ckpts := rfl
@[simp] theorem State.setCore_ward (s : State) (k : Nat) (c : CoreSt) : (s.setCore k c).ward = s.ward := rfl
@[simp] theorem State.setCore_part (s : State) (k : Nat) (c : CoreSt) : (s.setCore k c).part = s.part := rfl
@[simp] theorem State.setCore_bel (s : State) (k : Nat) (c : CoreSt) : (s.setCore k c).bel = s.bel := rfl
@[simp] theorem State.setCore_host (s : State) (k : Nat) (c : CoreSt) : (s.setCore k c).host = s.host := rfl
@[simp] theorem State.setCore_mgt (s : State) (k : Nat) (c : CoreSt) : (s.setCore k c).mgt = s.mgt := rfl
@[simp] theorem State.setCore_tbs (s : State) (k : Nat) (c : CoreSt) : (s.setCore k c).tbs = s.tbs := rfl
@[simp] theorem State.setCore_links (s : State) (k : Nat) (c : CoreSt) : (s.setCore k c).links = s.links := rfl
@[simp] theorem State.setCore_pkg (s : State) (k : Nat) (c : CoreSt) : (s.setCore k c).pkg = s.pkg := rfl
@[simp] theorem State.setCore_spdm (s : State) (k : Nat) (c : CoreSt) : (s.setCore k c).spdm = s.spdm := rfl
@[simp] theorem State.setCore_keys (s : State) (k : Nat) (c : CoreSt) : (s.setCore k c).keys = s.keys := rfl
@[simp] theorem State.setCore_outs (s : State) (k : Nat) (c : CoreSt) : (s.setCore k c).outs = s.outs := rfl

@[simp] theorem State.modCore_clk (s : State) (k : Nat) (f : CoreSt → CoreSt) : (s.modCore k f).clk = s.clk := rfl
@[simp] theorem State.modCore_agenda (s : State) (k : Nat) (f : CoreSt → CoreSt) : (s.modCore k f).agenda = s.agenda := rfl
@[simp] theorem State.modCore_iss (s : State) (k : Nat) (f : CoreSt → CoreSt) : (s.modCore k f).iss = s.iss := rfl
@[simp] theorem State.modCore_hw (s : State) (k : Nat) (f : CoreSt → CoreSt) : (s.modCore k f).hw = s.hw := rfl
@[simp] theorem State.modCore_ham (s : State) (k : Nat) (f : CoreSt → CoreSt) : (s.modCore k f).ham = s.ham := rfl
@[simp] theorem State.modCore_clus (s : State) (k : Nat) (f : CoreSt → CoreSt) : (s.modCore k f).clus = s.clus := rfl
@[simp] theorem State.modCore_cmds (s : State) (k : Nat) (f : CoreSt → CoreSt) : (s.modCore k f).cmds = s.cmds := rfl
@[simp] theorem State.modCore_colls (s : State) (k : Nat) (f : CoreSt → CoreSt) : (s.modCore k f).colls = s.colls := rfl
@[simp] theorem State.modCore_dctx (s : State) (k : Nat) (f : CoreSt → CoreSt) : (s.modCore k f).dctx = s.dctx := rfl
@[simp] theorem State.modCore_mem (s : State) (k : Nat) (f : CoreSt → CoreSt) : (s.modCore k f).mem = s.mem := rfl
@[simp] theorem State.modCore_dieMode (s : State) (k : Nat) (f : CoreSt → CoreSt) : (s.modCore k f).dieMode = s.dieMode := rfl
@[simp] theorem State.modCore_net (s : State) (k : Nat) (f : CoreSt → CoreSt) : (s.modCore k f).net = s.net := rfl
@[simp] theorem State.modCore_res (s : State) (k : Nat) (f : CoreSt → CoreSt) : (s.modCore k f).res = s.res := rfl
@[simp] theorem State.modCore_images (s : State) (k : Nat) (f : CoreSt → CoreSt) : (s.modCore k f).images = s.images := rfl
@[simp] theorem State.modCore_ckpts (s : State) (k : Nat) (f : CoreSt → CoreSt) : (s.modCore k f).ckpts = s.ckpts := rfl
@[simp] theorem State.modCore_ward (s : State) (k : Nat) (f : CoreSt → CoreSt) : (s.modCore k f).ward = s.ward := rfl
@[simp] theorem State.modCore_part (s : State) (k : Nat) (f : CoreSt → CoreSt) : (s.modCore k f).part = s.part := rfl
@[simp] theorem State.modCore_bel (s : State) (k : Nat) (f : CoreSt → CoreSt) : (s.modCore k f).bel = s.bel := rfl
@[simp] theorem State.modCore_host (s : State) (k : Nat) (f : CoreSt → CoreSt) : (s.modCore k f).host = s.host := rfl
@[simp] theorem State.modCore_mgt (s : State) (k : Nat) (f : CoreSt → CoreSt) : (s.modCore k f).mgt = s.mgt := rfl
@[simp] theorem State.modCore_tbs (s : State) (k : Nat) (f : CoreSt → CoreSt) : (s.modCore k f).tbs = s.tbs := rfl
@[simp] theorem State.modCore_links (s : State) (k : Nat) (f : CoreSt → CoreSt) : (s.modCore k f).links = s.links := rfl
@[simp] theorem State.modCore_pkg (s : State) (k : Nat) (f : CoreSt → CoreSt) : (s.modCore k f).pkg = s.pkg := rfl
@[simp] theorem State.modCore_spdm (s : State) (k : Nat) (f : CoreSt → CoreSt) : (s.modCore k f).spdm = s.spdm := rfl
@[simp] theorem State.modCore_keys (s : State) (k : Nat) (f : CoreSt → CoreSt) : (s.modCore k f).keys = s.keys := rfl
@[simp] theorem State.modCore_outs (s : State) (k : Nat) (f : CoreSt → CoreSt) : (s.modCore k f).outs = s.outs := rfl

@[simp] theorem State.setClu_clk (s : State) (k : Nat) (c : Cluster) : (s.setClu k c).clk = s.clk := rfl
@[simp] theorem State.setClu_agenda (s : State) (k : Nat) (c : Cluster) : (s.setClu k c).agenda = s.agenda := rfl
@[simp] theorem State.setClu_iss (s : State) (k : Nat) (c : Cluster) : (s.setClu k c).iss = s.iss := rfl
@[simp] theorem State.setClu_hw (s : State) (k : Nat) (c : Cluster) : (s.setClu k c).hw = s.hw := rfl
@[simp] theorem State.setClu_cores (s : State) (k : Nat) (c : Cluster) : (s.setClu k c).cores = s.cores := rfl
@[simp] theorem State.setClu_ham (s : State) (k : Nat) (c : Cluster) : (s.setClu k c).ham = s.ham := rfl
@[simp] theorem State.setClu_cmds (s : State) (k : Nat) (c : Cluster) : (s.setClu k c).cmds = s.cmds := rfl
@[simp] theorem State.setClu_colls (s : State) (k : Nat) (c : Cluster) : (s.setClu k c).colls = s.colls := rfl
@[simp] theorem State.setClu_dctx (s : State) (k : Nat) (c : Cluster) : (s.setClu k c).dctx = s.dctx := rfl
@[simp] theorem State.setClu_mem (s : State) (k : Nat) (c : Cluster) : (s.setClu k c).mem = s.mem := rfl
@[simp] theorem State.setClu_dieMode (s : State) (k : Nat) (c : Cluster) : (s.setClu k c).dieMode = s.dieMode := rfl
@[simp] theorem State.setClu_net (s : State) (k : Nat) (c : Cluster) : (s.setClu k c).net = s.net := rfl
@[simp] theorem State.setClu_res (s : State) (k : Nat) (c : Cluster) : (s.setClu k c).res = s.res := rfl
@[simp] theorem State.setClu_images (s : State) (k : Nat) (c : Cluster) : (s.setClu k c).images = s.images := rfl
@[simp] theorem State.setClu_ckpts (s : State) (k : Nat) (c : Cluster) : (s.setClu k c).ckpts = s.ckpts := rfl
@[simp] theorem State.setClu_ward (s : State) (k : Nat) (c : Cluster) : (s.setClu k c).ward = s.ward := rfl
@[simp] theorem State.setClu_part (s : State) (k : Nat) (c : Cluster) : (s.setClu k c).part = s.part := rfl
@[simp] theorem State.setClu_bel (s : State) (k : Nat) (c : Cluster) : (s.setClu k c).bel = s.bel := rfl
@[simp] theorem State.setClu_host (s : State) (k : Nat) (c : Cluster) : (s.setClu k c).host = s.host := rfl
@[simp] theorem State.setClu_mgt (s : State) (k : Nat) (c : Cluster) : (s.setClu k c).mgt = s.mgt := rfl
@[simp] theorem State.setClu_tbs (s : State) (k : Nat) (c : Cluster) : (s.setClu k c).tbs = s.tbs := rfl
@[simp] theorem State.setClu_links (s : State) (k : Nat) (c : Cluster) : (s.setClu k c).links = s.links := rfl
@[simp] theorem State.setClu_pkg (s : State) (k : Nat) (c : Cluster) : (s.setClu k c).pkg = s.pkg := rfl
@[simp] theorem State.setClu_spdm (s : State) (k : Nat) (c : Cluster) : (s.setClu k c).spdm = s.spdm := rfl
@[simp] theorem State.setClu_keys (s : State) (k : Nat) (c : Cluster) : (s.setClu k c).keys = s.keys := rfl
@[simp] theorem State.setClu_outs (s : State) (k : Nat) (c : Cluster) : (s.setClu k c).outs = s.outs := rfl

@[simp] theorem State.modClu_clk (s : State) (k : Nat) (f : Cluster → Cluster) : (s.modClu k f).clk = s.clk := rfl
@[simp] theorem State.modClu_agenda (s : State) (k : Nat) (f : Cluster → Cluster) : (s.modClu k f).agenda = s.agenda := rfl
@[simp] theorem State.modClu_iss (s : State) (k : Nat) (f : Cluster → Cluster) : (s.modClu k f).iss = s.iss := rfl
@[simp] theorem State.modClu_hw (s : State) (k : Nat) (f : Cluster → Cluster) : (s.modClu k f).hw = s.hw := rfl
@[simp] theorem State.modClu_cores (s : State) (k : Nat) (f : Cluster → Cluster) : (s.modClu k f).cores = s.cores := rfl
@[simp] theorem State.modClu_ham (s : State) (k : Nat) (f : Cluster → Cluster) : (s.modClu k f).ham = s.ham := rfl
@[simp] theorem State.modClu_cmds (s : State) (k : Nat) (f : Cluster → Cluster) : (s.modClu k f).cmds = s.cmds := rfl
@[simp] theorem State.modClu_colls (s : State) (k : Nat) (f : Cluster → Cluster) : (s.modClu k f).colls = s.colls := rfl
@[simp] theorem State.modClu_dctx (s : State) (k : Nat) (f : Cluster → Cluster) : (s.modClu k f).dctx = s.dctx := rfl
@[simp] theorem State.modClu_mem (s : State) (k : Nat) (f : Cluster → Cluster) : (s.modClu k f).mem = s.mem := rfl
@[simp] theorem State.modClu_dieMode (s : State) (k : Nat) (f : Cluster → Cluster) : (s.modClu k f).dieMode = s.dieMode := rfl
@[simp] theorem State.modClu_net (s : State) (k : Nat) (f : Cluster → Cluster) : (s.modClu k f).net = s.net := rfl
@[simp] theorem State.modClu_res (s : State) (k : Nat) (f : Cluster → Cluster) : (s.modClu k f).res = s.res := rfl
@[simp] theorem State.modClu_images (s : State) (k : Nat) (f : Cluster → Cluster) : (s.modClu k f).images = s.images := rfl
@[simp] theorem State.modClu_ckpts (s : State) (k : Nat) (f : Cluster → Cluster) : (s.modClu k f).ckpts = s.ckpts := rfl
@[simp] theorem State.modClu_ward (s : State) (k : Nat) (f : Cluster → Cluster) : (s.modClu k f).ward = s.ward := rfl
@[simp] theorem State.modClu_part (s : State) (k : Nat) (f : Cluster → Cluster) : (s.modClu k f).part = s.part := rfl
@[simp] theorem State.modClu_bel (s : State) (k : Nat) (f : Cluster → Cluster) : (s.modClu k f).bel = s.bel := rfl
@[simp] theorem State.modClu_host (s : State) (k : Nat) (f : Cluster → Cluster) : (s.modClu k f).host = s.host := rfl
@[simp] theorem State.modClu_mgt (s : State) (k : Nat) (f : Cluster → Cluster) : (s.modClu k f).mgt = s.mgt := rfl
@[simp] theorem State.modClu_tbs (s : State) (k : Nat) (f : Cluster → Cluster) : (s.modClu k f).tbs = s.tbs := rfl
@[simp] theorem State.modClu_links (s : State) (k : Nat) (f : Cluster → Cluster) : (s.modClu k f).links = s.links := rfl
@[simp] theorem State.modClu_pkg (s : State) (k : Nat) (f : Cluster → Cluster) : (s.modClu k f).pkg = s.pkg := rfl
@[simp] theorem State.modClu_spdm (s : State) (k : Nat) (f : Cluster → Cluster) : (s.modClu k f).spdm = s.spdm := rfl
@[simp] theorem State.modClu_keys (s : State) (k : Nat) (f : Cluster → Cluster) : (s.modClu k f).keys = s.keys := rfl
@[simp] theorem State.modClu_outs (s : State) (k : Nat) (f : Cluster → Cluster) : (s.modClu k f).outs = s.outs := rfl

@[simp] theorem State.setDc_clk (s : State) (d c : Nat) (x : DCtx) : (s.setDc d c x).clk = s.clk := rfl
@[simp] theorem State.setDc_agenda (s : State) (d c : Nat) (x : DCtx) : (s.setDc d c x).agenda = s.agenda := rfl
@[simp] theorem State.setDc_iss (s : State) (d c : Nat) (x : DCtx) : (s.setDc d c x).iss = s.iss := rfl
@[simp] theorem State.setDc_hw (s : State) (d c : Nat) (x : DCtx) : (s.setDc d c x).hw = s.hw := rfl
@[simp] theorem State.setDc_cores (s : State) (d c : Nat) (x : DCtx) : (s.setDc d c x).cores = s.cores := rfl
@[simp] theorem State.setDc_ham (s : State) (d c : Nat) (x : DCtx) : (s.setDc d c x).ham = s.ham := rfl
@[simp] theorem State.setDc_clus (s : State) (d c : Nat) (x : DCtx) : (s.setDc d c x).clus = s.clus := rfl
@[simp] theorem State.setDc_cmds (s : State) (d c : Nat) (x : DCtx) : (s.setDc d c x).cmds = s.cmds := rfl
@[simp] theorem State.setDc_colls (s : State) (d c : Nat) (x : DCtx) : (s.setDc d c x).colls = s.colls := rfl
@[simp] theorem State.setDc_mem (s : State) (d c : Nat) (x : DCtx) : (s.setDc d c x).mem = s.mem := rfl
@[simp] theorem State.setDc_dieMode (s : State) (d c : Nat) (x : DCtx) : (s.setDc d c x).dieMode = s.dieMode := rfl
@[simp] theorem State.setDc_net (s : State) (d c : Nat) (x : DCtx) : (s.setDc d c x).net = s.net := rfl
@[simp] theorem State.setDc_res (s : State) (d c : Nat) (x : DCtx) : (s.setDc d c x).res = s.res := rfl
@[simp] theorem State.setDc_images (s : State) (d c : Nat) (x : DCtx) : (s.setDc d c x).images = s.images := rfl
@[simp] theorem State.setDc_ckpts (s : State) (d c : Nat) (x : DCtx) : (s.setDc d c x).ckpts = s.ckpts := rfl
@[simp] theorem State.setDc_ward (s : State) (d c : Nat) (x : DCtx) : (s.setDc d c x).ward = s.ward := rfl
@[simp] theorem State.setDc_part (s : State) (d c : Nat) (x : DCtx) : (s.setDc d c x).part = s.part := rfl
@[simp] theorem State.setDc_bel (s : State) (d c : Nat) (x : DCtx) : (s.setDc d c x).bel = s.bel := rfl
@[simp] theorem State.setDc_host (s : State) (d c : Nat) (x : DCtx) : (s.setDc d c x).host = s.host := rfl
@[simp] theorem State.setDc_mgt (s : State) (d c : Nat) (x : DCtx) : (s.setDc d c x).mgt = s.mgt := rfl
@[simp] theorem State.setDc_tbs (s : State) (d c : Nat) (x : DCtx) : (s.setDc d c x).tbs = s.tbs := rfl
@[simp] theorem State.setDc_links (s : State) (d c : Nat) (x : DCtx) : (s.setDc d c x).links = s.links := rfl
@[simp] theorem State.setDc_pkg (s : State) (d c : Nat) (x : DCtx) : (s.setDc d c x).pkg = s.pkg := rfl
@[simp] theorem State.setDc_spdm (s : State) (d c : Nat) (x : DCtx) : (s.setDc d c x).spdm = s.spdm := rfl
@[simp] theorem State.setDc_keys (s : State) (d c : Nat) (x : DCtx) : (s.setDc d c x).keys = s.keys := rfl
@[simp] theorem State.setDc_outs (s : State) (d c : Nat) (x : DCtx) : (s.setDc d c x).outs = s.outs := rfl

@[simp] theorem State.modDc_clk (s : State) (d c : Nat) (f : DCtx → DCtx) : (s.modDc d c f).clk = s.clk := rfl
@[simp] theorem State.modDc_agenda (s : State) (d c : Nat) (f : DCtx → DCtx) : (s.modDc d c f).agenda = s.agenda := rfl
@[simp] theorem State.modDc_iss (s : State) (d c : Nat) (f : DCtx → DCtx) : (s.modDc d c f).iss = s.iss := rfl
@[simp] theorem State.modDc_hw (s : State) (d c : Nat) (f : DCtx → DCtx) : (s.modDc d c f).hw = s.hw := rfl
@[simp] theorem State.modDc_cores (s : State) (d c : Nat) (f : DCtx → DCtx) : (s.modDc d c f).cores = s.cores := rfl
@[simp] theorem State.modDc_ham (s : State) (d c : Nat) (f : DCtx → DCtx) : (s.modDc d c f).ham = s.ham := rfl
@[simp] theorem State.modDc_clus (s : State) (d c : Nat) (f : DCtx → DCtx) : (s.modDc d c f).clus = s.clus := rfl
@[simp] theorem State.modDc_cmds (s : State) (d c : Nat) (f : DCtx → DCtx) : (s.modDc d c f).cmds = s.cmds := rfl
@[simp] theorem State.modDc_colls (s : State) (d c : Nat) (f : DCtx → DCtx) : (s.modDc d c f).colls = s.colls := rfl
@[simp] theorem State.modDc_mem (s : State) (d c : Nat) (f : DCtx → DCtx) : (s.modDc d c f).mem = s.mem := rfl
@[simp] theorem State.modDc_dieMode (s : State) (d c : Nat) (f : DCtx → DCtx) : (s.modDc d c f).dieMode = s.dieMode := rfl
@[simp] theorem State.modDc_net (s : State) (d c : Nat) (f : DCtx → DCtx) : (s.modDc d c f).net = s.net := rfl
@[simp] theorem State.modDc_res (s : State) (d c : Nat) (f : DCtx → DCtx) : (s.modDc d c f).res = s.res := rfl
@[simp] theorem State.modDc_images (s : State) (d c : Nat) (f : DCtx → DCtx) : (s.modDc d c f).images = s.images := rfl
@[simp] theorem State.modDc_ckpts (s : State) (d c : Nat) (f : DCtx → DCtx) : (s.modDc d c f).ckpts = s.ckpts := rfl
@[simp] theorem State.modDc_ward (s : State) (d c : Nat) (f : DCtx → DCtx) : (s.modDc d c f).ward = s.ward := rfl
@[simp] theorem State.modDc_part (s : State) (d c : Nat) (f : DCtx → DCtx) : (s.modDc d c f).part = s.part := rfl
@[simp] theorem State.modDc_bel (s : State) (d c : Nat) (f : DCtx → DCtx) : (s.modDc d c f).bel = s.bel := rfl
@[simp] theorem State.modDc_host (s : State) (d c : Nat) (f : DCtx → DCtx) : (s.modDc d c f).host = s.host := rfl
@[simp] theorem State.modDc_mgt (s : State) (d c : Nat) (f : DCtx → DCtx) : (s.modDc d c f).mgt = s.mgt := rfl
@[simp] theorem State.modDc_tbs (s : State) (d c : Nat) (f : DCtx → DCtx) : (s.modDc d c f).tbs = s.tbs := rfl
@[simp] theorem State.modDc_links (s : State) (d c : Nat) (f : DCtx → DCtx) : (s.modDc d c f).links = s.links := rfl
@[simp] theorem State.modDc_pkg (s : State) (d c : Nat) (f : DCtx → DCtx) : (s.modDc d c f).pkg = s.pkg := rfl
@[simp] theorem State.modDc_spdm (s : State) (d c : Nat) (f : DCtx → DCtx) : (s.modDc d c f).spdm = s.spdm := rfl
@[simp] theorem State.modDc_keys (s : State) (d c : Nat) (f : DCtx → DCtx) : (s.modDc d c f).keys = s.keys := rfl
@[simp] theorem State.modDc_outs (s : State) (d c : Nat) (f : DCtx → DCtx) : (s.modDc d c f).outs = s.outs := rfl

@[simp] theorem State.bump_agenda (s : State) : (s.bump).agenda = s.agenda := rfl
@[simp] theorem State.bump_iss (s : State) : (s.bump).iss = s.iss := rfl
@[simp] theorem State.bump_hw (s : State) : (s.bump).hw = s.hw := rfl
@[simp] theorem State.bump_cores (s : State) : (s.bump).cores = s.cores := rfl
@[simp] theorem State.bump_ham (s : State) : (s.bump).ham = s.ham := rfl
@[simp] theorem State.bump_clus (s : State) : (s.bump).clus = s.clus := rfl
@[simp] theorem State.bump_cmds (s : State) : (s.bump).cmds = s.cmds := rfl
@[simp] theorem State.bump_colls (s : State) : (s.bump).colls = s.colls := rfl
@[simp] theorem State.bump_dctx (s : State) : (s.bump).dctx = s.dctx := rfl
@[simp] theorem State.bump_mem (s : State) : (s.bump).mem = s.mem := rfl
@[simp] theorem State.bump_dieMode (s : State) : (s.bump).dieMode = s.dieMode := rfl
@[simp] theorem State.bump_net (s : State) : (s.bump).net = s.net := rfl
@[simp] theorem State.bump_res (s : State) : (s.bump).res = s.res := rfl
@[simp] theorem State.bump_images (s : State) : (s.bump).images = s.images := rfl
@[simp] theorem State.bump_ckpts (s : State) : (s.bump).ckpts = s.ckpts := rfl
@[simp] theorem State.bump_ward (s : State) : (s.bump).ward = s.ward := rfl
@[simp] theorem State.bump_part (s : State) : (s.bump).part = s.part := rfl
@[simp] theorem State.bump_bel (s : State) : (s.bump).bel = s.bel := rfl
@[simp] theorem State.bump_host (s : State) : (s.bump).host = s.host := rfl
@[simp] theorem State.bump_mgt (s : State) : (s.bump).mgt = s.mgt := rfl
@[simp] theorem State.bump_tbs (s : State) : (s.bump).tbs = s.tbs := rfl
@[simp] theorem State.bump_links (s : State) : (s.bump).links = s.links := rfl
@[simp] theorem State.bump_pkg (s : State) : (s.bump).pkg = s.pkg := rfl
@[simp] theorem State.bump_spdm (s : State) : (s.bump).spdm = s.spdm := rfl
@[simp] theorem State.bump_keys (s : State) : (s.bump).keys = s.keys := rfl
@[simp] theorem State.bump_outs (s : State) : (s.bump).outs = s.outs := rfl

@[simp] theorem State.draw_agenda (s : State) : (s.draw).agenda = s.agenda := rfl
@[simp] theorem State.draw_iss (s : State) : (s.draw).iss = s.iss := rfl
@[simp] theorem State.draw_hw (s : State) : (s.draw).hw = s.hw := rfl
@[simp] theorem State.draw_cores (s : State) : (s.draw).cores = s.cores := rfl
@[simp] theorem State.draw_ham (s : State) : (s.draw).ham = s.ham := rfl
@[simp] theorem State.draw_clus (s : State) : (s.draw).clus = s.clus := rfl
@[simp] theorem State.draw_cmds (s : State) : (s.draw).cmds = s.cmds := rfl
@[simp] theorem State.draw_colls (s : State) : (s.draw).colls = s.colls := rfl
@[simp] theorem State.draw_dctx (s : State) : (s.draw).dctx = s.dctx := rfl
@[simp] theorem State.draw_mem (s : State) : (s.draw).mem = s.mem := rfl
@[simp] theorem State.draw_dieMode (s : State) : (s.draw).dieMode = s.dieMode := rfl
@[simp] theorem State.draw_net (s : State) : (s.draw).net = s.net := rfl
@[simp] theorem State.draw_res (s : State) : (s.draw).res = s.res := rfl
@[simp] theorem State.draw_images (s : State) : (s.draw).images = s.images := rfl
@[simp] theorem State.draw_ckpts (s : State) : (s.draw).ckpts = s.ckpts := rfl
@[simp] theorem State.draw_ward (s : State) : (s.draw).ward = s.ward := rfl
@[simp] theorem State.draw_part (s : State) : (s.draw).part = s.part := rfl
@[simp] theorem State.draw_bel (s : State) : (s.draw).bel = s.bel := rfl
@[simp] theorem State.draw_host (s : State) : (s.draw).host = s.host := rfl
@[simp] theorem State.draw_mgt (s : State) : (s.draw).mgt = s.mgt := rfl
@[simp] theorem State.draw_tbs (s : State) : (s.draw).tbs = s.tbs := rfl
@[simp] theorem State.draw_links (s : State) : (s.draw).links = s.links := rfl
@[simp] theorem State.draw_pkg (s : State) : (s.draw).pkg = s.pkg := rfl
@[simp] theorem State.draw_spdm (s : State) : (s.draw).spdm = s.spdm := rfl
@[simp] theorem State.draw_keys (s : State) : (s.draw).keys = s.keys := rfl
@[simp] theorem State.draw_outs (s : State) : (s.draw).outs = s.outs := rfl

@[simp] theorem State.sched_clk (s : State) (n : Nat) (e : Instr) : (s.sched n e).clk = s.clk := rfl
@[simp] theorem State.sched_iss (s : State) (n : Nat) (e : Instr) : (s.sched n e).iss = s.iss := rfl
@[simp] theorem State.sched_hw (s : State) (n : Nat) (e : Instr) : (s.sched n e).hw = s.hw := rfl
@[simp] theorem State.sched_cores (s : State) (n : Nat) (e : Instr) : (s.sched n e).cores = s.cores := rfl
@[simp] theorem State.sched_ham (s : State) (n : Nat) (e : Instr) : (s.sched n e).ham = s.ham := rfl
@[simp] theorem State.sched_clus (s : State) (n : Nat) (e : Instr) : (s.sched n e).clus = s.clus := rfl
@[simp] theorem State.sched_cmds (s : State) (n : Nat) (e : Instr) : (s.sched n e).cmds = s.cmds := rfl
@[simp] theorem State.sched_colls (s : State) (n : Nat) (e : Instr) : (s.sched n e).colls = s.colls := rfl
@[simp] theorem State.sched_dctx (s : State) (n : Nat) (e : Instr) : (s.sched n e).dctx = s.dctx := rfl
@[simp] theorem State.sched_mem (s : State) (n : Nat) (e : Instr) : (s.sched n e).mem = s.mem := rfl
@[simp] theorem State.sched_dieMode (s : State) (n : Nat) (e : Instr) : (s.sched n e).dieMode = s.dieMode := rfl
@[simp] theorem State.sched_net (s : State) (n : Nat) (e : Instr) : (s.sched n e).net = s.net := rfl
@[simp] theorem State.sched_res (s : State) (n : Nat) (e : Instr) : (s.sched n e).res = s.res := rfl
@[simp] theorem State.sched_images (s : State) (n : Nat) (e : Instr) : (s.sched n e).images = s.images := rfl
@[simp] theorem State.sched_ckpts (s : State) (n : Nat) (e : Instr) : (s.sched n e).ckpts = s.ckpts := rfl
@[simp] theorem State.sched_ward (s : State) (n : Nat) (e : Instr) : (s.sched n e).ward = s.ward := rfl
@[simp] theorem State.sched_part (s : State) (n : Nat) (e : Instr) : (s.sched n e).part = s.part := rfl
@[simp] theorem State.sched_bel (s : State) (n : Nat) (e : Instr) : (s.sched n e).bel = s.bel := rfl
@[simp] theorem State.sched_host (s : State) (n : Nat) (e : Instr) : (s.sched n e).host = s.host := rfl
@[simp] theorem State.sched_mgt (s : State) (n : Nat) (e : Instr) : (s.sched n e).mgt = s.mgt := rfl
@[simp] theorem State.sched_tbs (s : State) (n : Nat) (e : Instr) : (s.sched n e).tbs = s.tbs := rfl
@[simp] theorem State.sched_links (s : State) (n : Nat) (e : Instr) : (s.sched n e).links = s.links := rfl
@[simp] theorem State.sched_pkg (s : State) (n : Nat) (e : Instr) : (s.sched n e).pkg = s.pkg := rfl
@[simp] theorem State.sched_spdm (s : State) (n : Nat) (e : Instr) : (s.sched n e).spdm = s.spdm := rfl
@[simp] theorem State.sched_keys (s : State) (n : Nat) (e : Instr) : (s.sched n e).keys = s.keys := rfl
@[simp] theorem State.sched_outs (s : State) (n : Nat) (e : Instr) : (s.sched n e).outs = s.outs := rfl

@[simp] theorem State.countErr_clk (s : State) (k : Nat) : (s.countErr k).clk = s.clk := rfl
@[simp] theorem State.countErr_agenda (s : State) (k : Nat) : (s.countErr k).agenda = s.agenda := rfl
@[simp] theorem State.countErr_iss (s : State) (k : Nat) : (s.countErr k).iss = s.iss := rfl
@[simp] theorem State.countErr_hw (s : State) (k : Nat) : (s.countErr k).hw = s.hw := rfl
@[simp] theorem State.countErr_cores (s : State) (k : Nat) : (s.countErr k).cores = s.cores := rfl
@[simp] theorem State.countErr_ham (s : State) (k : Nat) : (s.countErr k).ham = s.ham := rfl
@[simp] theorem State.countErr_clus (s : State) (k : Nat) : (s.countErr k).clus = s.clus := rfl
@[simp] theorem State.countErr_cmds (s : State) (k : Nat) : (s.countErr k).cmds = s.cmds := rfl
@[simp] theorem State.countErr_colls (s : State) (k : Nat) : (s.countErr k).colls = s.colls := rfl
@[simp] theorem State.countErr_dctx (s : State) (k : Nat) : (s.countErr k).dctx = s.dctx := rfl
@[simp] theorem State.countErr_mem (s : State) (k : Nat) : (s.countErr k).mem = s.mem := rfl
@[simp] theorem State.countErr_dieMode (s : State) (k : Nat) : (s.countErr k).dieMode = s.dieMode := rfl
@[simp] theorem State.countErr_net (s : State) (k : Nat) : (s.countErr k).net = s.net := rfl
@[simp] theorem State.countErr_res (s : State) (k : Nat) : (s.countErr k).res = s.res := rfl
@[simp] theorem State.countErr_images (s : State) (k : Nat) : (s.countErr k).images = s.images := rfl
@[simp] theorem State.countErr_ckpts (s : State) (k : Nat) : (s.countErr k).ckpts = s.ckpts := rfl
@[simp] theorem State.countErr_ward (s : State) (k : Nat) : (s.countErr k).ward = s.ward := rfl
@[simp] theorem State.countErr_part (s : State) (k : Nat) : (s.countErr k).part = s.part := rfl
@[simp] theorem State.countErr_bel (s : State) (k : Nat) : (s.countErr k).bel = s.bel := rfl
@[simp] theorem State.countErr_host (s : State) (k : Nat) : (s.countErr k).host = s.host := rfl
@[simp] theorem State.countErr_tbs (s : State) (k : Nat) : (s.countErr k).tbs = s.tbs := rfl
@[simp] theorem State.countErr_links (s : State) (k : Nat) : (s.countErr k).links = s.links := rfl
@[simp] theorem State.countErr_pkg (s : State) (k : Nat) : (s.countErr k).pkg = s.pkg := rfl
@[simp] theorem State.countErr_spdm (s : State) (k : Nat) : (s.countErr k).spdm = s.spdm := rfl
@[simp] theorem State.countErr_keys (s : State) (k : Nat) : (s.countErr k).keys = s.keys := rfl
@[simp] theorem State.countErr_outs (s : State) (k : Nat) : (s.countErr k).outs = s.outs := rfl

@[simp] theorem State.setLink_clk (s : State) (k : Nat) (l : Link) : (s.setLink k l).clk = s.clk := rfl
@[simp] theorem State.setLink_agenda (s : State) (k : Nat) (l : Link) : (s.setLink k l).agenda = s.agenda := rfl
@[simp] theorem State.setLink_iss (s : State) (k : Nat) (l : Link) : (s.setLink k l).iss = s.iss := rfl
@[simp] theorem State.setLink_hw (s : State) (k : Nat) (l : Link) : (s.setLink k l).hw = s.hw := rfl
@[simp] theorem State.setLink_cores (s : State) (k : Nat) (l : Link) : (s.setLink k l).cores = s.cores := rfl
@[simp] theorem State.setLink_ham (s : State) (k : Nat) (l : Link) : (s.setLink k l).ham = s.ham := rfl
@[simp] theorem State.setLink_clus (s : State) (k : Nat) (l : Link) : (s.setLink k l).clus = s.clus := rfl
@[simp] theorem State.setLink_cmds (s : State) (k : Nat) (l : Link) : (s.setLink k l).cmds = s.cmds := rfl
@[simp] theorem State.setLink_colls (s : State) (k : Nat) (l : Link) : (s.setLink k l).colls = s.colls := rfl
@[simp] theorem State.setLink_dctx (s : State) (k : Nat) (l : Link) : (s.setLink k l).dctx = s.dctx := rfl
@[simp] theorem State.setLink_mem (s : State) (k : Nat) (l : Link) : (s.setLink k l).mem = s.mem := rfl
@[simp] theorem State.setLink_dieMode (s : State) (k : Nat) (l : Link) : (s.setLink k l).dieMode = s.dieMode := rfl
@[simp] theorem State.setLink_net (s : State) (k : Nat) (l : Link) : (s.setLink k l).net = s.net := rfl
@[simp] theorem State.setLink_res (s : State) (k : Nat) (l : Link) : (s.setLink k l).res = s.res := rfl
@[simp] theorem State.setLink_images (s : State) (k : Nat) (l : Link) : (s.setLink k l).images = s.images := rfl
@[simp] theorem State.setLink_ckpts (s : State) (k : Nat) (l : Link) : (s.setLink k l).ckpts = s.ckpts := rfl
@[simp] theorem State.setLink_ward (s : State) (k : Nat) (l : Link) : (s.setLink k l).ward = s.ward := rfl
@[simp] theorem State.setLink_part (s : State) (k : Nat) (l : Link) : (s.setLink k l).part = s.part := rfl
@[simp] theorem State.setLink_bel (s : State) (k : Nat) (l : Link) : (s.setLink k l).bel = s.bel := rfl
@[simp] theorem State.setLink_host (s : State) (k : Nat) (l : Link) : (s.setLink k l).host = s.host := rfl
@[simp] theorem State.setLink_mgt (s : State) (k : Nat) (l : Link) : (s.setLink k l).mgt = s.mgt := rfl
@[simp] theorem State.setLink_tbs (s : State) (k : Nat) (l : Link) : (s.setLink k l).tbs = s.tbs := rfl
@[simp] theorem State.setLink_pkg (s : State) (k : Nat) (l : Link) : (s.setLink k l).pkg = s.pkg := rfl
@[simp] theorem State.setLink_spdm (s : State) (k : Nat) (l : Link) : (s.setLink k l).spdm = s.spdm := rfl
@[simp] theorem State.setLink_keys (s : State) (k : Nat) (l : Link) : (s.setLink k l).keys = s.keys := rfl
@[simp] theorem State.setLink_outs (s : State) (k : Nat) (l : Link) : (s.setLink k l).outs = s.outs := rfl

@[simp] theorem State.writeBytes_clk (s : State) (p : Place) (bs : List Byte) : (s.writeBytes p bs).clk = s.clk := rfl
@[simp] theorem State.writeBytes_agenda (s : State) (p : Place) (bs : List Byte) : (s.writeBytes p bs).agenda = s.agenda := rfl
@[simp] theorem State.writeBytes_iss (s : State) (p : Place) (bs : List Byte) : (s.writeBytes p bs).iss = s.iss := rfl
@[simp] theorem State.writeBytes_hw (s : State) (p : Place) (bs : List Byte) : (s.writeBytes p bs).hw = s.hw := rfl
@[simp] theorem State.writeBytes_cores (s : State) (p : Place) (bs : List Byte) : (s.writeBytes p bs).cores = s.cores := rfl
@[simp] theorem State.writeBytes_ham (s : State) (p : Place) (bs : List Byte) : (s.writeBytes p bs).ham = s.ham := rfl
@[simp] theorem State.writeBytes_clus (s : State) (p : Place) (bs : List Byte) : (s.writeBytes p bs).clus = s.clus := rfl
@[simp] theorem State.writeBytes_cmds (s : State) (p : Place) (bs : List Byte) : (s.writeBytes p bs).cmds = s.cmds := rfl
@[simp] theorem State.writeBytes_colls (s : State) (p : Place) (bs : List Byte) : (s.writeBytes p bs).colls = s.colls := rfl
@[simp] theorem State.writeBytes_dctx (s : State) (p : Place) (bs : List Byte) : (s.writeBytes p bs).dctx = s.dctx := rfl
@[simp] theorem State.writeBytes_dieMode (s : State) (p : Place) (bs : List Byte) : (s.writeBytes p bs).dieMode = s.dieMode := rfl
@[simp] theorem State.writeBytes_net (s : State) (p : Place) (bs : List Byte) : (s.writeBytes p bs).net = s.net := rfl
@[simp] theorem State.writeBytes_res (s : State) (p : Place) (bs : List Byte) : (s.writeBytes p bs).res = s.res := rfl
@[simp] theorem State.writeBytes_images (s : State) (p : Place) (bs : List Byte) : (s.writeBytes p bs).images = s.images := rfl
@[simp] theorem State.writeBytes_ckpts (s : State) (p : Place) (bs : List Byte) : (s.writeBytes p bs).ckpts = s.ckpts := rfl
@[simp] theorem State.writeBytes_ward (s : State) (p : Place) (bs : List Byte) : (s.writeBytes p bs).ward = s.ward := rfl
@[simp] theorem State.writeBytes_part (s : State) (p : Place) (bs : List Byte) : (s.writeBytes p bs).part = s.part := rfl
@[simp] theorem State.writeBytes_bel (s : State) (p : Place) (bs : List Byte) : (s.writeBytes p bs).bel = s.bel := rfl
@[simp] theorem State.writeBytes_host (s : State) (p : Place) (bs : List Byte) : (s.writeBytes p bs).host = s.host := rfl
@[simp] theorem State.writeBytes_mgt (s : State) (p : Place) (bs : List Byte) : (s.writeBytes p bs).mgt = s.mgt := rfl
@[simp] theorem State.writeBytes_tbs (s : State) (p : Place) (bs : List Byte) : (s.writeBytes p bs).tbs = s.tbs := rfl
@[simp] theorem State.writeBytes_links (s : State) (p : Place) (bs : List Byte) : (s.writeBytes p bs).links = s.links := rfl
@[simp] theorem State.writeBytes_pkg (s : State) (p : Place) (bs : List Byte) : (s.writeBytes p bs).pkg = s.pkg := rfl
@[simp] theorem State.writeBytes_spdm (s : State) (p : Place) (bs : List Byte) : (s.writeBytes p bs).spdm = s.spdm := rfl
@[simp] theorem State.writeBytes_keys (s : State) (p : Place) (bs : List Byte) : (s.writeBytes p bs).keys = s.keys := rfl
@[simp] theorem State.writeBytes_outs (s : State) (p : Place) (bs : List Byte) : (s.writeBytes p bs).outs = s.outs := rfl

@[simp] theorem State.writeTag_clk (s : State) (p : Place) (t : Tag) : (s.writeTag p t).clk = s.clk := rfl
@[simp] theorem State.writeTag_agenda (s : State) (p : Place) (t : Tag) : (s.writeTag p t).agenda = s.agenda := rfl
@[simp] theorem State.writeTag_iss (s : State) (p : Place) (t : Tag) : (s.writeTag p t).iss = s.iss := rfl
@[simp] theorem State.writeTag_hw (s : State) (p : Place) (t : Tag) : (s.writeTag p t).hw = s.hw := rfl
@[simp] theorem State.writeTag_cores (s : State) (p : Place) (t : Tag) : (s.writeTag p t).cores = s.cores := rfl
@[simp] theorem State.writeTag_ham (s : State) (p : Place) (t : Tag) : (s.writeTag p t).ham = s.ham := rfl
@[simp] theorem State.writeTag_clus (s : State) (p : Place) (t : Tag) : (s.writeTag p t).clus = s.clus := rfl
@[simp] theorem State.writeTag_cmds (s : State) (p : Place) (t : Tag) : (s.writeTag p t).cmds = s.cmds := rfl
@[simp] theorem State.writeTag_colls (s : State) (p : Place) (t : Tag) : (s.writeTag p t).colls = s.colls := rfl
@[simp] theorem State.writeTag_dctx (s : State) (p : Place) (t : Tag) : (s.writeTag p t).dctx = s.dctx := rfl
@[simp] theorem State.writeTag_dieMode (s : State) (p : Place) (t : Tag) : (s.writeTag p t).dieMode = s.dieMode := rfl
@[simp] theorem State.writeTag_net (s : State) (p : Place) (t : Tag) : (s.writeTag p t).net = s.net := rfl
@[simp] theorem State.writeTag_res (s : State) (p : Place) (t : Tag) : (s.writeTag p t).res = s.res := rfl
@[simp] theorem State.writeTag_images (s : State) (p : Place) (t : Tag) : (s.writeTag p t).images = s.images := rfl
@[simp] theorem State.writeTag_ckpts (s : State) (p : Place) (t : Tag) : (s.writeTag p t).ckpts = s.ckpts := rfl
@[simp] theorem State.writeTag_ward (s : State) (p : Place) (t : Tag) : (s.writeTag p t).ward = s.ward := rfl
@[simp] theorem State.writeTag_part (s : State) (p : Place) (t : Tag) : (s.writeTag p t).part = s.part := rfl
@[simp] theorem State.writeTag_bel (s : State) (p : Place) (t : Tag) : (s.writeTag p t).bel = s.bel := rfl
@[simp] theorem State.writeTag_host (s : State) (p : Place) (t : Tag) : (s.writeTag p t).host = s.host := rfl
@[simp] theorem State.writeTag_mgt (s : State) (p : Place) (t : Tag) : (s.writeTag p t).mgt = s.mgt := rfl
@[simp] theorem State.writeTag_tbs (s : State) (p : Place) (t : Tag) : (s.writeTag p t).tbs = s.tbs := rfl
@[simp] theorem State.writeTag_links (s : State) (p : Place) (t : Tag) : (s.writeTag p t).links = s.links := rfl
@[simp] theorem State.writeTag_pkg (s : State) (p : Place) (t : Tag) : (s.writeTag p t).pkg = s.pkg := rfl
@[simp] theorem State.writeTag_spdm (s : State) (p : Place) (t : Tag) : (s.writeTag p t).spdm = s.spdm := rfl
@[simp] theorem State.writeTag_keys (s : State) (p : Place) (t : Tag) : (s.writeTag p t).keys = s.keys := rfl
@[simp] theorem State.writeTag_outs (s : State) (p : Place) (t : Tag) : (s.writeTag p t).outs = s.outs := rfl

/-! The field an update changes. -/

@[simp] theorem State.ctx_setCtx (s : State) (h k : Nat) (c : Ctx) : (s.setCtx h c).ctx k = if k = h then c else s.ctx k := by
  simp only [State.ctx, State.setCtx, mfind_mins]; split <;> rfl

@[simp] theorem State.ctx_modCtx (s : State) (h k : Nat) (f : Ctx → Ctx) :
    (s.modCtx h f).ctx k = if k = h then f (s.ctx h) else s.ctx k := by simp [State.modCtx]

@[simp] theorem State.core_setCore (s : State) (k j : Nat) (c : CoreSt) : (s.setCore k c).core j = if j = k then c else s.core j := by
  simp only [State.core, State.setCore, mfind_mins]; split <;> rfl

@[simp] theorem State.core_modCore (s : State) (k j : Nat) (f : CoreSt → CoreSt) :
    (s.modCore k f).core j = if j = k then f (s.core k) else s.core j := by simp [State.modCore]

@[simp] theorem State.clu_setClu (s : State) (k j : Nat) (c : Cluster) : (s.setClu k c).clu j = if j = k then c else s.clu j := by
  simp only [State.clu, State.setClu, mfind_mins]; split <;> rfl

@[simp] theorem State.clu_modClu (s : State) (k j : Nat) (f : Cluster → Cluster) :
    (s.modClu k f).clu j = if j = k then f (s.clu k) else s.clu j := by simp [State.modClu]

theorem State.dc_setDc (s : State) (d c e k : Nat) (x : DCtx) :
    (s.setDc d c x).dc e k = if e * 16 + k = d * 16 + c then x else s.dc e k := by
  simp only [State.dc, State.setDc, mfind_mins]; split <;> rfl

@[simp] theorem State.dc_setDc_self (s : State) (d c : Nat) (x : DCtx) : (s.setDc d c x).dc d c = x := by simp [State.dc_setDc]

@[simp] theorem State.dc_modDc_self (s : State) (d c : Nat) (f : DCtx → DCtx) : (s.modDc d c f).dc d c = f (s.dc d c) := by
  simp [State.modDc]

theorem State.setLink_links (s : State) (k : Nat) (l : Link) : (s.setLink k l).links = mins s.links k l := rfl

theorem State.sched_agenda (s : State) (n : Nat) (e : Instr) : (s.sched n e).agenda = schedIn (s.clk.wall + n) e s.agenda := rfl

/-! Parts read by number through the other updates. -/

@[simp] theorem State.core_setCtx (s : State) (h : Nat) (c : Ctx) (q : Nat) : (s.setCtx h c).core q = s.core q := rfl
@[simp] theorem State.clu_setCtx (s : State) (h : Nat) (c : Ctx) (q : Nat) : (s.setCtx h c).clu q = s.clu q := rfl
@[simp] theorem State.dc_setCtx (s : State) (h : Nat) (c : Ctx) (q r : Nat) : (s.setCtx h c).dc q r = s.dc q r := rfl
@[simp] theorem State.link_setCtx (s : State) (h : Nat) (c : Ctx) (q : Nat) : (s.setCtx h c).link q = s.link q := rfl

@[simp] theorem State.core_modCtx (s : State) (h : Nat) (f : Ctx → Ctx) (q : Nat) : (s.modCtx h f).core q = s.core q := rfl
@[simp] theorem State.clu_modCtx (s : State) (h : Nat) (f : Ctx → Ctx) (q : Nat) : (s.modCtx h f).clu q = s.clu q := rfl
@[simp] theorem State.dc_modCtx (s : State) (h : Nat) (f : Ctx → Ctx) (q r : Nat) : (s.modCtx h f).dc q r = s.dc q r := rfl
@[simp] theorem State.link_modCtx (s : State) (h : Nat) (f : Ctx → Ctx) (q : Nat) : (s.modCtx h f).link q = s.link q := rfl

@[simp] theorem State.ctx_setCore (s : State) (k : Nat) (c : CoreSt) (q : Nat) : (s.setCore k c).ctx q = s.ctx q := rfl
@[simp] theorem State.clu_setCore (s : State) (k : Nat) (c : CoreSt) (q : Nat) : (s.setCore k c).clu q = s.clu q := rfl
@[simp] theorem State.dc_setCore (s : State) (k : Nat) (c : CoreSt) (q r : Nat) : (s.setCore k c).dc q r = s.dc q r := rfl
@[simp] theorem State.link_setCore (s : State) (k : Nat) (c : CoreSt) (q : Nat) : (s.setCore k c).link q = s.link q := rfl

@[simp] theorem State.ctx_modCore (s : State) (k : Nat) (f : CoreSt → CoreSt) (q : Nat) : (s.modCore k f).ctx q = s.ctx q := rfl
@[simp] theorem State.clu_modCore (s : State) (k : Nat) (f : CoreSt → CoreSt) (q : Nat) : (s.modCore k f).clu q = s.clu q := rfl
@[simp] theorem State.dc_modCore (s : State) (k : Nat) (f : CoreSt → CoreSt) (q r : Nat) : (s.modCore k f).dc q r = s.dc q r := rfl
@[simp] theorem State.link_modCore (s : State) (k : Nat) (f : CoreSt → CoreSt) (q : Nat) : (s.modCore k f).link q = s.link q := rfl

@[simp] theorem State.ctx_setClu (s : State) (k : Nat) (c : Cluster) (q : Nat) : (s.setClu k c).ctx q = s.ctx q := rfl
@[simp] theorem State.core_setClu (s : State) (k : Nat) (c : Cluster) (q : Nat) : (s.setClu k c).core q = s.core q := rfl
@[simp] theorem State.dc_setClu (s : State) (k : Nat) (c : Cluster) (q r : Nat) : (s.setClu k c).dc q r = s.dc q r := rfl
@[simp] theorem State.link_setClu (s : State) (k : Nat) (c : Cluster) (q : Nat) : (s.setClu k c).link q = s.link q := rfl

@[simp] theorem State.ctx_modClu (s : State) (k : Nat) (f : Cluster → Cluster) (q : Nat) : (s.modClu k f).ctx q = s.ctx q := rfl
@[simp] theorem State.core_modClu (s : State) (k : Nat) (f : Cluster → Cluster) (q : Nat) : (s.modClu k f).core q = s.core q := rfl
@[simp] theorem State.dc_modClu (s : State) (k : Nat) (f : Cluster → Cluster) (q r : Nat) : (s.modClu k f).dc q r = s.dc q r := rfl
@[simp] theorem State.link_modClu (s : State) (k : Nat) (f : Cluster → Cluster) (q : Nat) : (s.modClu k f).link q = s.link q := rfl

@[simp] theorem State.ctx_setDc (s : State) (d c : Nat) (x : DCtx) (q : Nat) : (s.setDc d c x).ctx q = s.ctx q := rfl
@[simp] theorem State.core_setDc (s : State) (d c : Nat) (x : DCtx) (q : Nat) : (s.setDc d c x).core q = s.core q := rfl
@[simp] theorem State.clu_setDc (s : State) (d c : Nat) (x : DCtx) (q : Nat) : (s.setDc d c x).clu q = s.clu q := rfl
@[simp] theorem State.link_setDc (s : State) (d c : Nat) (x : DCtx) (q : Nat) : (s.setDc d c x).link q = s.link q := rfl

@[simp] theorem State.ctx_modDc (s : State) (d c : Nat) (f : DCtx → DCtx) (q : Nat) : (s.modDc d c f).ctx q = s.ctx q := rfl
@[simp] theorem State.core_modDc (s : State) (d c : Nat) (f : DCtx → DCtx) (q : Nat) : (s.modDc d c f).core q = s.core q := rfl
@[simp] theorem State.clu_modDc (s : State) (d c : Nat) (f : DCtx → DCtx) (q : Nat) : (s.modDc d c f).clu q = s.clu q := rfl
@[simp] theorem State.link_modDc (s : State) (d c : Nat) (f : DCtx → DCtx) (q : Nat) : (s.modDc d c f).link q = s.link q := rfl

@[simp] theorem State.ctx_bump (s : State) (q : Nat) : (s.bump).ctx q = s.ctx q := rfl
@[simp] theorem State.core_bump (s : State) (q : Nat) : (s.bump).core q = s.core q := rfl
@[simp] theorem State.clu_bump (s : State) (q : Nat) : (s.bump).clu q = s.clu q := rfl
@[simp] theorem State.dc_bump (s : State) (q r : Nat) : (s.bump).dc q r = s.dc q r := rfl
@[simp] theorem State.link_bump (s : State) (q : Nat) : (s.bump).link q = s.link q := rfl

@[simp] theorem State.ctx_draw (s : State) (q : Nat) : (s.draw).ctx q = s.ctx q := rfl
@[simp] theorem State.core_draw (s : State) (q : Nat) : (s.draw).core q = s.core q := rfl
@[simp] theorem State.clu_draw (s : State) (q : Nat) : (s.draw).clu q = s.clu q := rfl
@[simp] theorem State.dc_draw (s : State) (q r : Nat) : (s.draw).dc q r = s.dc q r := rfl
@[simp] theorem State.link_draw (s : State) (q : Nat) : (s.draw).link q = s.link q := rfl

@[simp] theorem State.ctx_sched (s : State) (n : Nat) (e : Instr) (q : Nat) : (s.sched n e).ctx q = s.ctx q := rfl
@[simp] theorem State.core_sched (s : State) (n : Nat) (e : Instr) (q : Nat) : (s.sched n e).core q = s.core q := rfl
@[simp] theorem State.clu_sched (s : State) (n : Nat) (e : Instr) (q : Nat) : (s.sched n e).clu q = s.clu q := rfl
@[simp] theorem State.dc_sched (s : State) (n : Nat) (e : Instr) (q r : Nat) : (s.sched n e).dc q r = s.dc q r := rfl
@[simp] theorem State.link_sched (s : State) (n : Nat) (e : Instr) (q : Nat) : (s.sched n e).link q = s.link q := rfl

@[simp] theorem State.ctx_countErr (s : State) (k : Nat) (q : Nat) : (s.countErr k).ctx q = s.ctx q := rfl
@[simp] theorem State.core_countErr (s : State) (k : Nat) (q : Nat) : (s.countErr k).core q = s.core q := rfl
@[simp] theorem State.clu_countErr (s : State) (k : Nat) (q : Nat) : (s.countErr k).clu q = s.clu q := rfl
@[simp] theorem State.dc_countErr (s : State) (k : Nat) (q r : Nat) : (s.countErr k).dc q r = s.dc q r := rfl
@[simp] theorem State.link_countErr (s : State) (k : Nat) (q : Nat) : (s.countErr k).link q = s.link q := rfl

@[simp] theorem State.ctx_setLink (s : State) (k : Nat) (l : Link) (q : Nat) : (s.setLink k l).ctx q = s.ctx q := rfl
@[simp] theorem State.core_setLink (s : State) (k : Nat) (l : Link) (q : Nat) : (s.setLink k l).core q = s.core q := rfl
@[simp] theorem State.clu_setLink (s : State) (k : Nat) (l : Link) (q : Nat) : (s.setLink k l).clu q = s.clu q := rfl
@[simp] theorem State.dc_setLink (s : State) (k : Nat) (l : Link) (q r : Nat) : (s.setLink k l).dc q r = s.dc q r := rfl

@[simp] theorem State.ctx_writeBytes (s : State) (p : Place) (bs : List Byte) (q : Nat) : (s.writeBytes p bs).ctx q = s.ctx q := rfl
@[simp] theorem State.core_writeBytes (s : State) (p : Place) (bs : List Byte) (q : Nat) : (s.writeBytes p bs).core q = s.core q := rfl
@[simp] theorem State.clu_writeBytes (s : State) (p : Place) (bs : List Byte) (q : Nat) : (s.writeBytes p bs).clu q = s.clu q := rfl
@[simp] theorem State.dc_writeBytes (s : State) (p : Place) (bs : List Byte) (q r : Nat) : (s.writeBytes p bs).dc q r = s.dc q r := rfl
@[simp] theorem State.link_writeBytes (s : State) (p : Place) (bs : List Byte) (q : Nat) : (s.writeBytes p bs).link q = s.link q := rfl

@[simp] theorem State.ctx_writeTag (s : State) (p : Place) (t : Tag) (q : Nat) : (s.writeTag p t).ctx q = s.ctx q := rfl
@[simp] theorem State.core_writeTag (s : State) (p : Place) (t : Tag) (q : Nat) : (s.writeTag p t).core q = s.core q := rfl
@[simp] theorem State.clu_writeTag (s : State) (p : Place) (t : Tag) (q : Nat) : (s.writeTag p t).clu q = s.clu q := rfl
@[simp] theorem State.dc_writeTag (s : State) (p : Place) (t : Tag) (q r : Nat) : (s.writeTag p t).dc q r = s.dc q r := rfl
@[simp] theorem State.link_writeTag (s : State) (p : Place) (t : Tag) (q : Nat) : (s.writeTag p t).link q = s.link q := rfl

end Sys2Proof.Machine
end

