-- ==== Sys2Proof/Laws/Issue.lean ====
section
/-! SUPPORT. Laws of the frame of a slot operation: the steps of its body one by one, the exposed latch it leaves, and what
the whole operation answers. -/

namespace Sys2Proof.Machine

/-! The steps of a body. -/

theorem M.pure_apply {α : Type} (a : α) (s : State) : (pure a : M α) s = .ok (a, s) := rfl

theorem M.bind_ok {α β : Type} {x : M α} {f : α → M β} {s t : State} {a : α} (h : x s = .ok (a, t)) :
    (x >>= f) s = f a t := by
  show (x s >>= fun p => f p.1 p.2) = _
  rw [h]; rfl

theorem M.bind_error {α β : Type} {x : M α} {f : α → M β} {s : State} {e : Stop} (h : x s = .error e) :
    (x >>= f) s = .error e := by
  show (x s >>= fun p => f p.1 p.2) = _
  rw [h]; rfl

@[simp] theorem ctxM_apply (h : Nat) (s : State) : ctxM h s = .ok (s.ctx h, s) := rfl
@[simp] theorem modM_apply (h : Nat) (f : Ctx → Ctx) (s : State) : modM h f s = .ok ((), s.modCtx h f) := rfl
@[simp] theorem getM_apply (s : State) : getM s = .ok (s, s) := rfl
@[simp] theorem updM_apply (f : State → State) (s : State) : updM f s = .ok ((), f s) := rfl
@[simp] theorem stallM_apply {α : Type} (n : Nat) (s : State) : (stallM n : M α) s = .error (.stall n) := rfl
@[simp] theorem blockM_apply {α : Type} (w : Why) (s : State) : (blockM w : M α) s = .error (.block w) := rfl
@[simp] theorem trapM_apply {α : Type} (c i : Nat) (rs : List (Nat × Word)) (s : State) : (trapM c i rs : M α) s =
    .error (.trap { cause := c, info := i, slot := 0, asy := false, sregs := rs, regs := [], mem := [], blk := none }) := rfl

theorem needM_true {b : Bool} (hb : b = true) (c i : Nat) (rs : List (Nat × Word)) (s : State) :
    needM b c i rs s = .ok ((), s) := by simp [needM, hb, M.pure_apply]

theorem needM_false {b : Bool} (hb : b = false) (c i : Nat) (rs : List (Nat × Word)) (s : State) :
    needM b c i rs s = (trapM c i rs : M Unit) s := by simp [needM, hb]

@[simp] theorem liftM'_ok {α : Type} (a : α) (s : State) : liftM' (.ok a : Except (Nat × List (Nat × Word)) α) s = .ok (a, s) := rfl

@[simp] theorem laterM_apply (s : State) : laterM s = .ok ((match s.iss with | some i => i.later | none => []), s) := rfl

/-! The exposed latch (R148). -/

/-- What taking a latch leaves: the latch behind the others, with the next number. -/
theorem latchAs_ok {h dist code : Nat} {sl : Slot} {wrs : List Wr} {tile here : Bool} {s : State}
    (hl : ((s.ctx h).lats.filter (·.occ)).length < 64) :
    latchAs h sl dist wrs code tile here s =
      .ok (s.clk.tick, s.bump.modCtx h fun c =>
        { c with lats := c.lats ++ [{ tok := s.clk.tick, slot := sl.num, code := code, dist := dist, here := here, occ := true,
                                      tile := tile, wrs := wrs }] }) := by
  unfold latchAs
  rw [M.bind_ok (ctxM_apply h s), if_neg (by omega)]
  rfl

theorem latchAs_full {h dist code : Nat} {sl : Slot} {wrs : List Wr} {tile here : Bool} {s : State}
    (hl : 64 ≤ ((s.ctx h).lats.filter (·.occ)).length) :
    latchAs h sl dist wrs code tile here s = .error (.stall 4) := by
  unfold latchAs
  rw [M.bind_ok (ctxM_apply h s), if_pos (by omega)]
  rfl

theorem latchM_ok {h dist code : Nat} {sl : Slot} {wrs : List Wr} {tile : Bool} {s : State}
    (hl : ((s.ctx h).lats.filter (·.occ)).length < 64) :
    latchM h sl dist wrs code tile s =
      .ok ((), s.bump.modCtx h fun c =>
        { c with lats := c.lats ++ [{ tok := s.clk.tick, slot := sl.num, code := code, dist := dist, here := true, occ := true,
                                      tile := tile, wrs := wrs }] }) := by
  unfold latchM
  rw [M.bind_ok (latchAs_ok hl)]
  rfl

/-! The whole operation (R150, R151, R155, R171). -/

/-- An operation whose guard holds and whose body goes through answers the state its body leaves. -/
theorem slotOp_next {sl : Slot} {g : Guard} {body : Nat → M Unit} {s t : State} {i : Iss} {u : Unit} (hi : s.iss = some i)
    (hg : (s.ctx i.h).guard g = true) (hb : body i.h s = .ok (u, t)) : slotOp sl g body s = .next t := by
  simp [slotOp, hi, hg, hb]

/-- An operation whose body stops answers the stopped issue. -/
theorem slotOp_stop {sl : Slot} {g : Guard} {body : Nat → M Unit} {s : State} {i : Iss} {e : Stop} (hi : s.iss = some i)
    (hg : (s.ctx i.h).guard g = true) (hb : body i.h s = .error e) :
    slotOp sl g body s = .next (s.stopIssue i (e.at sl)) := by
  simp [slotOp, hi, hg, hb]

/-- An operation whose guard is false has no effect (R171). -/
theorem slotOp_skip {sl : Slot} {g : Guard} {body : Nat → M Unit} {s : State} {i : Iss} (hi : s.iss = some i)
    (hg : (s.ctx i.h).guard g = false) : slotOp sl g body s = .next s := by
  simp [slotOp, hi, hg]

/-- An operation with no issue to run in stops the machine. -/
theorem slotOp_fault {sl : Slot} {g : Guard} {body : Nat → M Unit} {s : State} (hi : s.iss = none) :
    slotOp sl g body s = .fault .noIssuingContext := by
  simp [slotOp, hi]

/-- Everything a slot operation can do: it stops the machine with no issue to run in, leaves the state as it is where its guard
is false, answers the state its body leaves, or stops the issue. -/
theorem slotOp_cases (sl : Slot) (g : Guard) (body : Nat → M Unit) (s : State) :
    (s.iss = none ∧ slotOp sl g body s = .fault .noIssuingContext) ∨
    (∃ i, s.iss = some i ∧ (s.ctx i.h).guard g = false ∧ slotOp sl g body s = .next s) ∨
    (∃ i u t, s.iss = some i ∧ (s.ctx i.h).guard g = true ∧ body i.h s = .ok (u, t) ∧ slotOp sl g body s = .next t) ∨
    (∃ i e, s.iss = some i ∧ (s.ctx i.h).guard g = true ∧ body i.h s = .error e ∧
      slotOp sl g body s = .next (s.stopIssue i (e.at sl))) := by
  cases hi : s.iss with
  | none => exact .inl ⟨rfl, slotOp_fault hi⟩
  | some i =>
    cases hg : (s.ctx i.h).guard g with
    | false => exact .inr (.inl ⟨i, rfl, hg, slotOp_skip hi hg⟩)
    | true =>
      cases hb : body i.h s with
      | ok p => exact .inr (.inr (.inl ⟨i, p.1, p.2, rfl, hg, hb, slotOp_next hi hg hb⟩))
      | error e => exact .inr (.inr (.inr ⟨i, e, rfl, hg, hb, slotOp_stop hi hg hb⟩))

/-- A slot operation is never refused. -/
theorem slotOp_ne_refused (sl : Slot) (g : Guard) (body : Nat → M Unit) (s : State) (r : Refusal) :
    slotOp sl g body s ≠ .refused r := by
  rcases slotOp_cases sl g body s with ⟨_, h⟩ | ⟨_, _, _, h⟩ | ⟨_, _, _, _, _, _, h⟩ | ⟨_, _, _, _, _, h⟩ <;> simp [h]

end Sys2Proof.Machine
end

