-- ==== Sys2Proof/Laws/Mem.lean ====
section
/-! SUPPORT. Laws of storage: a byte written reads back, a write leaves every other byte alone, and every operation keeps
the canonical form. -/

namespace Sys2Proof.Machine

theorem Mem.wf_iff (m : Mem) : m.wf = true ↔
    mwf 0 m.sp = true ∧ mwf 0 m.spTag = true ∧ mkeysFrom none m.hbm = true ∧ mkeysFrom none m.hbmTag = true ∧
    mwf 0 m.hbmKey = true := by
  simp [Mem.wf, and_assoc]

theorem mkeys_wipeGran (a : Nat) : ∀ (n : Nat) (m : SMap Byte), mkeysFrom none m = true → mkeysFrom none (wipeGran m a n) = true
  | 0, _, h => h
  | n + 1, _, h => mkeys_wipeGran a n _ (mkeys_mdel _ _ h)

/-- Wiping a granule forgets exactly its bytes. -/
theorem mfind_wipeGran (a b : Nat) : ∀ (n : Nat) (m : SMap Byte), mkeysFrom none m = true →
    mfind (wipeGran m a n) b = if a / 64 * 64 ≤ b ∧ b < a / 64 * 64 + n then none else mfind m b
  | 0, m, _ => by simp [wipeGran, show ¬ (a / 64 * 64 ≤ b ∧ b < a / 64 * 64) by omega]
  | n + 1, m, h => by
    rw [wipeGran, mfind_wipeGran a b n _ (mkeys_mdel _ _ h), mfind_mdel _ _ _ h]
    by_cases h1 : b = a / 64 * 64 + n
    · simp [h1]
    · by_cases h2 : a / 64 * 64 ≤ b ∧ b < a / 64 * 64 + n
      · simp [h2, show b < a / 64 * 64 + (n + 1) by omega]
      · simp [h1, h2, show ¬ (a / 64 * 64 ≤ b ∧ b < a / 64 * 64 + (n + 1)) by omega]

theorem Mem.wf_own (m : Mem) (a k : Nat) (h : m.wf = true) : (m.own a k).wf = true := by
  rw [Mem.wf_iff] at h
  unfold Mem.own
  split
  · exact (Mem.wf_iff m).2 h
  · have h3 := mkeys_wipeGran a 64 m.hbm h.2.2.1
    generalize wipeGran m.hbm a 64 = w at h3 ⊢
    exact (Mem.wf_iff _).2 ⟨h.1, h.2.1, h3, mkeys_mdel _ _ h.2.2.2.1, mwf_mput _ _ _ _ h.2.2.2.2⟩

theorem Mem.wf_write (m : Mem) (p : Place) (bs : List Byte) (h : m.wf = true) : (m.write p bs).wf = true := by
  cases p with
  | sp a =>
    rw [Mem.wf_iff] at h
    exact (Mem.wf_iff _).2 ⟨mwf_mputs _ _ _ _ h.1, h.2⟩
  | hbm a k =>
    have h' := (Mem.wf_iff _).1 (Mem.wf_own m a k h)
    exact (Mem.wf_iff _).2 ⟨h'.1, h'.2.1, mkeys_minss _ _ _ h'.2.2.1, h'.2.2.2⟩

theorem Mem.wf_setTag (m : Mem) (p : Place) (t : Tag) (h : m.wf = true) : (m.setTag p t).wf = true := by
  cases p with
  | sp a =>
    rw [Mem.wf_iff] at h
    exact (Mem.wf_iff _).2 ⟨h.1, mwf_mput _ _ _ _ h.2.1, h.2.2⟩
  | hbm a k =>
    have h' := (Mem.wf_iff _).1 (Mem.wf_own m a k h)
    exact (Mem.wf_iff _).2 ⟨h'.1, h'.2.1, h'.2.2.1, mkeys_mins _ _ _ h'.2.2.2.1, h'.2.2.2.2⟩

theorem Mem.wf_writePiece (m : Mem) (p : Piece) (h : m.wf = true) : (m.writePiece p).wf = true := by
  unfold Mem.writePiece
  split
  · exact Mem.wf_setTag _ _ _ (Mem.wf_write _ _ _ h)
  · exact Mem.wf_write _ _ _ h

theorem Mem.wf_writePieces : ∀ (ps : List Piece) (m : Mem), m.wf = true → (ps.foldl Mem.writePiece m).wf = true
  | [], _, h => h
  | p :: ps, m, h => Mem.wf_writePieces ps _ (Mem.wf_writePiece m p h)

theorem Mem.wf_forget (m : Mem) (a : Nat) : ∀ n : Nat, m.wf = true → (m.forget a n).wf = true
  | 0, h => h
  | n + 1, h => by
    have h' := (Mem.wf_iff m).1 h
    exact Mem.wf_forget _ a n ((Mem.wf_iff _).2 ⟨h'.1, h'.2.1, mkeys_mdel _ _ h'.2.2.1, h'.2.2.2⟩)

theorem Mem.wf_forgetWhere (m : Mem) (p : Nat → Bool) (h : m.wf = true) : (m.forgetWhere p).wf = true := by
  have h' := (Mem.wf_iff m).1 h
  exact (Mem.wf_iff _).2 ⟨h'.1, h'.2.1, mkeys_filter _ _ h'.2.2.1, mkeys_filter _ _ h'.2.2.2.1, h'.2.2.2.2⟩

/-! Scratchpads. -/

/-- A run of bytes written in a scratchpad reads back, and every other scratchpad byte stays. -/
theorem Mem.byte_write_sp (m : Mem) (a b : Nat) (bs : List Byte) (h : m.wf = true) :
    (m.write (.sp a) bs).byte (.sp b) = if a ≤ b ∧ b < a + bs.length then some (bs.getD (b - a) 0) else m.byte (.sp b) := by
  rw [Mem.wf_iff] at h
  simp only [Mem.write, Mem.byte, mget_mputs 0 bs m.sp a b h.1]
  split <;> rfl

theorem Mem.byte_write_sp_hbm (m : Mem) (a b k : Nat) (bs : List Byte) :
    (m.write (.sp a) bs).byte (.hbm b k) = m.byte (.hbm b k) := rfl

/-! Device memory. -/

/-- The owner key a granule has after it is brought under a key. -/
theorem Mem.keyOf_own (m : Mem) (a k b : Nat) (h : m.wf = true) :
    (m.own a k).keyOf b = if b / 64 = a / 64 then k + 1 else m.keyOf b := by
  rw [Mem.wf_iff] at h
  unfold Mem.own
  split
  · rename_i h1
    split
    · rename_i h2; simpa [Mem.keyOf, h2] using h1
    · rfl
  · simp only [Mem.keyOf, mget_mput 0 m.hbmKey (a / 64) (b / 64) (k + 1) (mwf_keys h.2.2.2.2)]

/-- A byte once its granule is under a key: what another key wrote there is gone (R75). -/
theorem Mem.byte_own (m : Mem) (a k b j : Nat) (h : m.wf = true) :
    (m.own a k).byte (.hbm b j) =
      if b / 64 = a / 64 then (if m.keyOf a = k + 1 ∧ j = k then mfind m.hbm b else none) else m.byte (.hbm b j) := by
  have hk := Mem.keyOf_own m a k b h
  rw [Mem.wf_iff] at h
  simp only [Mem.byte, hk]
  by_cases hb : b / 64 = a / 64
  · simp only [hb, if_true]
    by_cases hj : j = k
    · subst hj
      by_cases h1 : m.keyOf a = j + 1
      · simp [Mem.own, h1]
      · simp [Mem.own, h1, mfind_wipeGran a b 64 m.hbm h.2.2.1, show a / 64 * 64 ≤ b by omega,
          show b < a / 64 * 64 + 64 by omega]
    · simp [hj, show ¬ k = j by omega]
  · simp only [hb, if_false]
    have : mfind (m.own a k).hbm b = mfind m.hbm b := by
      unfold Mem.own
      split
      · rfl
      · simp [mfind_wipeGran a b 64 m.hbm h.2.2.1, show ¬ (a / 64 * 64 ≤ b ∧ b < a / 64 * 64 + 64) by omega]
    rw [this]

/-- A run of bytes written in one granule of device memory: they read back under the key, and under the key alone; the bytes
beside them in the granule keep what the key had there; every other granule stays. -/
theorem Mem.byte_write_hbm (m : Mem) (a k b j : Nat) (bs : List Byte) (h : m.wf = true) (hg : a % 64 + bs.length ≤ 64) :
    (m.write (.hbm a k) bs).byte (.hbm b j) =
      if b / 64 = a / 64 then
        (if j = k then (if a ≤ b ∧ b < a + bs.length then bs[b - a]? else if m.keyOf a = k + 1 then mfind m.hbm b else none)
         else none)
      else m.byte (.hbm b j) := by
  have hk := Mem.keyOf_own m a k b h
  have ho := Mem.byte_own m a k b j h
  have e : (m.write (.hbm a k) bs).byte (.hbm b j) =
      if (m.own a k).keyOf b = j + 1 then (if a ≤ b ∧ b < a + bs.length then bs[b - a]? else mfind (m.own a k).hbm b) else none := by
    rw [← mfind_minss]; rfl
  have e' : (m.own a k).byte (.hbm b j) = if (m.own a k).keyOf b = j + 1 then mfind (m.own a k).hbm b else none := rfl
  rw [e]; rw [e'] at ho
  simp only [hk] at ho ⊢
  by_cases hb : b / 64 = a / 64
  · by_cases hj : j = k
    · subst hj
      simp only [hb, if_true, and_true] at ho ⊢
      split
      · rfl
      · exact ho
    · simp [hb, hj, show ¬ k = j by omega]
  · simp only [hb, if_false] at ho ⊢
    rw [← ho]
    by_cases hr : a ≤ b ∧ b < a + bs.length
    · omega
    · simp only [hr, if_false]

theorem Mem.byte_write_hbm_sp (m : Mem) (a k b : Nat) (bs : List Byte) :
    (m.write (.hbm a k) bs).byte (.sp b) = m.byte (.sp b) := by
  simp only [Mem.write, Mem.byte, Mem.own]; split <;> rfl

/-! Tags. -/

theorem Mem.byte_setTag (m : Mem) (a b : Nat) (t : Tag) : (m.setTag (.sp a) t).byte (.sp b) = m.byte (.sp b) := rfl

theorem Mem.tag_setTag_sp (m : Mem) (a b : Nat) (t : Tag) (h : m.wf = true) :
    (m.setTag (.sp a) t).tag (.sp b) = if b / 64 = a / 64 then some t else m.tag (.sp b) := by
  rw [Mem.wf_iff] at h
  simp only [Mem.setTag, Mem.tag, mget_mput 0 m.spTag (a / 64) (b / 64) t (mwf_keys h.2.1)]
  split <;> rfl

/-! Reads take no storage away. -/

theorem State.mem_readBytes : ∀ (n : Nat) (s : State) (p : Place), (s.readBytes p n).2.mem = s.mem
  | 0, _, _ => rfl
  | n + 1, s, p => by
    simp only [State.readBytes]
    split
    · exact State.mem_readBytes n s _
    · rw [State.mem_readBytes n s.draw]; rfl

end Sys2Proof.Machine
end

