-- ==== Sys2Proof/Laws/PerInstr.lean ====
section
/-! SUPPORT. For each instruction, that its word decodes to it (R163 to R191): one lemma for each constructor. -/

namespace Sys2Proof

/-- The word of a well-formed slot operation decodes, in the map of its slot, to the operation it was written from. -/
def Laws.RoundTrip.Statement (i : Instr) : Prop :=
  i.wf = true → match i.raw with | some (sl, r) => decodeSlot sl r.word = .ok i | none => True

namespace Laws.RoundTrip

set_option linter.unusedSimpArgs false
set_option Elab.async false

theorem nopB (g : Guard) : Statement (.nopB g) := by
  intro hw
  simp only [Instr.wf, Bool.and_eq_true, stepWf, EFlags.wf, scopeOk, decide_eq_true_eq] at hw
  show decodeSlot .b (rawOf 0x00#8 g 0#3 0#8 0#8 0#8 (0#24)).word = _
  rw [decodeSlot, Raw.ofWord_word]
  show decNopB _ = _
  simp (disch := decide) only [decNopB, rawOf, extract_append_hi, extract_append_lo, extract_all, Nat.sub_self, Nat.reduceAdd, Nat.reduceSub, getLsbD_append_lo, getLsbD_append_hi]
  simp_all [roleOf_code, viewOf_code, gregOf_code, need, stepOk, Raw.guard, toNat_pad2, toNat_pad11, toNat_pad1, scopeOk, casReg, BitVec.getLsbD_append, bind, Except.bind, pure, Except.pure]
theorem brT (g : Guard) (off : BitVec 24) : Statement (.brT g off) := by
  intro hw
  simp only [Instr.wf, Bool.and_eq_true, stepWf, EFlags.wf, scopeOk, decide_eq_true_eq] at hw
  show decodeSlot .b (rawOf 0x01#8 g 0#3 0#8 0#8 0#8 (off)).word = _
  rw [decodeSlot, Raw.ofWord_word]
  show decBrT _ = _
  simp (disch := decide) only [decBrT, rawOf, extract_append_hi, extract_append_lo, extract_all, Nat.sub_self, Nat.reduceAdd, Nat.reduceSub, getLsbD_append_lo, getLsbD_append_hi]
  simp_all [roleOf_code, viewOf_code, gregOf_code, need, stepOk, Raw.guard, toNat_pad2, toNat_pad11, toNat_pad1, scopeOk, casReg, BitVec.getLsbD_append, bind, Except.bind, pure, Except.pure]
theorem brF (g : Guard) (off : BitVec 24) : Statement (.brF g off) := by
  intro hw
  simp only [Instr.wf, Bool.and_eq_true, stepWf, EFlags.wf, scopeOk, decide_eq_true_eq] at hw
  show decodeSlot .b (rawOf 0x02#8 g 0#3 0#8 0#8 0#8 (off)).word = _
  rw [decodeSlot, Raw.ofWord_word]
  show decBrF _ = _
  simp (disch := decide) only [decBrF, rawOf, extract_append_hi, extract_append_lo, extract_all, Nat.sub_self, Nat.reduceAdd, Nat.reduceSub, getLsbD_append_lo, getLsbD_append_hi]
  simp_all [roleOf_code, viewOf_code, gregOf_code, need, stepOk, Raw.guard, toNat_pad2, toNat_pad11, toNat_pad1, scopeOk, casReg, BitVec.getLsbD_append, bind, Except.bind, pure, Except.pure]
theorem jmp (g : Guard) (off : BitVec 24) : Statement (.jmp g off) := by
  intro hw
  simp only [Instr.wf, Bool.and_eq_true, stepWf, EFlags.wf, scopeOk, decide_eq_true_eq] at hw
  show decodeSlot .b (rawOf 0x03#8 g 0#3 0#8 0#8 0#8 (off)).word = _
  rw [decodeSlot, Raw.ofWord_word]
  show decJmp _ = _
  simp (disch := decide) only [decJmp, rawOf, extract_append_hi, extract_append_lo, extract_all, Nat.sub_self, Nat.reduceAdd, Nat.reduceSub, getLsbD_append_lo, getLsbD_append_hi]
  simp_all [roleOf_code, viewOf_code, gregOf_code, need, stepOk, Raw.guard, toNat_pad2, toNat_pad11, toNat_pad1, scopeOk, casReg, BitVec.getLsbD_append, bind, Except.bind, pure, Except.pure]
theorem jmpi (g : Guard) (b : Opnd) : Statement (.jmpi g b) := by
  intro hw
  simp only [Instr.wf, Bool.and_eq_true, stepWf, EFlags.wf, scopeOk, decide_eq_true_eq] at hw
  show decodeSlot .b (rawOf 0x04#8 g 0#3 0#8 b.code 0#8 (0#24)).word = _
  rw [decodeSlot, Raw.ofWord_word]
  show decJmpi _ = _
  simp (disch := decide) only [decJmpi, rawOf, extract_append_hi, extract_append_lo, extract_all, Nat.sub_self, Nat.reduceAdd, Nat.reduceSub, getLsbD_append_lo, getLsbD_append_hi]
  simp_all [roleOf_code, viewOf_code, gregOf_code, need, stepOk, Raw.guard, toNat_pad2, toNat_pad11, toNat_pad1, scopeOk, casReg, BitVec.getLsbD_append, bind, Except.bind, pure, Except.pure]
theorem bsr (g : Guard) (off : BitVec 24) : Statement (.bsr g off) := by
  intro hw
  simp only [Instr.wf, Bool.and_eq_true, stepWf, EFlags.wf, scopeOk, decide_eq_true_eq] at hw
  show decodeSlot .b (rawOf 0x05#8 g 0#3 0#8 0#8 0#8 (off)).word = _
  rw [decodeSlot, Raw.ofWord_word]
  show decBsr _ = _
  simp (disch := decide) only [decBsr, rawOf, extract_append_hi, extract_append_lo, extract_all, Nat.sub_self, Nat.reduceAdd, Nat.reduceSub, getLsbD_append_lo, getLsbD_append_hi]
  simp_all [roleOf_code, viewOf_code, gregOf_code, need, stepOk, Raw.guard, toNat_pad2, toNat_pad11, toNat_pad1, scopeOk, casReg, BitVec.getLsbD_append, bind, Except.bind, pure, Except.pure]
theorem ret (g : Guard) : Statement (.ret g) := by
  intro hw
  simp only [Instr.wf, Bool.and_eq_true, stepWf, EFlags.wf, scopeOk, decide_eq_true_eq] at hw
  show decodeSlot .b (rawOf 0x06#8 g 0#3 0#8 0#8 0#8 (0#24)).word = _
  rw [decodeSlot, Raw.ofWord_word]
  show decRet _ = _
  simp (disch := decide) only [decRet, rawOf, extract_append_hi, extract_append_lo, extract_all, Nat.sub_self, Nat.reduceAdd, Nat.reduceSub, getLsbD_append_lo, getLsbD_append_hi]
  simp_all [roleOf_code, viewOf_code, gregOf_code, need, stepOk, Raw.guard, toNat_pad2, toNat_pad11, toNat_pad1, scopeOk, casReg, BitVec.getLsbD_append, bind, Except.bind, pure, Except.pure]
theorem loop (g : Guard) (lvl : BitVec 2) (n : Opnd) (imm : BitVec 24) : Statement (.loop g lvl n imm) := by
  intro hw
  simp only [Instr.wf, Bool.and_eq_true, stepWf, EFlags.wf, scopeOk, decide_eq_true_eq] at hw
  show decodeSlot .b (rawOf 0x08#8 g (0#1 ++ lvl) n.code 0#8 0#8 (imm)).word = _
  rw [decodeSlot, Raw.ofWord_word]
  show decLoop _ = _
  simp (disch := decide) only [decLoop, rawOf, extract_append_hi, extract_append_lo, extract_all, Nat.sub_self, Nat.reduceAdd, Nat.reduceSub, getLsbD_append_lo, getLsbD_append_hi]
  simp_all [roleOf_code, viewOf_code, gregOf_code, need, stepOk, Raw.guard, toNat_pad2, toNat_pad11, toNat_pad1, scopeOk, casReg, BitVec.getLsbD_append, bind, Except.bind, pure, Except.pure]
theorem loopRot (g : Guard) (lvl : BitVec 2) (n : Opnd) (s : Opnd) (imm : BitVec 24) : Statement (.loopRot g lvl n s imm) := by
  intro hw
  simp only [Instr.wf, Bool.and_eq_true, stepWf, EFlags.wf, scopeOk, decide_eq_true_eq] at hw
  show decodeSlot .b (rawOf 0x09#8 g (0#1 ++ lvl) n.code s.code 0#8 (imm)).word = _
  rw [decodeSlot, Raw.ofWord_word]
  show decLoopRot _ = _
  simp (disch := decide) only [decLoopRot, rawOf, extract_append_hi, extract_append_lo, extract_all, Nat.sub_self, Nat.reduceAdd, Nat.reduceSub, getLsbD_append_lo, getLsbD_append_hi]
  simp_all [roleOf_code, viewOf_code, gregOf_code, need, stepOk, Raw.guard, toNat_pad2, toNat_pad11, toNat_pad1, scopeOk, casReg, BitVec.getLsbD_append, bind, Except.bind, pure, Except.pure]
theorem wait (g : Guard) (imm : BitVec 24) : Statement (.wait g imm) := by
  intro hw
  simp only [Instr.wf, Bool.and_eq_true, stepWf, EFlags.wf, scopeOk, decide_eq_true_eq] at hw
  show decodeSlot .b (rawOf 0x10#8 g 0#3 0#8 0#8 0#8 (imm)).word = _
  rw [decodeSlot, Raw.ofWord_word]
  show decWait _ = _
  simp (disch := decide) only [decWait, rawOf, extract_append_hi, extract_append_lo, extract_all, Nat.sub_self, Nat.reduceAdd, Nat.reduceSub, getLsbD_append_lo, getLsbD_append_hi]
  simp_all [roleOf_code, viewOf_code, gregOf_code, need, stepOk, Raw.guard, toNat_pad2, toNat_pad11, toNat_pad1, scopeOk, casReg, BitVec.getLsbD_append, bind, Except.bind, pure, Except.pure]
theorem evwait (g : Guard) (d : Opnd) : Statement (.evwait g d) := by
  intro hw
  simp only [Instr.wf, Bool.and_eq_true, stepWf, EFlags.wf, scopeOk, decide_eq_true_eq] at hw
  show decodeSlot .b (rawOf 0x11#8 g 0#3 d.code 0#8 0#8 (0#24)).word = _
  rw [decodeSlot, Raw.ofWord_word]
  show decEvwait _ = _
  simp (disch := decide) only [decEvwait, rawOf, extract_append_hi, extract_append_lo, extract_all, Nat.sub_self, Nat.reduceAdd, Nat.reduceSub, getLsbD_append_lo, getLsbD_append_hi]
  simp_all [roleOf_code, viewOf_code, gregOf_code, need, stepOk, Raw.guard, toNat_pad2, toNat_pad11, toNat_pad1, scopeOk, casReg, BitVec.getLsbD_append, bind, Except.bind, pure, Except.pure]
theorem bar (g : Guard) (id : BitVec 4) : Statement (.bar g id) := by
  intro hw
  simp only [Instr.wf, Bool.and_eq_true, stepWf, EFlags.wf, scopeOk, decide_eq_true_eq] at hw
  show decodeSlot .b (rawOf 0x12#8 g 0#3 0#8 0#8 0#8 (0#20 ++ id)).word = _
  rw [decodeSlot, Raw.ofWord_word]
  show decBar _ = _
  simp (disch := decide) only [decBar, rawOf, extract_append_hi, extract_append_lo, extract_all, Nat.sub_self, Nat.reduceAdd, Nat.reduceSub, getLsbD_append_lo, getLsbD_append_hi]
  simp_all [roleOf_code, viewOf_code, gregOf_code, need, stepOk, Raw.guard, toNat_pad2, toNat_pad11, toNat_pad1, scopeOk, casReg, BitVec.getLsbD_append, bind, Except.bind, pure, Except.pure]
theorem yieldB (g : Guard) : Statement (.yieldB g) := by
  intro hw
  simp only [Instr.wf, Bool.and_eq_true, stepWf, EFlags.wf, scopeOk, decide_eq_true_eq] at hw
  show decodeSlot .b (rawOf 0x13#8 g 0#3 0#8 0#8 0#8 (0#24)).word = _
  rw [decodeSlot, Raw.ofWord_word]
  show decYieldB _ = _
  simp (disch := decide) only [decYieldB, rawOf, extract_append_hi, extract_append_lo, extract_all, Nat.sub_self, Nat.reduceAdd, Nat.reduceSub, getLsbD_append_lo, getLsbD_append_hi]
  simp_all [roleOf_code, viewOf_code, gregOf_code, need, stepOk, Raw.guard, toNat_pad2, toNat_pad11, toNat_pad1, scopeOk, casReg, BitVec.getLsbD_append, bind, Except.bind, pure, Except.pure]
theorem done (g : Guard) : Statement (.done g) := by
  intro hw
  simp only [Instr.wf, Bool.and_eq_true, stepWf, EFlags.wf, scopeOk, decide_eq_true_eq] at hw
  show decodeSlot .b (rawOf 0x14#8 g 0#3 0#8 0#8 0#8 (0#24)).word = _
  rw [decodeSlot, Raw.ofWord_word]
  show decDone _ = _
  simp (disch := decide) only [decDone, rawOf, extract_append_hi, extract_append_lo, extract_all, Nat.sub_self, Nat.reduceAdd, Nat.reduceSub, getLsbD_append_lo, getLsbD_append_hi]
  simp_all [roleOf_code, viewOf_code, gregOf_code, need, stepOk, Raw.guard, toNat_pad2, toNat_pad11, toNat_pad1, scopeOk, casReg, BitVec.getLsbD_append, bind, Except.bind, pure, Except.pure]
theorem trap (g : Guard) (code : BitVec 24) : Statement (.trap g code) := by
  intro hw
  simp only [Instr.wf, Bool.and_eq_true, stepWf, EFlags.wf, scopeOk, decide_eq_true_eq] at hw
  show decodeSlot .b (rawOf 0x18#8 g 0#3 0#8 0#8 0#8 (code)).word = _
  rw [decodeSlot, Raw.ofWord_word]
  show decTrap _ = _
  simp (disch := decide) only [decTrap, rawOf, extract_append_hi, extract_append_lo, extract_all, Nat.sub_self, Nat.reduceAdd, Nat.reduceSub, getLsbD_append_lo, getLsbD_append_hi]
  simp_all [roleOf_code, viewOf_code, gregOf_code, need, stepOk, Raw.guard, toNat_pad2, toNat_pad11, toNat_pad1, scopeOk, casReg, BitVec.getLsbD_append, bind, Except.bind, pure, Except.pure]
theorem eret (g : Guard) : Statement (.eret g) := by
  intro hw
  simp only [Instr.wf, Bool.and_eq_true, stepWf, EFlags.wf, scopeOk, decide_eq_true_eq] at hw
  show decodeSlot .b (rawOf 0x19#8 g 0#3 0#8 0#8 0#8 (0#24)).word = _
  rw [decodeSlot, Raw.ofWord_word]
  show decEret _ = _
  simp (disch := decide) only [decEret, rawOf, extract_append_hi, extract_append_lo, extract_all, Nat.sub_self, Nat.reduceAdd, Nat.reduceSub, getLsbD_append_lo, getLsbD_append_hi]
  simp_all [roleOf_code, viewOf_code, gregOf_code, need, stepOk, Raw.guard, toNat_pad2, toNat_pad11, toNat_pad1, scopeOk, casReg, BitVec.getLsbD_append, bind, Except.bind, pure, Except.pure]
theorem brk (g : Guard) (code : BitVec 24) : Statement (.brk g code) := by
  intro hw
  simp only [Instr.wf, Bool.and_eq_true, stepWf, EFlags.wf, scopeOk, decide_eq_true_eq] at hw
  show decodeSlot .b (rawOf 0x1a#8 g 0#3 0#8 0#8 0#8 (code)).word = _
  rw [decodeSlot, Raw.ofWord_word]
  show decBrk _ = _
  simp (disch := decide) only [decBrk, rawOf, extract_append_hi, extract_append_lo, extract_all, Nat.sub_self, Nat.reduceAdd, Nat.reduceSub, getLsbD_append_lo, getLsbD_append_hi]
  simp_all [roleOf_code, viewOf_code, gregOf_code, need, stepOk, Raw.guard, toNat_pad2, toNat_pad11, toNat_pad1, scopeOk, casReg, BitVec.getLsbD_append, bind, Except.bind, pure, Except.pure]
theorem cqclr (g : Guard) : Statement (.cqclr g) := by
  intro hw
  simp only [Instr.wf, Bool.and_eq_true, stepWf, EFlags.wf, scopeOk, decide_eq_true_eq] at hw
  show decodeSlot .b (rawOf 0x1c#8 g 0#3 0#8 0#8 0#8 (0#24)).word = _
  rw [decodeSlot, Raw.ofWord_word]
  show decCqclr _ = _
  simp (disch := decide) only [decCqclr, rawOf, extract_append_hi, extract_append_lo, extract_all, Nat.sub_self, Nat.reduceAdd, Nat.reduceSub, getLsbD_append_lo, getLsbD_append_hi]
  simp_all [roleOf_code, viewOf_code, gregOf_code, need, stepOk, Raw.guard, toNat_pad2, toNat_pad11, toNat_pad1, scopeOk, casReg, BitVec.getLsbD_append, bind, Except.bind, pure, Except.pure]
theorem add (g : Guard) (d : Opnd) (b : Opnd) (c : Opnd) : Statement (.add g d b c) := by
  intro hw
  simp only [Instr.wf, Bool.and_eq_true, stepWf, EFlags.wf, scopeOk, decide_eq_true_eq] at hw
  show decodeSlot .s (rawOf 0x00#8 g 0#3 d.code b.code c.code (0#20 ++ 0#4)).word = _
  rw [decodeSlot, Raw.ofWord_word]
  show decAdd _ = _
  simp (disch := decide) only [decAdd, rawOf, extract_append_hi, extract_append_lo, extract_all, Nat.sub_self, Nat.reduceAdd, Nat.reduceSub, getLsbD_append_lo, getLsbD_append_hi]
  simp_all [roleOf_code, viewOf_code, gregOf_code, need, stepOk, Raw.guard, toNat_pad2, toNat_pad11, toNat_pad1, scopeOk, casReg, BitVec.getLsbD_append, bind, Except.bind, pure, Except.pure]
theorem sub (g : Guard) (d : Opnd) (b : Opnd) (c : Opnd) : Statement (.sub g d b c) := by
  intro hw
  simp only [Instr.wf, Bool.and_eq_true, stepWf, EFlags.wf, scopeOk, decide_eq_true_eq] at hw
  show decodeSlot .s (rawOf 0x01#8 g 0#3 d.code b.code c.code (0#20 ++ 0#4)).word = _
  rw [decodeSlot, Raw.ofWord_word]
  show decSub _ = _
  simp (disch := decide) only [decSub, rawOf, extract_append_hi, extract_append_lo, extract_all, Nat.sub_self, Nat.reduceAdd, Nat.reduceSub, getLsbD_append_lo, getLsbD_append_hi]
  simp_all [roleOf_code, viewOf_code, gregOf_code, need, stepOk, Raw.guard, toNat_pad2, toNat_pad11, toNat_pad1, scopeOk, casReg, BitVec.getLsbD_append, bind, Except.bind, pure, Except.pure]
theorem mul (g : Guard) (d : Opnd) (b : Opnd) (c : Opnd) : Statement (.mul g d b c) := by
  intro hw
  simp only [Instr.wf, Bool.and_eq_true, stepWf, EFlags.wf, scopeOk, decide_eq_true_eq] at hw
  show decodeSlot .s (rawOf 0x02#8 g 0#3 d.code b.code c.code (0#20 ++ 0#4)).word = _
  rw [decodeSlot, Raw.ofWord_word]
  show decMul _ = _
  simp (disch := decide) only [decMul, rawOf, extract_append_hi, extract_append_lo, extract_all, Nat.sub_self, Nat.reduceAdd, Nat.reduceSub, getLsbD_append_lo, getLsbD_append_hi]
  simp_all [roleOf_code, viewOf_code, gregOf_code, need, stepOk, Raw.guard, toNat_pad2, toNat_pad11, toNat_pad1, scopeOk, casReg, BitVec.getLsbD_append, bind, Except.bind, pure, Except.pure]
theorem mulh (g : Guard) (nat : BitVec 1) (d : Opnd) (b : Opnd) (c : Opnd) : Statement (.mulh g nat d b c) := by
  intro hw
  simp only [Instr.wf, Bool.and_eq_true, stepWf, EFlags.wf, scopeOk, decide_eq_true_eq] at hw
  show decodeSlot .s (rawOf 0x03#8 g (0#2 ++ nat) d.code b.code c.code (0#20 ++ 0#4)).word = _
  rw [decodeSlot, Raw.ofWord_word]
  show decMulh _ = _
  simp (disch := decide) only [decMulh, rawOf, extract_append_hi, extract_append_lo, extract_all, Nat.sub_self, Nat.reduceAdd, Nat.reduceSub, getLsbD_append_lo, getLsbD_append_hi]
  simp_all [roleOf_code, viewOf_code, gregOf_code, need, stepOk, Raw.guard, toNat_pad2, toNat_pad11, toNat_pad1, toNat_pad1_le, scopeOk, casReg, BitVec.getLsbD_append, bind, Except.bind, pure, Except.pure]
theorem divs (g : Guard) (d : Opnd) (b : Opnd) (c : Opnd) : Statement (.divs g d b c) := by
  intro hw
  simp only [Instr.wf, Bool.and_eq_true, stepWf, EFlags.wf, scopeOk, decide_eq_true_eq] at hw
  show decodeSlot .s (rawOf 0x04#8 g 0#3 d.code b.code c.code (0#19 ++ 0#1 ++ 0#4)).word = _
  rw [decodeSlot, Raw.ofWord_word]
  show (if BitVec.extractLsb' 4 1 _ = 0 then decDivs _ else decRems _) = _
  rw [if_pos (by simp (disch := decide) only [rawOf, extract_append_hi, extract_append_lo, extract_all, Nat.sub_self, Nat.reduceAdd, Nat.reduceSub]; rfl)]
  simp (disch := decide) only [decDivs, rawOf, extract_append_hi, extract_append_lo, extract_all, Nat.sub_self, Nat.reduceAdd, Nat.reduceSub, getLsbD_append_lo, getLsbD_append_hi]
  simp_all [roleOf_code, viewOf_code, gregOf_code, need, stepOk, Raw.guard, toNat_pad2, toNat_pad11, toNat_pad1, scopeOk, casReg, BitVec.getLsbD_append, bind, Except.bind, pure, Except.pure]
theorem rems (g : Guard) (d : Opnd) (b : Opnd) (c : Opnd) : Statement (.rems g d b c) := by
  intro hw
  simp only [Instr.wf, Bool.and_eq_true, stepWf, EFlags.wf, scopeOk, decide_eq_true_eq] at hw
  show decodeSlot .s (rawOf 0x04#8 g 0#3 d.code b.code c.code (0#19 ++ 1#1 ++ 0#4)).word = _
  rw [decodeSlot, Raw.ofWord_word]
  show (if BitVec.extractLsb' 4 1 _ = 0 then decDivs _ else decRems _) = _
  rw [if_neg (by simp (disch := decide) only [rawOf, extract_append_hi, extract_append_lo, extract_all, Nat.sub_self, Nat.reduceAdd, Nat.reduceSub]; decide)]
  simp (disch := decide) only [decRems, rawOf, extract_append_hi, extract_append_lo, extract_all, Nat.sub_self, Nat.reduceAdd, Nat.reduceSub, getLsbD_append_lo, getLsbD_append_hi]
  simp_all [roleOf_code, viewOf_code, gregOf_code, need, stepOk, Raw.guard, toNat_pad2, toNat_pad11, toNat_pad1, scopeOk, casReg, BitVec.getLsbD_append, bind, Except.bind, pure, Except.pure]
theorem divn (g : Guard) (d : Opnd) (b : Opnd) (c : Opnd) : Statement (.divn g d b c) := by
  intro hw
  simp only [Instr.wf, Bool.and_eq_true, stepWf, EFlags.wf, scopeOk, decide_eq_true_eq] at hw
  show decodeSlot .s (rawOf 0x05#8 g 0#3 d.code b.code c.code (0#19 ++ 0#1 ++ 0#4)).word = _
  rw [decodeSlot, Raw.ofWord_word]
  show (if BitVec.extractLsb' 4 1 _ = 0 then decDivn _ else decRemn _) = _
  rw [if_pos (by simp (disch := decide) only [rawOf, extract_append_hi, extract_append_lo, extract_all, Nat.sub_self, Nat.reduceAdd, Nat.reduceSub]; rfl)]
  simp (disch := decide) only [decDivn, rawOf, extract_append_hi, extract_append_lo, extract_all, Nat.sub_self, Nat.reduceAdd, Nat.reduceSub, getLsbD_append_lo, getLsbD_append_hi]
  simp_all [roleOf_code, viewOf_code, gregOf_code, need, stepOk, Raw.guard, toNat_pad2, toNat_pad11, toNat_pad1, scopeOk, casReg, BitVec.getLsbD_append, bind, Except.bind, pure, Except.pure]
theorem remn (g : Guard) (d : Opnd) (b : Opnd) (c : Opnd) : Statement (.remn g d b c) := by
  intro hw
  simp only [Instr.wf, Bool.and_eq_true, stepWf, EFlags.wf, scopeOk, decide_eq_true_eq] at hw
  show decodeSlot .s (rawOf 0x05#8 g 0#3 d.code b.code c.code (0#19 ++ 1#1 ++ 0#4)).word = _
  rw [decodeSlot, Raw.ofWord_word]
  show (if BitVec.extractLsb' 4 1 _ = 0 then decDivn _ else decRemn _) = _
  rw [if_neg (by simp (disch := decide) only [rawOf, extract_append_hi, extract_append_lo, extract_all, Nat.sub_self, Nat.reduceAdd, Nat.reduceSub]; decide)]
  simp (disch := decide) only [decRemn, rawOf, extract_append_hi, extract_append_lo, extract_all, Nat.sub_self, Nat.reduceAdd, Nat.reduceSub, getLsbD_append_lo, getLsbD_append_hi]
  simp_all [roleOf_code, viewOf_code, gregOf_code, need, stepOk, Raw.guard, toNat_pad2, toNat_pad11, toNat_pad1, scopeOk, casReg, BitVec.getLsbD_append, bind, Except.bind, pure, Except.pure]
theorem andS (g : Guard) (d : Opnd) (b : Opnd) (c : Opnd) : Statement (.andS g d b c) := by
  intro hw
  simp only [Instr.wf, Bool.and_eq_true, stepWf, EFlags.wf, scopeOk, decide_eq_true_eq] at hw
  show decodeSlot .s (rawOf 0x08#8 g 0#3 d.code b.code c.code (0#20 ++ 0#4)).word = _
  rw [decodeSlot, Raw.ofWord_word]
  show decAndS _ = _
  simp (disch := decide) only [decAndS, rawOf, extract_append_hi, extract_append_lo, extract_all, Nat.sub_self, Nat.reduceAdd, Nat.reduceSub, getLsbD_append_lo, getLsbD_append_hi]
  simp_all [roleOf_code, viewOf_code, gregOf_code, need, stepOk, Raw.guard, toNat_pad2, toNat_pad11, toNat_pad1, scopeOk, casReg, BitVec.getLsbD_append, bind, Except.bind, pure, Except.pure]
theorem orS (g : Guard) (d : Opnd) (b : Opnd) (c : Opnd) : Statement (.orS g d b c) := by
  intro hw
  simp only [Instr.wf, Bool.and_eq_true, stepWf, EFlags.wf, scopeOk, decide_eq_true_eq] at hw
  show decodeSlot .s (rawOf 0x09#8 g 0#3 d.code b.code c.code (0#20 ++ 0#4)).word = _
  rw [decodeSlot, Raw.ofWord_word]
  show decOrS _ = _
  simp (disch := decide) only [decOrS, rawOf, extract_append_hi, extract_append_lo, extract_all, Nat.sub_self, Nat.reduceAdd, Nat.reduceSub, getLsbD_append_lo, getLsbD_append_hi]
  simp_all [roleOf_code, viewOf_code, gregOf_code, need, stepOk, Raw.guard, toNat_pad2, toNat_pad11, toNat_pad1, scopeOk, casReg, BitVec.getLsbD_append, bind, Except.bind, pure, Except.pure]
theorem xorS (g : Guard) (d : Opnd) (b : Opnd) (c : Opnd) : Statement (.xorS g d b c) := by
  intro hw
  simp only [Instr.wf, Bool.and_eq_true, stepWf, EFlags.wf, scopeOk, decide_eq_true_eq] at hw
  show decodeSlot .s (rawOf 0x0a#8 g 0#3 d.code b.code c.code (0#20 ++ 0#4)).word = _
  rw [decodeSlot, Raw.ofWord_word]
  show decXorS _ = _
  simp (disch := decide) only [decXorS, rawOf, extract_append_hi, extract_append_lo, extract_all, Nat.sub_self, Nat.reduceAdd, Nat.reduceSub, getLsbD_append_lo, getLsbD_append_hi]
  simp_all [roleOf_code, viewOf_code, gregOf_code, need, stepOk, Raw.guard, toNat_pad2, toNat_pad11, toNat_pad1, scopeOk, casReg, BitVec.getLsbD_append, bind, Except.bind, pure, Except.pure]
theorem shl (g : Guard) (d : Opnd) (b : Opnd) (c : Opnd) : Statement (.shl g d b c) := by
  intro hw
  simp only [Instr.wf, Bool.and_eq_true, stepWf, EFlags.wf, scopeOk, decide_eq_true_eq] at hw
  show decodeSlot .s (rawOf 0x0c#8 g 0#3 d.code b.code c.code (0#20 ++ 0#4)).word = _
  rw [decodeSlot, Raw.ofWord_word]
  show decShl _ = _
  simp (disch := decide) only [decShl, rawOf, extract_append_hi, extract_append_lo, extract_all, Nat.sub_self, Nat.reduceAdd, Nat.reduceSub, getLsbD_append_lo, getLsbD_append_hi]
  simp_all [roleOf_code, viewOf_code, gregOf_code, need, stepOk, Raw.guard, toNat_pad2, toNat_pad11, toNat_pad1, scopeOk, casReg, BitVec.getLsbD_append, bind, Except.bind, pure, Except.pure]
theorem shr (g : Guard) (d : Opnd) (b : Opnd) (c : Opnd) : Statement (.shr g d b c) := by
  intro hw
  simp only [Instr.wf, Bool.and_eq_true, stepWf, EFlags.wf, scopeOk, decide_eq_true_eq] at hw
  show decodeSlot .s (rawOf 0x0d#8 g 0#3 d.code b.code c.code (0#20 ++ 0#4)).word = _
  rw [decodeSlot, Raw.ofWord_word]
  show decShr _ = _
  simp (disch := decide) only [decShr, rawOf, extract_append_hi, extract_append_lo, extract_all, Nat.sub_self, Nat.reduceAdd, Nat.reduceSub, getLsbD_append_lo, getLsbD_append_hi]
  simp_all [roleOf_code, viewOf_code, gregOf_code, need, stepOk, Raw.guard, toNat_pad2, toNat_pad11, toNat_pad1, scopeOk, casReg, BitVec.getLsbD_append, bind, Except.bind, pure, Except.pure]
theorem sra (g : Guard) (d : Opnd) (b : Opnd) (c : Opnd) : Statement (.sra g d b c) := by
  intro hw
  simp only [Instr.wf, Bool.and_eq_true, stepWf, EFlags.wf, scopeOk, decide_eq_true_eq] at hw
  show decodeSlot .s (rawOf 0x0e#8 g 0#3 d.code b.code c.code (0#20 ++ 0#4)).word = _
  rw [decodeSlot, Raw.ofWord_word]
  show decSra _ = _
  simp (disch := decide) only [decSra, rawOf, extract_append_hi, extract_append_lo, extract_all, Nat.sub_self, Nat.reduceAdd, Nat.reduceSub, getLsbD_append_lo, getLsbD_append_hi]
  simp_all [roleOf_code, viewOf_code, gregOf_code, need, stepOk, Raw.guard, toNat_pad2, toNat_pad11, toNat_pad1, scopeOk, casReg, BitVec.getLsbD_append, bind, Except.bind, pure, Except.pure]
theorem min (g : Guard) (d : Opnd) (b : Opnd) (c : Opnd) : Statement (.min g d b c) := by
  intro hw
  simp only [Instr.wf, Bool.and_eq_true, stepWf, EFlags.wf, scopeOk, decide_eq_true_eq] at hw
  show decodeSlot .s (rawOf 0x10#8 g 0#3 d.code b.code c.code (0#20 ++ 0#4)).word = _
  rw [decodeSlot, Raw.ofWord_word]
  show decMin _ = _
  simp (disch := decide) only [decMin, rawOf, extract_append_hi, extract_append_lo, extract_all, Nat.sub_self, Nat.reduceAdd, Nat.reduceSub, getLsbD_append_lo, getLsbD_append_hi]
  simp_all [roleOf_code, viewOf_code, gregOf_code, need, stepOk, Raw.guard, toNat_pad2, toNat_pad11, toNat_pad1, scopeOk, casReg, BitVec.getLsbD_append, bind, Except.bind, pure, Except.pure]
theorem max (g : Guard) (d : Opnd) (b : Opnd) (c : Opnd) : Statement (.max g d b c) := by
  intro hw
  simp only [Instr.wf, Bool.and_eq_true, stepWf, EFlags.wf, scopeOk, decide_eq_true_eq] at hw
  show decodeSlot .s (rawOf 0x11#8 g 0#3 d.code b.code c.code (0#20 ++ 0#4)).word = _
  rw [decodeSlot, Raw.ofWord_word]
  show decMax _ = _
  simp (disch := decide) only [decMax, rawOf, extract_append_hi, extract_append_lo, extract_all, Nat.sub_self, Nat.reduceAdd, Nat.reduceSub, getLsbD_append_lo, getLsbD_append_hi]
  simp_all [roleOf_code, viewOf_code, gregOf_code, need, stepOk, Raw.guard, toNat_pad2, toNat_pad11, toNat_pad1, scopeOk, casReg, BitVec.getLsbD_append, bind, Except.bind, pure, Except.pure]
theorem minn (g : Guard) (d : Opnd) (b : Opnd) (c : Opnd) : Statement (.minn g d b c) := by
  intro hw
  simp only [Instr.wf, Bool.and_eq_true, stepWf, EFlags.wf, scopeOk, decide_eq_true_eq] at hw
  show decodeSlot .s (rawOf 0x12#8 g 0#3 d.code b.code c.code (0#20 ++ 0#4)).word = _
  rw [decodeSlot, Raw.ofWord_word]
  show decMinn _ = _
  simp (disch := decide) only [decMinn, rawOf, extract_append_hi, extract_append_lo, extract_all, Nat.sub_self, Nat.reduceAdd, Nat.reduceSub, getLsbD_append_lo, getLsbD_append_hi]
  simp_all [roleOf_code, viewOf_code, gregOf_code, need, stepOk, Raw.guard, toNat_pad2, toNat_pad11, toNat_pad1, scopeOk, casReg, BitVec.getLsbD_append, bind, Except.bind, pure, Except.pure]
theorem maxn (g : Guard) (d : Opnd) (b : Opnd) (c : Opnd) : Statement (.maxn g d b c) := by
  intro hw
  simp only [Instr.wf, Bool.and_eq_true, stepWf, EFlags.wf, scopeOk, decide_eq_true_eq] at hw
  show decodeSlot .s (rawOf 0x13#8 g 0#3 d.code b.code c.code (0#20 ++ 0#4)).word = _
  rw [decodeSlot, Raw.ofWord_word]
  show decMaxn _ = _
  simp (disch := decide) only [decMaxn, rawOf, extract_append_hi, extract_append_lo, extract_all, Nat.sub_self, Nat.reduceAdd, Nat.reduceSub, getLsbD_append_lo, getLsbD_append_hi]
  simp_all [roleOf_code, viewOf_code, gregOf_code, need, stepOk, Raw.guard, toNat_pad2, toNat_pad11, toNat_pad1, scopeOk, casReg, BitVec.getLsbD_append, bind, Except.bind, pure, Except.pure]
theorem clz (g : Guard) (d : Opnd) (b : Opnd) : Statement (.clz g d b) := by
  intro hw
  simp only [Instr.wf, Bool.and_eq_true, stepWf, EFlags.wf, scopeOk, decide_eq_true_eq] at hw
  show decodeSlot .s (rawOf 0x14#8 g 0#3 d.code b.code 0#8 (0#20 ++ 0#4)).word = _
  rw [decodeSlot, Raw.ofWord_word]
  show decClz _ = _
  simp (disch := decide) only [decClz, rawOf, extract_append_hi, extract_append_lo, extract_all, Nat.sub_self, Nat.reduceAdd, Nat.reduceSub, getLsbD_append_lo, getLsbD_append_hi]
  simp_all [roleOf_code, viewOf_code, gregOf_code, need, stepOk, Raw.guard, toNat_pad2, toNat_pad11, toNat_pad1, scopeOk, casReg, BitVec.getLsbD_append, bind, Except.bind, pure, Except.pure]
theorem popc (g : Guard) (d : Opnd) (b : Opnd) : Statement (.popc g d b) := by
  intro hw
  simp only [Instr.wf, Bool.and_eq_true, stepWf, EFlags.wf, scopeOk, decide_eq_true_eq] at hw
  show decodeSlot .s (rawOf 0x15#8 g 0#3 d.code b.code 0#8 (0#20 ++ 0#4)).word = _
  rw [decodeSlot, Raw.ofWord_word]
  show decPopc _ = _
  simp (disch := decide) only [decPopc, rawOf, extract_append_hi, extract_append_lo, extract_all, Nat.sub_self, Nat.reduceAdd, Nat.reduceSub, getLsbD_append_lo, getLsbD_append_hi]
  simp_all [roleOf_code, viewOf_code, gregOf_code, need, stepOk, Raw.guard, toNat_pad2, toNat_pad11, toNat_pad1, scopeOk, casReg, BitVec.getLsbD_append, bind, Except.bind, pure, Except.pure]
theorem li (g : Guard) (d : Opnd) (imm : BitVec 24) : Statement (.li g d imm) := by
  intro hw
  simp only [Instr.wf, Bool.and_eq_true, stepWf, EFlags.wf, scopeOk, decide_eq_true_eq] at hw
  show decodeSlot .s (rawOf 0x18#8 g 0#3 d.code 0#8 0#8 (imm)).word = _
  rw [decodeSlot, Raw.ofWord_word]
  show decLi _ = _
  simp (disch := decide) only [decLi, rawOf, extract_append_hi, extract_append_lo, extract_all, Nat.sub_self, Nat.reduceAdd, Nat.reduceSub, getLsbD_append_lo, getLsbD_append_hi]
  simp_all [roleOf_code, viewOf_code, gregOf_code, need, stepOk, Raw.guard, toNat_pad2, toNat_pad11, toNat_pad1, scopeOk, casReg, BitVec.getLsbD_append, bind, Except.bind, pure, Except.pure]
theorem lihM (g : Guard) (d : BitVec 5) (imm : BitVec 24) : Statement (.lihM g d imm) := by
  intro hw
  simp only [Instr.wf, Bool.and_eq_true, stepWf, EFlags.wf, scopeOk, decide_eq_true_eq] at hw
  show decodeSlot .s (rawOf 0x19#8 g 0#3 (0#3 ++ d) 0#8 0#8 (imm)).word = _
  rw [decodeSlot, Raw.ofWord_word]
  show decLihM _ = _
  simp (disch := decide) only [decLihM, rawOf, extract_append_hi, extract_append_lo, extract_all, Nat.sub_self, Nat.reduceAdd, Nat.reduceSub, getLsbD_append_lo, getLsbD_append_hi]
  simp_all [roleOf_code, viewOf_code, gregOf_code, need, stepOk, Raw.guard, toNat_pad2, toNat_pad11, toNat_pad1, scopeOk, casReg, BitVec.getLsbD_append, bind, Except.bind, pure, Except.pure]
theorem lihH (g : Guard) (d : BitVec 5) (imm : BitVec 16) : Statement (.lihH g d imm) := by
  intro hw
  simp only [Instr.wf, Bool.and_eq_true, stepWf, EFlags.wf, scopeOk, decide_eq_true_eq] at hw
  show decodeSlot .s (rawOf 0x19#8 g 1#3 (0#3 ++ d) 0#8 0#8 (0#8 ++ imm)).word = _
  rw [decodeSlot, Raw.ofWord_word]
  show decLihH _ = _
  simp (disch := decide) only [decLihH, rawOf, extract_append_hi, extract_append_lo, extract_all, Nat.sub_self, Nat.reduceAdd, Nat.reduceSub, getLsbD_append_lo, getLsbD_append_hi]
  simp_all [roleOf_code, viewOf_code, gregOf_code, need, stepOk, Raw.guard, toNat_pad2, toNat_pad11, toNat_pad1, scopeOk, casReg, BitVec.getLsbD_append, bind, Except.bind, pure, Except.pure]
theorem mov (g : Guard) (d : Opnd) (b : Opnd) : Statement (.mov g d b) := by
  intro hw
  simp only [Instr.wf, Bool.and_eq_true, stepWf, EFlags.wf, scopeOk, decide_eq_true_eq] at hw
  show decodeSlot .s (rawOf 0x1a#8 g 0#3 d.code b.code 0#8 (0#20 ++ 0#4)).word = _
  rw [decodeSlot, Raw.ofWord_word]
  show decMov _ = _
  simp (disch := decide) only [decMov, rawOf, extract_append_hi, extract_append_lo, extract_all, Nat.sub_self, Nat.reduceAdd, Nat.reduceSub, getLsbD_append_lo, getLsbD_append_hi]
  simp_all [roleOf_code, viewOf_code, gregOf_code, need, stepOk, Raw.guard, toNat_pad2, toNat_pad11, toNat_pad1, scopeOk, casReg, BitVec.getLsbD_append, bind, Except.bind, pure, Except.pure]
theorem sel (g : Guard) (d : Opnd) (b : Opnd) (c : Opnd) (neg : BitVec 1) (p : BitVec 4) : Statement (.sel g d b c neg p) := by
  intro hw
  simp only [Instr.wf, Bool.and_eq_true, stepWf, EFlags.wf, scopeOk, decide_eq_true_eq] at hw
  show decodeSlot .s (rawOf 0x1b#8 g 0#3 d.code b.code c.code (0#8 ++ 0#7 ++ neg ++ p ++ 0#4)).word = _
  rw [decodeSlot, Raw.ofWord_word]
  show decSel _ = _
  simp (disch := decide) only [decSel, rawOf, extract_append_hi, extract_append_lo, extract_all, Nat.sub_self, Nat.reduceAdd, Nat.reduceSub, getLsbD_append_lo, getLsbD_append_hi]
  simp_all [roleOf_code, viewOf_code, gregOf_code, need, stepOk, Raw.guard, toNat_pad2, toNat_pad11, toNat_pad1, scopeOk, casReg, BitVec.getLsbD_append, bind, Except.bind, pure, Except.pure]
theorem cmp (g : Guard) (cc : BitVec 3) (d : CmpDst) (b : Opnd) (c : Opnd) : Statement (.cmp g cc d b c) := by
  intro hw
  cases d with
  | val d =>
    simp only [Instr.wf, Bool.and_eq_true] at hw
    show decodeSlot .s (rawOf 0x20#8 g cc d.code b.code c.code 0#24).word = _
    rw [decodeSlot, Raw.ofWord_word]
    show decCmp _ = _
    simp (disch := decide) only [decCmp, rawOf, extract_append_hi, extract_append_lo, extract_all, Nat.sub_self, Nat.reduceAdd, Nat.reduceSub, getLsbD_append_lo, getLsbD_append_hi]
    simp_all [roleOf_code, viewOf_code, gregOf_code, need, Raw.guard, toNat_pad5_lt, bind, Except.bind, pure, Except.pure]
  | pred n =>
    simp only [Instr.wf, Bool.and_eq_true] at hw
    show decodeSlot .s (rawOf 0x20#8 g cc 0#8 b.code c.code (0#8 ++ 0#4 ++ n ++ 0#3 ++ 1#1 ++ 0#4)).word = _
    rw [decodeSlot, Raw.ofWord_word]
    show decCmp _ = _
    simp (disch := decide) only [decCmp, rawOf, extract_append_hi, extract_append_lo, extract_all, Nat.sub_self, Nat.reduceAdd, Nat.reduceSub, getLsbD_append_lo, getLsbD_append_hi]
    simp_all [roleOf_code, viewOf_code, gregOf_code, need, Raw.guard, toNat_pad5_lt, bind, Except.bind, pure, Except.pure]
theorem setp (g : Guard) (neg : BitVec 1) (p : BitVec 4) (b : SetpSrc) (c : Opnd) : Statement (.setp g neg p b c) := by
  intro hw
  cases b with
  | val o =>
    simp only [Instr.wf, Bool.and_eq_true] at hw
    show decodeSlot .s (rawOf 0x21#8 g 0#3 0#8 o.code c.code (0#8 ++ 0#1 ++ 0#6 ++ neg ++ p ++ 0#4)).word = _
    rw [decodeSlot, Raw.ofWord_word]
    show decSetp _ = _
    simp (disch := decide) only [decSetp, rawOf, extract_append_hi, extract_append_lo, extract_all, Nat.sub_self, Nat.reduceAdd, Nat.reduceSub, getLsbD_append_lo, getLsbD_append_hi]
    simp_all [roleOf_code, viewOf_code, gregOf_code, need, Raw.guard, toNat_pad5_lt, bind, Except.bind, pure, Except.pure]
  | ts k =>
    simp only [Instr.wf, Bool.and_eq_true] at hw
    show decodeSlot .s (rawOf 0x21#8 g 0#3 0#8 (0#5 ++ k) c.code (0#8 ++ 1#1 ++ 0#6 ++ neg ++ p ++ 0#4)).word = _
    rw [decodeSlot, Raw.ofWord_word]
    show decSetp _ = _
    simp (disch := decide) only [decSetp, rawOf, extract_append_hi, extract_append_lo, extract_all, Nat.sub_self, Nat.reduceAdd, Nat.reduceSub, getLsbD_append_lo, getLsbD_append_hi]
    simp_all [roleOf_code, viewOf_code, gregOf_code, need, Raw.guard, toNat_pad5_lt, bind, Except.bind, pure, Except.pure]
theorem pand (g : Guard) (pb : BitVec 4) (pa : BitVec 4) (pd : BitVec 4) : Statement (.pand g pb pa pd) := by
  intro hw
  simp only [Instr.wf, Bool.and_eq_true, stepWf, EFlags.wf, scopeOk, decide_eq_true_eq] at hw
  show decodeSlot .s (rawOf 0x22#8 g 0#3 0#8 0#8 0#8 (0#8 ++ pb ++ pa ++ pd ++ 0#4)).word = _
  rw [decodeSlot, Raw.ofWord_word]
  show decPand _ = _
  simp (disch := decide) only [decPand, rawOf, extract_append_hi, extract_append_lo, extract_all, Nat.sub_self, Nat.reduceAdd, Nat.reduceSub, getLsbD_append_lo, getLsbD_append_hi]
  simp_all [roleOf_code, viewOf_code, gregOf_code, need, stepOk, Raw.guard, toNat_pad2, toNat_pad11, toNat_pad1, scopeOk, casReg, BitVec.getLsbD_append, bind, Except.bind, pure, Except.pure]
theorem por (g : Guard) (pb : BitVec 4) (pa : BitVec 4) (pd : BitVec 4) : Statement (.por g pb pa pd) := by
  intro hw
  simp only [Instr.wf, Bool.and_eq_true, stepWf, EFlags.wf, scopeOk, decide_eq_true_eq] at hw
  show decodeSlot .s (rawOf 0x23#8 g 0#3 0#8 0#8 0#8 (0#8 ++ pb ++ pa ++ pd ++ 0#4)).word = _
  rw [decodeSlot, Raw.ofWord_word]
  show decPor _ = _
  simp (disch := decide) only [decPor, rawOf, extract_append_hi, extract_append_lo, extract_all, Nat.sub_self, Nat.reduceAdd, Nat.reduceSub, getLsbD_append_lo, getLsbD_append_hi]
  simp_all [roleOf_code, viewOf_code, gregOf_code, need, stepOk, Raw.guard, toNat_pad2, toNat_pad11, toNat_pad1, scopeOk, casReg, BitVec.getLsbD_append, bind, Except.bind, pure, Except.pure]
theorem pxor (g : Guard) (pb : BitVec 4) (pa : BitVec 4) (pd : BitVec 4) : Statement (.pxor g pb pa pd) := by
  intro hw
  simp only [Instr.wf, Bool.and_eq_true, stepWf, EFlags.wf, scopeOk, decide_eq_true_eq] at hw
  show decodeSlot .s (rawOf 0x24#8 g 0#3 0#8 0#8 0#8 (0#8 ++ pb ++ pa ++ pd ++ 0#4)).word = _
  rw [decodeSlot, Raw.ofWord_word]
  show decPxor _ = _
  simp (disch := decide) only [decPxor, rawOf, extract_append_hi, extract_append_lo, extract_all, Nat.sub_self, Nat.reduceAdd, Nat.reduceSub, getLsbD_append_lo, getLsbD_append_hi]
  simp_all [roleOf_code, viewOf_code, gregOf_code, need, stepOk, Raw.guard, toNat_pad2, toNat_pad11, toNat_pad1, scopeOk, casReg, BitVec.getLsbD_append, bind, Except.bind, pure, Except.pure]
theorem pnot (g : Guard) (pa : BitVec 4) (pd : BitVec 4) : Statement (.pnot g pa pd) := by
  intro hw
  simp only [Instr.wf, Bool.and_eq_true, stepWf, EFlags.wf, scopeOk, decide_eq_true_eq] at hw
  show decodeSlot .s (rawOf 0x25#8 g 0#3 0#8 0#8 0#8 (0#8 ++ 0#4 ++ pa ++ pd ++ 0#4)).word = _
  rw [decodeSlot, Raw.ofWord_word]
  show decPnot _ = _
  simp (disch := decide) only [decPnot, rawOf, extract_append_hi, extract_append_lo, extract_all, Nat.sub_self, Nat.reduceAdd, Nat.reduceSub, getLsbD_append_lo, getLsbD_append_hi]
  simp_all [roleOf_code, viewOf_code, gregOf_code, need, stepOk, Raw.guard, toNat_pad2, toNat_pad11, toNat_pad1, scopeOk, casReg, BitVec.getLsbD_append, bind, Except.bind, pure, Except.pure]
theorem agset (g : Guard) (port : Opnd) (v : BitVec 5) : Statement (.agset g port v) := by
  intro hw
  simp only [Instr.wf, Bool.and_eq_true, stepWf, EFlags.wf, scopeOk, decide_eq_true_eq] at hw
  show decodeSlot .s (rawOf 0x30#8 g 0#3 port.code (1#3 ++ v) 0#8 (0#24)).word = _
  rw [decodeSlot, Raw.ofWord_word]
  show decAgset _ = _
  simp (disch := decide) only [decAgset, rawOf, extract_append_hi, extract_append_lo, extract_all, Nat.sub_self, Nat.reduceAdd, Nat.reduceSub, getLsbD_append_lo, getLsbD_append_hi]
  simp_all [roleOf_code, viewOf_code, gregOf_code, need, stepOk, Raw.guard, toNat_pad2, toNat_pad11, toNat_pad1, scopeOk, casReg, BitVec.getLsbD_append, bind, Except.bind, pure, Except.pure]
theorem agpos (g : Guard) (d : Opnd) (port : Opnd) : Statement (.agpos g d port) := by
  intro hw
  simp only [Instr.wf, Bool.and_eq_true, stepWf, EFlags.wf, scopeOk, decide_eq_true_eq] at hw
  show decodeSlot .s (rawOf 0x31#8 g 0#3 d.code port.code 0#8 (0#24)).word = _
  rw [decodeSlot, Raw.ofWord_word]
  show decAgpos _ = _
  simp (disch := decide) only [decAgpos, rawOf, extract_append_hi, extract_append_lo, extract_all, Nat.sub_self, Nat.reduceAdd, Nat.reduceSub, getLsbD_append_lo, getLsbD_append_hi]
  simp_all [roleOf_code, viewOf_code, gregOf_code, need, stepOk, Raw.guard, toNat_pad2, toNat_pad11, toNat_pad1, scopeOk, casReg, BitVec.getLsbD_append, bind, Except.bind, pure, Except.pure]
theorem view (g : Guard) (v : BitVec 5) (b : Opnd) : Statement (.view g v b) := by
  intro hw
  simp only [Instr.wf, Bool.and_eq_true, stepWf, EFlags.wf, scopeOk, decide_eq_true_eq] at hw
  show decodeSlot .s (rawOf 0x32#8 g 0#3 (1#3 ++ v) b.code 0#8 (0#24)).word = _
  rw [decodeSlot, Raw.ofWord_word]
  show decView _ = _
  simp (disch := decide) only [decView, rawOf, extract_append_hi, extract_append_lo, extract_all, Nat.sub_self, Nat.reduceAdd, Nat.reduceSub, getLsbD_append_lo, getLsbD_append_hi]
  simp_all [roleOf_code, viewOf_code, gregOf_code, need, stepOk, Raw.guard, toNat_pad2, toNat_pad11, toNat_pad1, scopeOk, casReg, BitVec.getLsbD_append, bind, Except.bind, pure, Except.pure]
theorem shape (g : Guard) (mz : BitVec 1) (tz : BitVec 1) (d : Opnd) (rows : Opnd) (cols : Opnd) (fmt : BitVec 5) : Statement (.shape g mz tz d rows cols fmt) := by
  intro hw
  simp only [Instr.wf, Bool.and_eq_true, stepWf, EFlags.wf, scopeOk, decide_eq_true_eq] at hw
  show decodeSlot .s (rawOf 0x33#8 g (0#1 ++ mz ++ tz) d.code rows.code cols.code (0#15 ++ fmt ++ 0#4)).word = _
  rw [decodeSlot, Raw.ofWord_word]
  show decShape _ = _
  simp (disch := decide) only [decShape, rawOf, extract_append_hi, extract_append_lo, extract_all, Nat.sub_self, Nat.reduceAdd, Nat.reduceSub, getLsbD_append_lo, getLsbD_append_hi]
  simp_all [roleOf_code, viewOf_code, gregOf_code, need, stepOk, Raw.guard, toNat_pad2, toNat_pad11, toNat_pad1, scopeOk, casReg, BitVec.getLsbD_append, bind, Except.bind, pure, Except.pure]
theorem bxinfo (g : Guard) (d : Opnd) (c : BitVec 5) (bx : BitVec 4) (what : BitVec 6) : Statement (.bxinfo g d c bx what) := by
  intro hw
  simp only [Instr.wf, Bool.and_eq_true, stepWf, EFlags.wf, scopeOk, decide_eq_true_eq] at hw
  show decodeSlot .s (rawOf 0x34#8 g 0#3 d.code 0#8 (0#3 ++ c) (0#8 ++ bx ++ 0#2 ++ what ++ 0#4)).word = _
  rw [decodeSlot, Raw.ofWord_word]
  show decBxinfo _ = _
  simp (disch := decide) only [decBxinfo, rawOf, extract_append_hi, extract_append_lo, extract_all, Nat.sub_self, Nat.reduceAdd, Nat.reduceSub, getLsbD_append_lo, getLsbD_append_hi]
  simp_all [roleOf_code, viewOf_code, gregOf_code, need, stepOk, Raw.guard, toNat_pad2, toNat_pad11, toNat_pad1, scopeOk, casReg, BitVec.getLsbD_append, bind, Except.bind, pure, Except.pure]
theorem sget (g : Guard) (d : Opnd) (num : BitVec 12) : Statement (.sget g d num) := by
  intro hw
  simp only [Instr.wf, Bool.and_eq_true, stepWf, EFlags.wf, scopeOk, decide_eq_true_eq] at hw
  show decodeSlot .s (rawOf 0x35#8 g 0#3 d.code 0#8 0#8 (0#8 ++ num ++ 0#4)).word = _
  rw [decodeSlot, Raw.ofWord_word]
  show decSget _ = _
  simp (disch := decide) only [decSget, rawOf, extract_append_hi, extract_append_lo, extract_all, Nat.sub_self, Nat.reduceAdd, Nat.reduceSub, getLsbD_append_lo, getLsbD_append_hi]
  simp_all [roleOf_code, viewOf_code, gregOf_code, need, stepOk, Raw.guard, toNat_pad2, toNat_pad11, toNat_pad1, scopeOk, casReg, BitVec.getLsbD_append, bind, Except.bind, pure, Except.pure]
theorem sset (g : Guard) (b : Opnd) (num : BitVec 12) : Statement (.sset g b num) := by
  intro hw
  simp only [Instr.wf, Bool.and_eq_true, stepWf, EFlags.wf, scopeOk, decide_eq_true_eq] at hw
  show decodeSlot .s (rawOf 0x36#8 g 0#3 0#8 b.code 0#8 (0#8 ++ num ++ 0#4)).word = _
  rw [decodeSlot, Raw.ofWord_word]
  show decSset _ = _
  simp (disch := decide) only [decSset, rawOf, extract_append_hi, extract_append_lo, extract_all, Nat.sub_self, Nat.reduceAdd, Nat.reduceSub, getLsbD_append_lo, getLsbD_append_hi]
  simp_all [roleOf_code, viewOf_code, gregOf_code, need, stepOk, Raw.guard, toNat_pad2, toNat_pad11, toNat_pad1, scopeOk, casReg, BitVec.getLsbD_append, bind, Except.bind, pure, Except.pure]
theorem tsget (g : Guard) (d : Opnd) (k : BitVec 3) : Statement (.tsget g d k) := by
  intro hw
  simp only [Instr.wf, Bool.and_eq_true, stepWf, EFlags.wf, scopeOk, decide_eq_true_eq] at hw
  show decodeSlot .s (rawOf 0x37#8 g 0#3 d.code 0#8 0#8 (0#17 ++ k ++ 0#4)).word = _
  rw [decodeSlot, Raw.ofWord_word]
  show decTsget _ = _
  simp (disch := decide) only [decTsget, rawOf, extract_append_hi, extract_append_lo, extract_all, Nat.sub_self, Nat.reduceAdd, Nat.reduceSub, getLsbD_append_lo, getLsbD_append_hi]
  simp_all [roleOf_code, viewOf_code, gregOf_code, need, stepOk, Raw.guard, toNat_pad2, toNat_pad11, toNat_pad1, scopeOk, casReg, BitVec.getLsbD_append, bind, Except.bind, pure, Except.pure]
theorem xpat (g : Guard) (v : BitVec 5) (lsz : BitVec 2) (k : BitVec 3) : Statement (.xpat g v lsz k) := by
  intro hw
  simp only [Instr.wf, Bool.and_eq_true, stepWf, EFlags.wf, scopeOk, decide_eq_true_eq] at hw
  show decodeSlot .s (rawOf 0x38#8 g 0#3 0#8 (1#3 ++ v) 0#8 (0#14 ++ lsz ++ 0#1 ++ k ++ 0#4)).word = _
  rw [decodeSlot, Raw.ofWord_word]
  show decXpat _ = _
  simp (disch := decide) only [decXpat, rawOf, extract_append_hi, extract_append_lo, extract_all, Nat.sub_self, Nat.reduceAdd, Nat.reduceSub, getLsbD_append_lo, getLsbD_append_hi]
  simp_all [roleOf_code, viewOf_code, gregOf_code, need, stepOk, Raw.guard, toNat_pad2, toNat_pad11, toNat_pad1, scopeOk, casReg, BitVec.getLsbD_append, bind, Except.bind, pure, Except.pure]
theorem ld (g : Guard) (d : BitVec 5) (path : Path) : Statement (.ld g d path) := by
  intro hw
  simp only [Instr.wf, Bool.and_eq_true, stepWf, EFlags.wf, scopeOk, decide_eq_true_eq] at hw
  have hp : path.wf = true := by simp_all
  show decodeSlot .m (rawOf 0x00#8 g 0#3 (0#3 ++ d) path.c0.code path.c1.code path.lo).word = _
  rw [decodeSlot, Raw.ofWord_word]
  show decLd _ = _
  simp (disch := decide) only [decLd, rawOf, extract_append_hi, extract_append_lo, extract_all, Nat.sub_self, Nat.reduceAdd, Nat.reduceSub, getLsbD_append_lo, getLsbD_append_hi]
  simp_all [roleOf_code, viewOf_code, gregOf_code, need, stepOk, Raw.guard, toNat_pad2, toNat_pad11, toNat_pad1, scopeOk, casReg, BitVec.getLsbD_append, bind, Except.bind, pure, Except.pure, Raw.path_mk path hp]
theorem ldAcq (g : Guard) (sc : BitVec 3) (d : BitVec 5) (path : Path) : Statement (.ldAcq g sc d path) := by
  intro hw
  simp only [Instr.wf, Bool.and_eq_true, stepWf, EFlags.wf, scopeOk, decide_eq_true_eq] at hw
  have hp : path.wf = true := by simp_all
  show decodeSlot .m (rawOf 0x01#8 g sc (0#3 ++ d) path.c0.code path.c1.code path.lo).word = _
  rw [decodeSlot, Raw.ofWord_word]
  show decLdAcq _ = _
  simp (disch := decide) only [decLdAcq, rawOf, extract_append_hi, extract_append_lo, extract_all, Nat.sub_self, Nat.reduceAdd, Nat.reduceSub, getLsbD_append_lo, getLsbD_append_hi]
  simp_all [roleOf_code, viewOf_code, gregOf_code, need, stepOk, Raw.guard, toNat_pad2, toNat_pad11, toNat_pad1, scopeOk, casReg, BitVec.getLsbD_append, bind, Except.bind, pure, Except.pure, Raw.path_mk path hp]
theorem st (g : Guard) (a : Opnd) (path : Path) : Statement (.st g a path) := by
  intro hw
  simp only [Instr.wf, Bool.and_eq_true, stepWf, EFlags.wf, scopeOk, decide_eq_true_eq] at hw
  have hp : path.wf = true := by simp_all
  show decodeSlot .m (rawOf 0x02#8 g 0#3 a.code path.c0.code path.c1.code path.lo).word = _
  rw [decodeSlot, Raw.ofWord_word]
  show decSt _ = _
  simp (disch := decide) only [decSt, rawOf, extract_append_hi, extract_append_lo, extract_all, Nat.sub_self, Nat.reduceAdd, Nat.reduceSub, getLsbD_append_lo, getLsbD_append_hi]
  simp_all [roleOf_code, viewOf_code, gregOf_code, need, stepOk, Raw.guard, toNat_pad2, toNat_pad11, toNat_pad1, scopeOk, casReg, BitVec.getLsbD_append, bind, Except.bind, pure, Except.pure, Raw.path_mk path hp]
theorem stRel (g : Guard) (sc : BitVec 3) (a : Opnd) (path : Path) : Statement (.stRel g sc a path) := by
  intro hw
  simp only [Instr.wf, Bool.and_eq_true, stepWf, EFlags.wf, scopeOk, decide_eq_true_eq] at hw
  have hp : path.wf = true := by simp_all
  show decodeSlot .m (rawOf 0x03#8 g sc a.code path.c0.code path.c1.code path.lo).word = _
  rw [decodeSlot, Raw.ofWord_word]
  show decStRel _ = _
  simp (disch := decide) only [decStRel, rawOf, extract_append_hi, extract_append_lo, extract_all, Nat.sub_self, Nat.reduceAdd, Nat.reduceSub, getLsbD_append_lo, getLsbD_append_hi]
  simp_all [roleOf_code, viewOf_code, gregOf_code, need, stepOk, Raw.guard, toNat_pad2, toNat_pad11, toNat_pad1, scopeOk, casReg, BitVec.getLsbD_append, bind, Except.bind, pure, Except.pure, Raw.path_mk path hp]
theorem ldv (g : Guard) (v : BitVec 5) (path : Path) : Statement (.ldv g v path) := by
  intro hw
  simp only [Instr.wf, Bool.and_eq_true, stepWf, EFlags.wf, scopeOk, decide_eq_true_eq] at hw
  have hp : path.wf = true := by simp_all
  show decodeSlot .m (rawOf 0x04#8 g 0#3 (1#3 ++ v) path.c0.code path.c1.code path.lo).word = _
  rw [decodeSlot, Raw.ofWord_word]
  show decLdv _ = _
  simp (disch := decide) only [decLdv, rawOf, extract_append_hi, extract_append_lo, extract_all, Nat.sub_self, Nat.reduceAdd, Nat.reduceSub, getLsbD_append_lo, getLsbD_append_hi]
  simp_all [roleOf_code, viewOf_code, gregOf_code, need, stepOk, Raw.guard, toNat_pad2, toNat_pad11, toNat_pad1, scopeOk, casReg, BitVec.getLsbD_append, bind, Except.bind, pure, Except.pure, Raw.path_mk path hp]
theorem ldvAcq (g : Guard) (sc : BitVec 3) (v : BitVec 5) (path : Path) : Statement (.ldvAcq g sc v path) := by
  intro hw
  simp only [Instr.wf, Bool.and_eq_true, stepWf, EFlags.wf, scopeOk, decide_eq_true_eq] at hw
  have hp : path.wf = true := by simp_all
  show decodeSlot .m (rawOf 0x05#8 g sc (1#3 ++ v) path.c0.code path.c1.code path.lo).word = _
  rw [decodeSlot, Raw.ofWord_word]
  show decLdvAcq _ = _
  simp (disch := decide) only [decLdvAcq, rawOf, extract_append_hi, extract_append_lo, extract_all, Nat.sub_self, Nat.reduceAdd, Nat.reduceSub, getLsbD_append_lo, getLsbD_append_hi]
  simp_all [roleOf_code, viewOf_code, gregOf_code, need, stepOk, Raw.guard, toNat_pad2, toNat_pad11, toNat_pad1, scopeOk, casReg, BitVec.getLsbD_append, bind, Except.bind, pure, Except.pure, Raw.path_mk path hp]
theorem stv (g : Guard) (v : BitVec 5) (path : Path) : Statement (.stv g v path) := by
  intro hw
  simp only [Instr.wf, Bool.and_eq_true, stepWf, EFlags.wf, scopeOk, decide_eq_true_eq] at hw
  have hp : path.wf = true := by simp_all
  show decodeSlot .m (rawOf 0x06#8 g 0#3 (1#3 ++ v) path.c0.code path.c1.code path.lo).word = _
  rw [decodeSlot, Raw.ofWord_word]
  show decStv _ = _
  simp (disch := decide) only [decStv, rawOf, extract_append_hi, extract_append_lo, extract_all, Nat.sub_self, Nat.reduceAdd, Nat.reduceSub, getLsbD_append_lo, getLsbD_append_hi]
  simp_all [roleOf_code, viewOf_code, gregOf_code, need, stepOk, Raw.guard, toNat_pad2, toNat_pad11, toNat_pad1, scopeOk, casReg, BitVec.getLsbD_append, bind, Except.bind, pure, Except.pure, Raw.path_mk path hp]
theorem stvRel (g : Guard) (sc : BitVec 3) (v : BitVec 5) (path : Path) : Statement (.stvRel g sc v path) := by
  intro hw
  simp only [Instr.wf, Bool.and_eq_true, stepWf, EFlags.wf, scopeOk, decide_eq_true_eq] at hw
  have hp : path.wf = true := by simp_all
  show decodeSlot .m (rawOf 0x07#8 g sc (1#3 ++ v) path.c0.code path.c1.code path.lo).word = _
  rw [decodeSlot, Raw.ofWord_word]
  show decStvRel _ = _
  simp (disch := decide) only [decStvRel, rawOf, extract_append_hi, extract_append_lo, extract_all, Nat.sub_self, Nat.reduceAdd, Nat.reduceSub, getLsbD_append_lo, getLsbD_append_hi]
  simp_all [roleOf_code, viewOf_code, gregOf_code, need, stepOk, Raw.guard, toNat_pad2, toNat_pad11, toNat_pad1, scopeOk, casReg, BitVec.getLsbD_append, bind, Except.bind, pure, Except.pure, Raw.path_mk path hp]
theorem ldff (g : Guard) (v : BitVec 5) (path : Path) : Statement (.ldff g v path) := by
  intro hw
  simp only [Instr.wf, Bool.and_eq_true, stepWf, EFlags.wf, scopeOk, decide_eq_true_eq] at hw
  have hp : path.wf = true := by simp_all
  show decodeSlot .m (rawOf 0x08#8 g 0#3 (1#3 ++ v) path.c0.code path.c1.code path.lo).word = _
  rw [decodeSlot, Raw.ofWord_word]
  show decLdff _ = _
  simp (disch := decide) only [decLdff, rawOf, extract_append_hi, extract_append_lo, extract_all, Nat.sub_self, Nat.reduceAdd, Nat.reduceSub, getLsbD_append_lo, getLsbD_append_hi]
  simp_all [roleOf_code, viewOf_code, gregOf_code, need, stepOk, Raw.guard, toNat_pad2, toNat_pad11, toNat_pad1, scopeOk, casReg, BitVec.getLsbD_append, bind, Except.bind, pure, Except.pure, Raw.path_mk path hp]
theorem ldblk (g : Guard) (v : BitVec 5) (path : Path) : Statement (.ldblk g v path) := by
  intro hw
  simp only [Instr.wf, Bool.and_eq_true, stepWf, EFlags.wf, scopeOk, decide_eq_true_eq] at hw
  have hp : path.wf = true := by simp_all
  show decodeSlot .m (rawOf 0x09#8 g 0#3 (1#3 ++ v) path.c0.code path.c1.code path.lo).word = _
  rw [decodeSlot, Raw.ofWord_word]
  show decLdblk _ = _
  simp (disch := decide) only [decLdblk, rawOf, extract_append_hi, extract_append_lo, extract_all, Nat.sub_self, Nat.reduceAdd, Nat.reduceSub, getLsbD_append_lo, getLsbD_append_hi]
  simp_all [roleOf_code, viewOf_code, gregOf_code, need, stepOk, Raw.guard, toNat_pad2, toNat_pad11, toNat_pad1, scopeOk, casReg, BitVec.getLsbD_append, bind, Except.bind, pure, Except.pure, Raw.path_mk path hp]
theorem stblk (g : Guard) (v : BitVec 5) (path : Path) : Statement (.stblk g v path) := by
  intro hw
  simp only [Instr.wf, Bool.and_eq_true, stepWf, EFlags.wf, scopeOk, decide_eq_true_eq] at hw
  have hp : path.wf = true := by simp_all
  show decodeSlot .m (rawOf 0x0a#8 g 0#3 (1#3 ++ v) path.c0.code path.c1.code path.lo).word = _
  rw [decodeSlot, Raw.ofWord_word]
  show decStblk _ = _
  simp (disch := decide) only [decStblk, rawOf, extract_append_hi, extract_append_lo, extract_all, Nat.sub_self, Nat.reduceAdd, Nat.reduceSub, getLsbD_append_lo, getLsbD_append_hi]
  simp_all [roleOf_code, viewOf_code, gregOf_code, need, stepOk, Raw.guard, toNat_pad2, toNat_pad11, toNat_pad1, scopeOk, casReg, BitVec.getLsbD_append, bind, Except.bind, pure, Except.pure, Raw.path_mk path hp]
theorem ldtag (g : Guard) (d : BitVec 5) (path : Path) : Statement (.ldtag g d path) := by
  intro hw
  simp only [Instr.wf, Bool.and_eq_true, stepWf, EFlags.wf, scopeOk, decide_eq_true_eq] at hw
  have hp : path.wf = true := by simp_all
  show decodeSlot .m (rawOf 0x0b#8 g 0#3 (0#3 ++ d) path.c0.code path.c1.code path.lo).word = _
  rw [decodeSlot, Raw.ofWord_word]
  show decLdtag _ = _
  simp (disch := decide) only [decLdtag, rawOf, extract_append_hi, extract_append_lo, extract_all, Nat.sub_self, Nat.reduceAdd, Nat.reduceSub, getLsbD_append_lo, getLsbD_append_hi]
  simp_all [roleOf_code, viewOf_code, gregOf_code, need, stepOk, Raw.guard, toNat_pad2, toNat_pad11, toNat_pad1, scopeOk, casReg, BitVec.getLsbD_append, bind, Except.bind, pure, Except.pure, Raw.path_mk path hp]
theorem sttag (g : Guard) (a : Opnd) (path : Path) : Statement (.sttag g a path) := by
  intro hw
  simp only [Instr.wf, Bool.and_eq_true, stepWf, EFlags.wf, scopeOk, decide_eq_true_eq] at hw
  have hp : path.wf = true := by simp_all
  show decodeSlot .m (rawOf 0x0c#8 g 0#3 a.code path.c0.code path.c1.code path.lo).word = _
  rw [decodeSlot, Raw.ofWord_word]
  show decSttag _ = _
  simp (disch := decide) only [decSttag, rawOf, extract_append_hi, extract_append_lo, extract_all, Nat.sub_self, Nat.reduceAdd, Nat.reduceSub, getLsbD_append_lo, getLsbD_append_hi]
  simp_all [roleOf_code, viewOf_code, gregOf_code, need, stepOk, Raw.guard, toNat_pad2, toNat_pad11, toNat_pad1, scopeOk, casReg, BitVec.getLsbD_append, bind, Except.bind, pure, Except.pure, Raw.path_mk path hp]
theorem ldr (g : Guard) (acq : BitVec 1) (d : Opnd) (path : Path) : Statement (.ldr g acq d path) := by
  intro hw
  simp only [Instr.wf, Bool.and_eq_true, stepWf, EFlags.wf, scopeOk, decide_eq_true_eq] at hw
  have hp : path.wf = true := by simp_all
  show decodeSlot .m (rawOf 0x10#8 g (0#2 ++ acq) d.code path.c0.code path.c1.code path.lo).word = _
  rw [decodeSlot, Raw.ofWord_word]
  show decLdr _ = _
  simp (disch := decide) only [decLdr, rawOf, extract_append_hi, extract_append_lo, extract_all, Nat.sub_self, Nat.reduceAdd, Nat.reduceSub, getLsbD_append_lo, getLsbD_append_hi]
  simp_all [roleOf_code, viewOf_code, gregOf_code, need, stepOk, Raw.guard, toNat_pad2, toNat_pad11, toNat_pad1, toNat_pad1_le, scopeOk, casReg, BitVec.getLsbD_append, bind, Except.bind, pure, Except.pure, Raw.path_mk path hp]
theorem str (g : Guard) (rel : BitVec 1) (a : Opnd) (path : Path) : Statement (.str g rel a path) := by
  intro hw
  simp only [Instr.wf, Bool.and_eq_true, stepWf, EFlags.wf, scopeOk, decide_eq_true_eq] at hw
  have hp : path.wf = true := by simp_all
  show decodeSlot .m (rawOf 0x11#8 g (0#2 ++ rel) a.code path.c0.code path.c1.code path.lo).word = _
  rw [decodeSlot, Raw.ofWord_word]
  show decStr _ = _
  simp (disch := decide) only [decStr, rawOf, extract_append_hi, extract_append_lo, extract_all, Nat.sub_self, Nat.reduceAdd, Nat.reduceSub, getLsbD_append_lo, getLsbD_append_hi]
  simp_all [roleOf_code, viewOf_code, gregOf_code, need, stepOk, Raw.guard, toNat_pad2, toNat_pad11, toNat_pad1, toNat_pad1_le, scopeOk, casReg, BitVec.getLsbD_append, bind, Except.bind, pure, Except.pure, Raw.path_mk path hp]
theorem align (g : Guard) : Statement (.align g) := by
  intro hw
  simp only [Instr.wf, Bool.and_eq_true, stepWf, EFlags.wf, scopeOk, decide_eq_true_eq] at hw
  show decodeSlot .m (rawOf 0x18#8 g 0#3 0#8 0#8 0#8 (0#24)).word = _
  rw [decodeSlot, Raw.ofWord_word]
  show decAlign _ = _
  simp (disch := decide) only [decAlign, rawOf, extract_append_hi, extract_append_lo, extract_all, Nat.sub_self, Nat.reduceAdd, Nat.reduceSub, getLsbD_append_lo, getLsbD_append_hi]
  simp_all [roleOf_code, viewOf_code, gregOf_code, need, stepOk, Raw.guard, toNat_pad2, toNat_pad11, toNat_pad1, scopeOk, casReg, BitVec.getLsbD_append, bind, Except.bind, pure, Except.pure]
theorem fence (g : Guard) (sc : BitVec 3) : Statement (.fence g sc) := by
  intro hw
  simp only [Instr.wf, Bool.and_eq_true, stepWf, EFlags.wf, scopeOk, decide_eq_true_eq] at hw
  show decodeSlot .m (rawOf 0x19#8 g sc 0#8 0#8 0#8 (0#24)).word = _
  rw [decodeSlot, Raw.ofWord_word]
  show decFence _ = _
  simp (disch := decide) only [decFence, rawOf, extract_append_hi, extract_append_lo, extract_all, Nat.sub_self, Nat.reduceAdd, Nat.reduceSub, getLsbD_append_lo, getLsbD_append_hi]
  simp_all [roleOf_code, viewOf_code, gregOf_code, need, stepOk, Raw.guard, toNat_pad2, toNat_pad11, toNat_pad1, scopeOk, casReg, BitVec.getLsbD_append, bind, Except.bind, pure, Except.pure]
theorem pf (g : Guard) (path : Path) : Statement (.pf g path) := by
  intro hw
  simp only [Instr.wf, Bool.and_eq_true, stepWf, EFlags.wf, scopeOk, decide_eq_true_eq] at hw
  have hp : path.wf = true := by simp_all
  show decodeSlot .m (rawOf 0x1a#8 g 0#3 0#8 path.c0.code path.c1.code path.lo).word = _
  rw [decodeSlot, Raw.ofWord_word]
  show decPf _ = _
  simp (disch := decide) only [decPf, rawOf, extract_append_hi, extract_append_lo, extract_all, Nat.sub_self, Nat.reduceAdd, Nat.reduceSub, getLsbD_append_lo, getLsbD_append_hi]
  simp_all [roleOf_code, viewOf_code, gregOf_code, need, stepOk, Raw.guard, toNat_pad2, toNat_pad11, toNat_pad1, scopeOk, casReg, BitVec.getLsbD_append, bind, Except.bind, pure, Except.pure, Raw.path_mk path hp]
theorem rfence (g : Guard) (a : Opnd) (path : Path) : Statement (.rfence g a path) := by
  intro hw
  simp only [Instr.wf, Bool.and_eq_true, stepWf, EFlags.wf, scopeOk, decide_eq_true_eq] at hw
  have hp : path.wf = true := by simp_all
  show decodeSlot .m (rawOf 0x1b#8 g 0#3 a.code path.c0.code path.c1.code path.lo).word = _
  rw [decodeSlot, Raw.ofWord_word]
  show decRfence _ = _
  simp (disch := decide) only [decRfence, rawOf, extract_append_hi, extract_append_lo, extract_all, Nat.sub_self, Nat.reduceAdd, Nat.reduceSub, getLsbD_append_lo, getLsbD_append_hi]
  simp_all [roleOf_code, viewOf_code, gregOf_code, need, stepOk, Raw.guard, toNat_pad2, toNat_pad11, toNat_pad1, scopeOk, casReg, BitVec.getLsbD_append, bind, Except.bind, pure, Except.pure, Raw.path_mk path hp]
theorem ldp (g : Guard) (d : BitVec 5) (path : Path) : Statement (.ldp g d path) := by
  intro hw
  simp only [Instr.wf, Bool.and_eq_true, stepWf, EFlags.wf, scopeOk, decide_eq_true_eq] at hw
  have hp : path.wf = true := by simp_all
  show decodeSlot .m (rawOf 0x1c#8 g 0#3 (0#3 ++ d) path.c0.code path.c1.code path.lo).word = _
  rw [decodeSlot, Raw.ofWord_word]
  show decLdp _ = _
  simp (disch := decide) only [decLdp, rawOf, extract_append_hi, extract_append_lo, extract_all, Nat.sub_self, Nat.reduceAdd, Nat.reduceSub, getLsbD_append_lo, getLsbD_append_hi]
  simp_all [roleOf_code, viewOf_code, gregOf_code, need, stepOk, Raw.guard, toNat_pad2, toNat_pad11, toNat_pad1, scopeOk, casReg, BitVec.getLsbD_append, bind, Except.bind, pure, Except.pure, Raw.path_mk path hp]
theorem stp (g : Guard) (a : Opnd) (path : Path) : Statement (.stp g a path) := by
  intro hw
  simp only [Instr.wf, Bool.and_eq_true, stepWf, EFlags.wf, scopeOk, decide_eq_true_eq] at hw
  have hp : path.wf = true := by simp_all
  show decodeSlot .m (rawOf 0x1d#8 g 0#3 a.code path.c0.code path.c1.code path.lo).word = _
  rw [decodeSlot, Raw.ofWord_word]
  show decStp _ = _
  simp (disch := decide) only [decStp, rawOf, extract_append_hi, extract_append_lo, extract_all, Nat.sub_self, Nat.reduceAdd, Nat.reduceSub, getLsbD_append_lo, getLsbD_append_hi]
  simp_all [roleOf_code, viewOf_code, gregOf_code, need, stepOk, Raw.guard, toNat_pad2, toNat_pad11, toNat_pad1, scopeOk, casReg, BitVec.getLsbD_append, bind, Except.bind, pure, Except.pure, Raw.path_mk path hp]
theorem waitv (g : Guard) (cc : BitVec 3) (a : Opnd) (path : Path) : Statement (.waitv g cc a path) := by
  intro hw
  simp only [Instr.wf, Bool.and_eq_true, stepWf, EFlags.wf, scopeOk, decide_eq_true_eq] at hw
  have hp : path.wf = true := by simp_all
  show decodeSlot .m (rawOf 0x20#8 g cc a.code path.c0.code path.c1.code path.lo).word = _
  rw [decodeSlot, Raw.ofWord_word]
  show decWaitv _ = _
  simp (disch := decide) only [decWaitv, rawOf, extract_append_hi, extract_append_lo, extract_all, Nat.sub_self, Nat.reduceAdd, Nat.reduceSub, getLsbD_append_lo, getLsbD_append_hi]
  simp_all [roleOf_code, viewOf_code, gregOf_code, need, stepOk, Raw.guard, toNat_pad2, toNat_pad11, toNat_pad1, scopeOk, casReg, BitVec.getLsbD_append, bind, Except.bind, pure, Except.pure, Raw.path_mk path hp]
theorem waitvAcq (g : Guard) (sc : BitVec 3) (cc : BitVec 3) (a : Opnd) (path : Path) : Statement (.waitvAcq g sc cc a path) := by
  intro hw
  simp only [Instr.wf, Bool.and_eq_true, stepWf, EFlags.wf, scopeOk, decide_eq_true_eq] at hw
  have hp : path.wf = true := by simp_all
  have ho : ∀ x : BitVec 3, x.toNat ≤ 4 → x = 0 ∨ x = 1 ∨ x = 2 ∨ x = 3 ∨ x = 4 := by decide
  rcases ho sc (by simp_all) with rfl | rfl | rfl | rfl | rfl
  · show decodeSlot .m (rawOf (0x21#8 + (0#5 ++ 0#3)) g cc a.code path.c0.code path.c1.code path.lo).word = _
    rw [decodeSlot, Raw.ofWord_word]
    show decWaitvAcq 0 _ = _
    simp (disch := decide) only [decWaitvAcq, rawOf, extract_append_hi, extract_append_lo, extract_all, Nat.sub_self, Nat.reduceAdd, Nat.reduceSub, getLsbD_append_lo, getLsbD_append_hi]
    simp_all [roleOf_code, viewOf_code, gregOf_code, need, stepOk, Raw.guard, toNat_pad2, toNat_pad11, toNat_pad1, scopeOk, casReg, BitVec.getLsbD_append, bind, Except.bind, pure, Except.pure, Raw.path_mk path hp]
  · show decodeSlot .m (rawOf (0x21#8 + (0#5 ++ 1#3)) g cc a.code path.c0.code path.c1.code path.lo).word = _
    rw [decodeSlot, Raw.ofWord_word]
    show decWaitvAcq 1 _ = _
    simp (disch := decide) only [decWaitvAcq, rawOf, extract_append_hi, extract_append_lo, extract_all, Nat.sub_self, Nat.reduceAdd, Nat.reduceSub, getLsbD_append_lo, getLsbD_append_hi]
    simp_all [roleOf_code, viewOf_code, gregOf_code, need, stepOk, Raw.guard, toNat_pad2, toNat_pad11, toNat_pad1, scopeOk, casReg, BitVec.getLsbD_append, bind, Except.bind, pure, Except.pure, Raw.path_mk path hp]
  · show decodeSlot .m (rawOf (0x21#8 + (0#5 ++ 2#3)) g cc a.code path.c0.code path.c1.code path.lo).word = _
    rw [decodeSlot, Raw.ofWord_word]
    show decWaitvAcq 2 _ = _
    simp (disch := decide) only [decWaitvAcq, rawOf, extract_append_hi, extract_append_lo, extract_all, Nat.sub_self, Nat.reduceAdd, Nat.reduceSub, getLsbD_append_lo, getLsbD_append_hi]
    simp_all [roleOf_code, viewOf_code, gregOf_code, need, stepOk, Raw.guard, toNat_pad2, toNat_pad11, toNat_pad1, scopeOk, casReg, BitVec.getLsbD_append, bind, Except.bind, pure, Except.pure, Raw.path_mk path hp]
  · show decodeSlot .m (rawOf (0x21#8 + (0#5 ++ 3#3)) g cc a.code path.c0.code path.c1.code path.lo).word = _
    rw [decodeSlot, Raw.ofWord_word]
    show decWaitvAcq 3 _ = _
    simp (disch := decide) only [decWaitvAcq, rawOf, extract_append_hi, extract_append_lo, extract_all, Nat.sub_self, Nat.reduceAdd, Nat.reduceSub, getLsbD_append_lo, getLsbD_append_hi]
    simp_all [roleOf_code, viewOf_code, gregOf_code, need, stepOk, Raw.guard, toNat_pad2, toNat_pad11, toNat_pad1, scopeOk, casReg, BitVec.getLsbD_append, bind, Except.bind, pure, Except.pure, Raw.path_mk path hp]
  · show decodeSlot .m (rawOf (0x21#8 + (0#5 ++ 4#3)) g cc a.code path.c0.code path.c1.code path.lo).word = _
    rw [decodeSlot, Raw.ofWord_word]
    show decWaitvAcq 4 _ = _
    simp (disch := decide) only [decWaitvAcq, rawOf, extract_append_hi, extract_append_lo, extract_all, Nat.sub_self, Nat.reduceAdd, Nat.reduceSub, getLsbD_append_lo, getLsbD_append_hi]
    simp_all [roleOf_code, viewOf_code, gregOf_code, need, stepOk, Raw.guard, toNat_pad2, toNat_pad11, toNat_pad1, scopeOk, casReg, BitVec.getLsbD_append, bind, Except.bind, pure, Except.pure, Raw.path_mk path hp]
theorem atomAdd (g : Guard) (ord : BitVec 2) (sc : BitVec 3) (a : BitVec 5) (path : Path) : Statement (.atomAdd g ord sc a path) := by
  intro hw
  simp only [Instr.wf, Bool.and_eq_true, stepWf, EFlags.wf, scopeOk, decide_eq_true_eq] at hw
  have hp : path.wf = true := by simp_all
  have ho : ∀ x : BitVec 2, x = 0 ∨ x = 1 ∨ x = 2 ∨ x = 3 := by decide
  rcases ho ord with rfl | rfl | rfl | rfl
  · show decodeSlot .m (rawOf (0x40#8 + (0#6 ++ 0#2)) g sc (0#3 ++ a) path.c0.code path.c1.code path.lo).word = _
    rw [decodeSlot, Raw.ofWord_word]
    show decAtomAdd 0 _ = _
    simp (disch := decide) only [decAtomAdd, rawOf, extract_append_hi, extract_append_lo, extract_all, Nat.sub_self, Nat.reduceAdd, Nat.reduceSub, getLsbD_append_lo, getLsbD_append_hi]
    simp_all [roleOf_code, viewOf_code, gregOf_code, need, stepOk, Raw.guard, toNat_pad2, toNat_pad11, toNat_pad1, scopeOk, casReg, BitVec.getLsbD_append, bind, Except.bind, pure, Except.pure, Raw.path_mk path hp]
  · show decodeSlot .m (rawOf (0x40#8 + (0#6 ++ 1#2)) g sc (0#3 ++ a) path.c0.code path.c1.code path.lo).word = _
    rw [decodeSlot, Raw.ofWord_word]
    show decAtomAdd 1 _ = _
    simp (disch := decide) only [decAtomAdd, rawOf, extract_append_hi, extract_append_lo, extract_all, Nat.sub_self, Nat.reduceAdd, Nat.reduceSub, getLsbD_append_lo, getLsbD_append_hi]
    simp_all [roleOf_code, viewOf_code, gregOf_code, need, stepOk, Raw.guard, toNat_pad2, toNat_pad11, toNat_pad1, scopeOk, casReg, BitVec.getLsbD_append, bind, Except.bind, pure, Except.pure, Raw.path_mk path hp]
  · show decodeSlot .m (rawOf (0x40#8 + (0#6 ++ 2#2)) g sc (0#3 ++ a) path.c0.code path.c1.code path.lo).word = _
    rw [decodeSlot, Raw.ofWord_word]
    show decAtomAdd 2 _ = _
    simp (disch := decide) only [decAtomAdd, rawOf, extract_append_hi, extract_append_lo, extract_all, Nat.sub_self, Nat.reduceAdd, Nat.reduceSub, getLsbD_append_lo, getLsbD_append_hi]
    simp_all [roleOf_code, viewOf_code, gregOf_code, need, stepOk, Raw.guard, toNat_pad2, toNat_pad11, toNat_pad1, scopeOk, casReg, BitVec.getLsbD_append, bind, Except.bind, pure, Except.pure, Raw.path_mk path hp]
  · show decodeSlot .m (rawOf (0x40#8 + (0#6 ++ 3#2)) g sc (0#3 ++ a) path.c0.code path.c1.code path.lo).word = _
    rw [decodeSlot, Raw.ofWord_word]
    show decAtomAdd 3 _ = _
    simp (disch := decide) only [decAtomAdd, rawOf, extract_append_hi, extract_append_lo, extract_all, Nat.sub_self, Nat.reduceAdd, Nat.reduceSub, getLsbD_append_lo, getLsbD_append_hi]
    simp_all [roleOf_code, viewOf_code, gregOf_code, need, stepOk, Raw.guard, toNat_pad2, toNat_pad11, toNat_pad1, scopeOk, casReg, BitVec.getLsbD_append, bind, Except.bind, pure, Except.pure, Raw.path_mk path hp]
theorem atomAnd (g : Guard) (ord : BitVec 2) (sc : BitVec 3) (a : BitVec 5) (path : Path) : Statement (.atomAnd g ord sc a path) := by
  intro hw
  simp only [Instr.wf, Bool.and_eq_true, stepWf, EFlags.wf, scopeOk, decide_eq_true_eq] at hw
  have hp : path.wf = true := by simp_all
  have ho : ∀ x : BitVec 2, x = 0 ∨ x = 1 ∨ x = 2 ∨ x = 3 := by decide
  rcases ho ord with rfl | rfl | rfl | rfl
  · show decodeSlot .m (rawOf (0x44#8 + (0#6 ++ 0#2)) g sc (0#3 ++ a) path.c0.code path.c1.code path.lo).word = _
    rw [decodeSlot, Raw.ofWord_word]
    show decAtomAnd 0 _ = _
    simp (disch := decide) only [decAtomAnd, rawOf, extract_append_hi, extract_append_lo, extract_all, Nat.sub_self, Nat.reduceAdd, Nat.reduceSub, getLsbD_append_lo, getLsbD_append_hi]
    simp_all [roleOf_code, viewOf_code, gregOf_code, need, stepOk, Raw.guard, toNat_pad2, toNat_pad11, toNat_pad1, scopeOk, casReg, BitVec.getLsbD_append, bind, Except.bind, pure, Except.pure, Raw.path_mk path hp]
  · show decodeSlot .m (rawOf (0x44#8 + (0#6 ++ 1#2)) g sc (0#3 ++ a) path.c0.code path.c1.code path.lo).word = _
    rw [decodeSlot, Raw.ofWord_word]
    show decAtomAnd 1 _ = _
    simp (disch := decide) only [decAtomAnd, rawOf, extract_append_hi, extract_append_lo, extract_all, Nat.sub_self, Nat.reduceAdd, Nat.reduceSub, getLsbD_append_lo, getLsbD_append_hi]
    simp_all [roleOf_code, viewOf_code, gregOf_code, need, stepOk, Raw.guard, toNat_pad2, toNat_pad11, toNat_pad1, scopeOk, casReg, BitVec.getLsbD_append, bind, Except.bind, pure, Except.pure, Raw.path_mk path hp]
  · show decodeSlot .m (rawOf (0x44#8 + (0#6 ++ 2#2)) g sc (0#3 ++ a) path.c0.code path.c1.code path.lo).word = _
    rw [decodeSlot, Raw.ofWord_word]
    show decAtomAnd 2 _ = _
    simp (disch := decide) only [decAtomAnd, rawOf, extract_append_hi, extract_append_lo, extract_all, Nat.sub_self, Nat.reduceAdd, Nat.reduceSub, getLsbD_append_lo, getLsbD_append_hi]
    simp_all [roleOf_code, viewOf_code, gregOf_code, need, stepOk, Raw.guard, toNat_pad2, toNat_pad11, toNat_pad1, scopeOk, casReg, BitVec.getLsbD_append, bind, Except.bind, pure, Except.pure, Raw.path_mk path hp]
  · show decodeSlot .m (rawOf (0x44#8 + (0#6 ++ 3#2)) g sc (0#3 ++ a) path.c0.code path.c1.code path.lo).word = _
    rw [decodeSlot, Raw.ofWord_word]
    show decAtomAnd 3 _ = _
    simp (disch := decide) only [decAtomAnd, rawOf, extract_append_hi, extract_append_lo, extract_all, Nat.sub_self, Nat.reduceAdd, Nat.reduceSub, getLsbD_append_lo, getLsbD_append_hi]
    simp_all [roleOf_code, viewOf_code, gregOf_code, need, stepOk, Raw.guard, toNat_pad2, toNat_pad11, toNat_pad1, scopeOk, casReg, BitVec.getLsbD_append, bind, Except.bind, pure, Except.pure, Raw.path_mk path hp]
theorem atomOr (g : Guard) (ord : BitVec 2) (sc : BitVec 3) (a : BitVec 5) (path : Path) : Statement (.atomOr g ord sc a path) := by
  intro hw
  simp only [Instr.wf, Bool.and_eq_true, stepWf, EFlags.wf, scopeOk, decide_eq_true_eq] at hw
  have hp : path.wf = true := by simp_all
  have ho : ∀ x : BitVec 2, x = 0 ∨ x = 1 ∨ x = 2 ∨ x = 3 := by decide
  rcases ho ord with rfl | rfl | rfl | rfl
  · show decodeSlot .m (rawOf (0x48#8 + (0#6 ++ 0#2)) g sc (0#3 ++ a) path.c0.code path.c1.code path.lo).word = _
    rw [decodeSlot, Raw.ofWord_word]
    show decAtomOr 0 _ = _
    simp (disch := decide) only [decAtomOr, rawOf, extract_append_hi, extract_append_lo, extract_all, Nat.sub_self, Nat.reduceAdd, Nat.reduceSub, getLsbD_append_lo, getLsbD_append_hi]
    simp_all [roleOf_code, viewOf_code, gregOf_code, need, stepOk, Raw.guard, toNat_pad2, toNat_pad11, toNat_pad1, scopeOk, casReg, BitVec.getLsbD_append, bind, Except.bind, pure, Except.pure, Raw.path_mk path hp]
  · show decodeSlot .m (rawOf (0x48#8 + (0#6 ++ 1#2)) g sc (0#3 ++ a) path.c0.code path.c1.code path.lo).word = _
    rw [decodeSlot, Raw.ofWord_word]
    show decAtomOr 1 _ = _
    simp (disch := decide) only [decAtomOr, rawOf, extract_append_hi, extract_append_lo, extract_all, Nat.sub_self, Nat.reduceAdd, Nat.reduceSub, getLsbD_append_lo, getLsbD_append_hi]
    simp_all [roleOf_code, viewOf_code, gregOf_code, need, stepOk, Raw.guard, toNat_pad2, toNat_pad11, toNat_pad1, scopeOk, casReg, BitVec.getLsbD_append, bind, Except.bind, pure, Except.pure, Raw.path_mk path hp]
  · show decodeSlot .m (rawOf (0x48#8 + (0#6 ++ 2#2)) g sc (0#3 ++ a) path.c0.code path.c1.code path.lo).word = _
    rw [decodeSlot, Raw.ofWord_word]
    show decAtomOr 2 _ = _
    simp (disch := decide) only [decAtomOr, rawOf, extract_append_hi, extract_append_lo, extract_all, Nat.sub_self, Nat.reduceAdd, Nat.reduceSub, getLsbD_append_lo, getLsbD_append_hi]
    simp_all [roleOf_code, viewOf_code, gregOf_code, need, stepOk, Raw.guard, toNat_pad2, toNat_pad11, toNat_pad1, scopeOk, casReg, BitVec.getLsbD_append, bind, Except.bind, pure, Except.pure, Raw.path_mk path hp]
  · show decodeSlot .m (rawOf (0x48#8 + (0#6 ++ 3#2)) g sc (0#3 ++ a) path.c0.code path.c1.code path.lo).word = _
    rw [decodeSlot, Raw.ofWord_word]
    show decAtomOr 3 _ = _
    simp (disch := decide) only [decAtomOr, rawOf, extract_append_hi, extract_append_lo, extract_all, Nat.sub_self, Nat.reduceAdd, Nat.reduceSub, getLsbD_append_lo, getLsbD_append_hi]
    simp_all [roleOf_code, viewOf_code, gregOf_code, need, stepOk, Raw.guard, toNat_pad2, toNat_pad11, toNat_pad1, scopeOk, casReg, BitVec.getLsbD_append, bind, Except.bind, pure, Except.pure, Raw.path_mk path hp]
theorem atomXor (g : Guard) (ord : BitVec 2) (sc : BitVec 3) (a : BitVec 5) (path : Path) : Statement (.atomXor g ord sc a path) := by
  intro hw
  simp only [Instr.wf, Bool.and_eq_true, stepWf, EFlags.wf, scopeOk, decide_eq_true_eq] at hw
  have hp : path.wf = true := by simp_all
  have ho : ∀ x : BitVec 2, x = 0 ∨ x = 1 ∨ x = 2 ∨ x = 3 := by decide
  rcases ho ord with rfl | rfl | rfl | rfl
  · show decodeSlot .m (rawOf (0x4c#8 + (0#6 ++ 0#2)) g sc (0#3 ++ a) path.c0.code path.c1.code path.lo).word = _
    rw [decodeSlot, Raw.ofWord_word]
    show decAtomXor 0 _ = _
    simp (disch := decide) only [decAtomXor, rawOf, extract_append_hi, extract_append_lo, extract_all, Nat.sub_self, Nat.reduceAdd, Nat.reduceSub, getLsbD_append_lo, getLsbD_append_hi]
    simp_all [roleOf_code, viewOf_code, gregOf_code, need, stepOk, Raw.guard, toNat_pad2, toNat_pad11, toNat_pad1, scopeOk, casReg, BitVec.getLsbD_append, bind, Except.bind, pure, Except.pure, Raw.path_mk path hp]
  · show decodeSlot .m (rawOf (0x4c#8 + (0#6 ++ 1#2)) g sc (0#3 ++ a) path.c0.code path.c1.code path.lo).word = _
    rw [decodeSlot, Raw.ofWord_word]
    show decAtomXor 1 _ = _
    simp (disch := decide) only [decAtomXor, rawOf, extract_append_hi, extract_append_lo, extract_all, Nat.sub_self, Nat.reduceAdd, Nat.reduceSub, getLsbD_append_lo, getLsbD_append_hi]
    simp_all [roleOf_code, viewOf_code, gregOf_code, need, stepOk, Raw.guard, toNat_pad2, toNat_pad11, toNat_pad1, scopeOk, casReg, BitVec.getLsbD_append, bind, Except.bind, pure, Except.pure, Raw.path_mk path hp]
  · show decodeSlot .m (rawOf (0x4c#8 + (0#6 ++ 2#2)) g sc (0#3 ++ a) path.c0.code path.c1.code path.lo).word = _
    rw [decodeSlot, Raw.ofWord_word]
    show decAtomXor 2 _ = _
    simp (disch := decide) only [decAtomXor, rawOf, extract_append_hi, extract_append_lo, extract_all, Nat.sub_self, Nat.reduceAdd, Nat.reduceSub, getLsbD_append_lo, getLsbD_append_hi]
    simp_all [roleOf_code, viewOf_code, gregOf_code, need, stepOk, Raw.guard, toNat_pad2, toNat_pad11, toNat_pad1, scopeOk, casReg, BitVec.getLsbD_append, bind, Except.bind, pure, Except.pure, Raw.path_mk path hp]
  · show decodeSlot .m (rawOf (0x4c#8 + (0#6 ++ 3#2)) g sc (0#3 ++ a) path.c0.code path.c1.code path.lo).word = _
    rw [decodeSlot, Raw.ofWord_word]
    show decAtomXor 3 _ = _
    simp (disch := decide) only [decAtomXor, rawOf, extract_append_hi, extract_append_lo, extract_all, Nat.sub_self, Nat.reduceAdd, Nat.reduceSub, getLsbD_append_lo, getLsbD_append_hi]
    simp_all [roleOf_code, viewOf_code, gregOf_code, need, stepOk, Raw.guard, toNat_pad2, toNat_pad11, toNat_pad1, scopeOk, casReg, BitVec.getLsbD_append, bind, Except.bind, pure, Except.pure, Raw.path_mk path hp]
theorem atomMin (g : Guard) (ord : BitVec 2) (sc : BitVec 3) (a : BitVec 5) (path : Path) : Statement (.atomMin g ord sc a path) := by
  intro hw
  simp only [Instr.wf, Bool.and_eq_true, stepWf, EFlags.wf, scopeOk, decide_eq_true_eq] at hw
  have hp : path.wf = true := by simp_all
  have ho : ∀ x : BitVec 2, x = 0 ∨ x = 1 ∨ x = 2 ∨ x = 3 := by decide
  rcases ho ord with rfl | rfl | rfl | rfl
  · show decodeSlot .m (rawOf (0x50#8 + (0#6 ++ 0#2)) g sc (0#3 ++ a) path.c0.code path.c1.code path.lo).word = _
    rw [decodeSlot, Raw.ofWord_word]
    show decAtomMin 0 _ = _
    simp (disch := decide) only [decAtomMin, rawOf, extract_append_hi, extract_append_lo, extract_all, Nat.sub_self, Nat.reduceAdd, Nat.reduceSub, getLsbD_append_lo, getLsbD_append_hi]
    simp_all [roleOf_code, viewOf_code, gregOf_code, need, stepOk, Raw.guard, toNat_pad2, toNat_pad11, toNat_pad1, scopeOk, casReg, BitVec.getLsbD_append, bind, Except.bind, pure, Except.pure, Raw.path_mk path hp]
  · show decodeSlot .m (rawOf (0x50#8 + (0#6 ++ 1#2)) g sc (0#3 ++ a) path.c0.code path.c1.code path.lo).word = _
    rw [decodeSlot, Raw.ofWord_word]
    show decAtomMin 1 _ = _
    simp (disch := decide) only [decAtomMin, rawOf, extract_append_hi, extract_append_lo, extract_all, Nat.sub_self, Nat.reduceAdd, Nat.reduceSub, getLsbD_append_lo, getLsbD_append_hi]
    simp_all [roleOf_code, viewOf_code, gregOf_code, need, stepOk, Raw.guard, toNat_pad2, toNat_pad11, toNat_pad1, scopeOk, casReg, BitVec.getLsbD_append, bind, Except.bind, pure, Except.pure, Raw.path_mk path hp]
  · show decodeSlot .m (rawOf (0x50#8 + (0#6 ++ 2#2)) g sc (0#3 ++ a) path.c0.code path.c1.code path.lo).word = _
    rw [decodeSlot, Raw.ofWord_word]
    show decAtomMin 2 _ = _
    simp (disch := decide) only [decAtomMin, rawOf, extract_append_hi, extract_append_lo, extract_all, Nat.sub_self, Nat.reduceAdd, Nat.reduceSub, getLsbD_append_lo, getLsbD_append_hi]
    simp_all [roleOf_code, viewOf_code, gregOf_code, need, stepOk, Raw.guard, toNat_pad2, toNat_pad11, toNat_pad1, scopeOk, casReg, BitVec.getLsbD_append, bind, Except.bind, pure, Except.pure, Raw.path_mk path hp]
  · show decodeSlot .m (rawOf (0x50#8 + (0#6 ++ 3#2)) g sc (0#3 ++ a) path.c0.code path.c1.code path.lo).word = _
    rw [decodeSlot, Raw.ofWord_word]
    show decAtomMin 3 _ = _
    simp (disch := decide) only [decAtomMin, rawOf, extract_append_hi, extract_append_lo, extract_all, Nat.sub_self, Nat.reduceAdd, Nat.reduceSub, getLsbD_append_lo, getLsbD_append_hi]
    simp_all [roleOf_code, viewOf_code, gregOf_code, need, stepOk, Raw.guard, toNat_pad2, toNat_pad11, toNat_pad1, scopeOk, casReg, BitVec.getLsbD_append, bind, Except.bind, pure, Except.pure, Raw.path_mk path hp]
theorem atomMax (g : Guard) (ord : BitVec 2) (sc : BitVec 3) (a : BitVec 5) (path : Path) : Statement (.atomMax g ord sc a path) := by
  intro hw
  simp only [Instr.wf, Bool.and_eq_true, stepWf, EFlags.wf, scopeOk, decide_eq_true_eq] at hw
  have hp : path.wf = true := by simp_all
  have ho : ∀ x : BitVec 2, x = 0 ∨ x = 1 ∨ x = 2 ∨ x = 3 := by decide
  rcases ho ord with rfl | rfl | rfl | rfl
  · show decodeSlot .m (rawOf (0x54#8 + (0#6 ++ 0#2)) g sc (0#3 ++ a) path.c0.code path.c1.code path.lo).word = _
    rw [decodeSlot, Raw.ofWord_word]
    show decAtomMax 0 _ = _
    simp (disch := decide) only [decAtomMax, rawOf, extract_append_hi, extract_append_lo, extract_all, Nat.sub_self, Nat.reduceAdd, Nat.reduceSub, getLsbD_append_lo, getLsbD_append_hi]
    simp_all [roleOf_code, viewOf_code, gregOf_code, need, stepOk, Raw.guard, toNat_pad2, toNat_pad11, toNat_pad1, scopeOk, casReg, BitVec.getLsbD_append, bind, Except.bind, pure, Except.pure, Raw.path_mk path hp]
  · show decodeSlot .m (rawOf (0x54#8 + (0#6 ++ 1#2)) g sc (0#3 ++ a) path.c0.code path.c1.code path.lo).word = _
    rw [decodeSlot, Raw.ofWord_word]
    show decAtomMax 1 _ = _
    simp (disch := decide) only [decAtomMax, rawOf, extract_append_hi, extract_append_lo, extract_all, Nat.sub_self, Nat.reduceAdd, Nat.reduceSub, getLsbD_append_lo, getLsbD_append_hi]
    simp_all [roleOf_code, viewOf_code, gregOf_code, need, stepOk, Raw.guard, toNat_pad2, toNat_pad11, toNat_pad1, scopeOk, casReg, BitVec.getLsbD_append, bind, Except.bind, pure, Except.pure, Raw.path_mk path hp]
  · show decodeSlot .m (rawOf (0x54#8 + (0#6 ++ 2#2)) g sc (0#3 ++ a) path.c0.code path.c1.code path.lo).word = _
    rw [decodeSlot, Raw.ofWord_word]
    show decAtomMax 2 _ = _
    simp (disch := decide) only [decAtomMax, rawOf, extract_append_hi, extract_append_lo, extract_all, Nat.sub_self, Nat.reduceAdd, Nat.reduceSub, getLsbD_append_lo, getLsbD_append_hi]
    simp_all [roleOf_code, viewOf_code, gregOf_code, need, stepOk, Raw.guard, toNat_pad2, toNat_pad11, toNat_pad1, scopeOk, casReg, BitVec.getLsbD_append, bind, Except.bind, pure, Except.pure, Raw.path_mk path hp]
  · show decodeSlot .m (rawOf (0x54#8 + (0#6 ++ 3#2)) g sc (0#3 ++ a) path.c0.code path.c1.code path.lo).word = _
    rw [decodeSlot, Raw.ofWord_word]
    show decAtomMax 3 _ = _
    simp (disch := decide) only [decAtomMax, rawOf, extract_append_hi, extract_append_lo, extract_all, Nat.sub_self, Nat.reduceAdd, Nat.reduceSub, getLsbD_append_lo, getLsbD_append_hi]
    simp_all [roleOf_code, viewOf_code, gregOf_code, need, stepOk, Raw.guard, toNat_pad2, toNat_pad11, toNat_pad1, scopeOk, casReg, BitVec.getLsbD_append, bind, Except.bind, pure, Except.pure, Raw.path_mk path hp]
theorem atomMinn (g : Guard) (ord : BitVec 2) (sc : BitVec 3) (a : BitVec 5) (path : Path) : Statement (.atomMinn g ord sc a path) := by
  intro hw
  simp only [Instr.wf, Bool.and_eq_true, stepWf, EFlags.wf, scopeOk, decide_eq_true_eq] at hw
  have hp : path.wf = true := by simp_all
  have ho : ∀ x : BitVec 2, x = 0 ∨ x = 1 ∨ x = 2 ∨ x = 3 := by decide
  rcases ho ord with rfl | rfl | rfl | rfl
  · show decodeSlot .m (rawOf (0x58#8 + (0#6 ++ 0#2)) g sc (0#3 ++ a) path.c0.code path.c1.code path.lo).word = _
    rw [decodeSlot, Raw.ofWord_word]
    show decAtomMinn 0 _ = _
    simp (disch := decide) only [decAtomMinn, rawOf, extract_append_hi, extract_append_lo, extract_all, Nat.sub_self, Nat.reduceAdd, Nat.reduceSub, getLsbD_append_lo, getLsbD_append_hi]
    simp_all [roleOf_code, viewOf_code, gregOf_code, need, stepOk, Raw.guard, toNat_pad2, toNat_pad11, toNat_pad1, scopeOk, casReg, BitVec.getLsbD_append, bind, Except.bind, pure, Except.pure, Raw.path_mk path hp]
  · show decodeSlot .m (rawOf (0x58#8 + (0#6 ++ 1#2)) g sc (0#3 ++ a) path.c0.code path.c1.code path.lo).word = _
    rw [decodeSlot, Raw.ofWord_word]
    show decAtomMinn 1 _ = _
    simp (disch := decide) only [decAtomMinn, rawOf, extract_append_hi, extract_append_lo, extract_all, Nat.sub_self, Nat.reduceAdd, Nat.reduceSub, getLsbD_append_lo, getLsbD_append_hi]
    simp_all [roleOf_code, viewOf_code, gregOf_code, need, stepOk, Raw.guard, toNat_pad2, toNat_pad11, toNat_pad1, scopeOk, casReg, BitVec.getLsbD_append, bind, Except.bind, pure, Except.pure, Raw.path_mk path hp]
  · show decodeSlot .m (rawOf (0x58#8 + (0#6 ++ 2#2)) g sc (0#3 ++ a) path.c0.code path.c1.code path.lo).word = _
    rw [decodeSlot, Raw.ofWord_word]
    show decAtomMinn 2 _ = _
    simp (disch := decide) only [decAtomMinn, rawOf, extract_append_hi, extract_append_lo, extract_all, Nat.sub_self, Nat.reduceAdd, Nat.reduceSub, getLsbD_append_lo, getLsbD_append_hi]
    simp_all [roleOf_code, viewOf_code, gregOf_code, need, stepOk, Raw.guard, toNat_pad2, toNat_pad11, toNat_pad1, scopeOk, casReg, BitVec.getLsbD_append, bind, Except.bind, pure, Except.pure, Raw.path_mk path hp]
  · show decodeSlot .m (rawOf (0x58#8 + (0#6 ++ 3#2)) g sc (0#3 ++ a) path.c0.code path.c1.code path.lo).word = _
    rw [decodeSlot, Raw.ofWord_word]
    show decAtomMinn 3 _ = _
    simp (disch := decide) only [decAtomMinn, rawOf, extract_append_hi, extract_append_lo, extract_all, Nat.sub_self, Nat.reduceAdd, Nat.reduceSub, getLsbD_append_lo, getLsbD_append_hi]
    simp_all [roleOf_code, viewOf_code, gregOf_code, need, stepOk, Raw.guard, toNat_pad2, toNat_pad11, toNat_pad1, scopeOk, casReg, BitVec.getLsbD_append, bind, Except.bind, pure, Except.pure, Raw.path_mk path hp]
theorem atomMaxn (g : Guard) (ord : BitVec 2) (sc : BitVec 3) (a : BitVec 5) (path : Path) : Statement (.atomMaxn g ord sc a path) := by
  intro hw
  simp only [Instr.wf, Bool.and_eq_true, stepWf, EFlags.wf, scopeOk, decide_eq_true_eq] at hw
  have hp : path.wf = true := by simp_all
  have ho : ∀ x : BitVec 2, x = 0 ∨ x = 1 ∨ x = 2 ∨ x = 3 := by decide
  rcases ho ord with rfl | rfl | rfl | rfl
  · show decodeSlot .m (rawOf (0x5c#8 + (0#6 ++ 0#2)) g sc (0#3 ++ a) path.c0.code path.c1.code path.lo).word = _
    rw [decodeSlot, Raw.ofWord_word]
    show decAtomMaxn 0 _ = _
    simp (disch := decide) only [decAtomMaxn, rawOf, extract_append_hi, extract_append_lo, extract_all, Nat.sub_self, Nat.reduceAdd, Nat.reduceSub, getLsbD_append_lo, getLsbD_append_hi]
    simp_all [roleOf_code, viewOf_code, gregOf_code, need, stepOk, Raw.guard, toNat_pad2, toNat_pad11, toNat_pad1, scopeOk, casReg, BitVec.getLsbD_append, bind, Except.bind, pure, Except.pure, Raw.path_mk path hp]
  · show decodeSlot .m (rawOf (0x5c#8 + (0#6 ++ 1#2)) g sc (0#3 ++ a) path.c0.code path.c1.code path.lo).word = _
    rw [decodeSlot, Raw.ofWord_word]
    show decAtomMaxn 1 _ = _
    simp (disch := decide) only [decAtomMaxn, rawOf, extract_append_hi, extract_append_lo, extract_all, Nat.sub_self, Nat.reduceAdd, Nat.reduceSub, getLsbD_append_lo, getLsbD_append_hi]
    simp_all [roleOf_code, viewOf_code, gregOf_code, need, stepOk, Raw.guard, toNat_pad2, toNat_pad11, toNat_pad1, scopeOk, casReg, BitVec.getLsbD_append, bind, Except.bind, pure, Except.pure, Raw.path_mk path hp]
  · show decodeSlot .m (rawOf (0x5c#8 + (0#6 ++ 2#2)) g sc (0#3 ++ a) path.c0.code path.c1.code path.lo).word = _
    rw [decodeSlot, Raw.ofWord_word]
    show decAtomMaxn 2 _ = _
    simp (disch := decide) only [decAtomMaxn, rawOf, extract_append_hi, extract_append_lo, extract_all, Nat.sub_self, Nat.reduceAdd, Nat.reduceSub, getLsbD_append_lo, getLsbD_append_hi]
    simp_all [roleOf_code, viewOf_code, gregOf_code, need, stepOk, Raw.guard, toNat_pad2, toNat_pad11, toNat_pad1, scopeOk, casReg, BitVec.getLsbD_append, bind, Except.bind, pure, Except.pure, Raw.path_mk path hp]
  · show decodeSlot .m (rawOf (0x5c#8 + (0#6 ++ 3#2)) g sc (0#3 ++ a) path.c0.code path.c1.code path.lo).word = _
    rw [decodeSlot, Raw.ofWord_word]
    show decAtomMaxn 3 _ = _
    simp (disch := decide) only [decAtomMaxn, rawOf, extract_append_hi, extract_append_lo, extract_all, Nat.sub_self, Nat.reduceAdd, Nat.reduceSub, getLsbD_append_lo, getLsbD_append_hi]
    simp_all [roleOf_code, viewOf_code, gregOf_code, need, stepOk, Raw.guard, toNat_pad2, toNat_pad11, toNat_pad1, scopeOk, casReg, BitVec.getLsbD_append, bind, Except.bind, pure, Except.pure, Raw.path_mk path hp]
theorem atomSwap (g : Guard) (ord : BitVec 2) (sc : BitVec 3) (a : BitVec 5) (path : Path) : Statement (.atomSwap g ord sc a path) := by
  intro hw
  simp only [Instr.wf, Bool.and_eq_true, stepWf, EFlags.wf, scopeOk, decide_eq_true_eq] at hw
  have hp : path.wf = true := by simp_all
  have ho : ∀ x : BitVec 2, x = 0 ∨ x = 1 ∨ x = 2 ∨ x = 3 := by decide
  rcases ho ord with rfl | rfl | rfl | rfl
  · show decodeSlot .m (rawOf (0x60#8 + (0#6 ++ 0#2)) g sc (0#3 ++ a) path.c0.code path.c1.code path.lo).word = _
    rw [decodeSlot, Raw.ofWord_word]
    show decAtomSwap 0 _ = _
    simp (disch := decide) only [decAtomSwap, rawOf, extract_append_hi, extract_append_lo, extract_all, Nat.sub_self, Nat.reduceAdd, Nat.reduceSub, getLsbD_append_lo, getLsbD_append_hi]
    simp_all [roleOf_code, viewOf_code, gregOf_code, need, stepOk, Raw.guard, toNat_pad2, toNat_pad11, toNat_pad1, scopeOk, casReg, BitVec.getLsbD_append, bind, Except.bind, pure, Except.pure, Raw.path_mk path hp]
  · show decodeSlot .m (rawOf (0x60#8 + (0#6 ++ 1#2)) g sc (0#3 ++ a) path.c0.code path.c1.code path.lo).word = _
    rw [decodeSlot, Raw.ofWord_word]
    show decAtomSwap 1 _ = _
    simp (disch := decide) only [decAtomSwap, rawOf, extract_append_hi, extract_append_lo, extract_all, Nat.sub_self, Nat.reduceAdd, Nat.reduceSub, getLsbD_append_lo, getLsbD_append_hi]
    simp_all [roleOf_code, viewOf_code, gregOf_code, need, stepOk, Raw.guard, toNat_pad2, toNat_pad11, toNat_pad1, scopeOk, casReg, BitVec.getLsbD_append, bind, Except.bind, pure, Except.pure, Raw.path_mk path hp]
  · show decodeSlot .m (rawOf (0x60#8 + (0#6 ++ 2#2)) g sc (0#3 ++ a) path.c0.code path.c1.code path.lo).word = _
    rw [decodeSlot, Raw.ofWord_word]
    show decAtomSwap 2 _ = _
    simp (disch := decide) only [decAtomSwap, rawOf, extract_append_hi, extract_append_lo, extract_all, Nat.sub_self, Nat.reduceAdd, Nat.reduceSub, getLsbD_append_lo, getLsbD_append_hi]
    simp_all [roleOf_code, viewOf_code, gregOf_code, need, stepOk, Raw.guard, toNat_pad2, toNat_pad11, toNat_pad1, scopeOk, casReg, BitVec.getLsbD_append, bind, Except.bind, pure, Except.pure, Raw.path_mk path hp]
  · show decodeSlot .m (rawOf (0x60#8 + (0#6 ++ 3#2)) g sc (0#3 ++ a) path.c0.code path.c1.code path.lo).word = _
    rw [decodeSlot, Raw.ofWord_word]
    show decAtomSwap 3 _ = _
    simp (disch := decide) only [decAtomSwap, rawOf, extract_append_hi, extract_append_lo, extract_all, Nat.sub_self, Nat.reduceAdd, Nat.reduceSub, getLsbD_append_lo, getLsbD_append_hi]
    simp_all [roleOf_code, viewOf_code, gregOf_code, need, stepOk, Raw.guard, toNat_pad2, toNat_pad11, toNat_pad1, scopeOk, casReg, BitVec.getLsbD_append, bind, Except.bind, pure, Except.pure, Raw.path_mk path hp]
theorem atomCas (g : Guard) (ord : BitVec 2) (sc : BitVec 3) (a : BitVec 5) (path : Path) : Statement (.atomCas g ord sc a path) := by
  intro hw
  simp only [Instr.wf, Bool.and_eq_true, stepWf, EFlags.wf, scopeOk, decide_eq_true_eq] at hw
  have hp : path.wf = true := by simp_all
  have ho : ∀ x : BitVec 2, x = 0 ∨ x = 1 ∨ x = 2 ∨ x = 3 := by decide
  rcases ho ord with rfl | rfl | rfl | rfl
  · show decodeSlot .m (rawOf (0x64#8 + (0#6 ++ 0#2)) g sc (0#3 ++ a) path.c0.code path.c1.code path.lo).word = _
    rw [decodeSlot, Raw.ofWord_word]
    show decAtomCas 0 _ = _
    simp (disch := decide) only [decAtomCas, rawOf, extract_append_hi, extract_append_lo, extract_all, Nat.sub_self, Nat.reduceAdd, Nat.reduceSub, getLsbD_append_lo, getLsbD_append_hi]
    simp_all [roleOf_code, viewOf_code, gregOf_code, need, stepOk, Raw.guard, toNat_pad2, toNat_pad11, toNat_pad1, scopeOk, casReg, BitVec.getLsbD_append, bind, Except.bind, pure, Except.pure, Raw.path_mk path hp]
  · show decodeSlot .m (rawOf (0x64#8 + (0#6 ++ 1#2)) g sc (0#3 ++ a) path.c0.code path.c1.code path.lo).word = _
    rw [decodeSlot, Raw.ofWord_word]
    show decAtomCas 1 _ = _
    simp (disch := decide) only [decAtomCas, rawOf, extract_append_hi, extract_append_lo, extract_all, Nat.sub_self, Nat.reduceAdd, Nat.reduceSub, getLsbD_append_lo, getLsbD_append_hi]
    simp_all [roleOf_code, viewOf_code, gregOf_code, need, stepOk, Raw.guard, toNat_pad2, toNat_pad11, toNat_pad1, scopeOk, casReg, BitVec.getLsbD_append, bind, Except.bind, pure, Except.pure, Raw.path_mk path hp]
  · show decodeSlot .m (rawOf (0x64#8 + (0#6 ++ 2#2)) g sc (0#3 ++ a) path.c0.code path.c1.code path.lo).word = _
    rw [decodeSlot, Raw.ofWord_word]
    show decAtomCas 2 _ = _
    simp (disch := decide) only [decAtomCas, rawOf, extract_append_hi, extract_append_lo, extract_all, Nat.sub_self, Nat.reduceAdd, Nat.reduceSub, getLsbD_append_lo, getLsbD_append_hi]
    simp_all [roleOf_code, viewOf_code, gregOf_code, need, stepOk, Raw.guard, toNat_pad2, toNat_pad11, toNat_pad1, scopeOk, casReg, BitVec.getLsbD_append, bind, Except.bind, pure, Except.pure, Raw.path_mk path hp]
  · show decodeSlot .m (rawOf (0x64#8 + (0#6 ++ 3#2)) g sc (0#3 ++ a) path.c0.code path.c1.code path.lo).word = _
    rw [decodeSlot, Raw.ofWord_word]
    show decAtomCas 3 _ = _
    simp (disch := decide) only [decAtomCas, rawOf, extract_append_hi, extract_append_lo, extract_all, Nat.sub_self, Nat.reduceAdd, Nat.reduceSub, getLsbD_append_lo, getLsbD_append_hi]
    simp_all [roleOf_code, viewOf_code, gregOf_code, need, stepOk, Raw.guard, toNat_pad2, toNat_pad11, toNat_pad1, scopeOk, casReg, BitVec.getLsbD_append, bind, Except.bind, pure, Except.pure, Raw.path_mk path hp]
theorem atomrAdd (g : Guard) (ord : BitVec 2) (a : BitVec 5) (path : Path) : Statement (.atomrAdd g ord a path) := by
  intro hw
  simp only [Instr.wf, Bool.and_eq_true, stepWf, EFlags.wf, scopeOk, decide_eq_true_eq] at hw
  have hp : path.wf = true := by simp_all
  show decodeSlot .m (rawOf 0x70#8 g (0#1 ++ ord) (0#3 ++ a) path.c0.code path.c1.code path.lo).word = _
  rw [decodeSlot, Raw.ofWord_word]
  show decAtomrAdd _ = _
  simp (disch := decide) only [decAtomrAdd, rawOf, extract_append_hi, extract_append_lo, extract_all, Nat.sub_self, Nat.reduceAdd, Nat.reduceSub, getLsbD_append_lo, getLsbD_append_hi]
  simp_all [roleOf_code, viewOf_code, gregOf_code, need, stepOk, Raw.guard, toNat_pad2, toNat_pad11, toNat_pad1, scopeOk, casReg, BitVec.getLsbD_append, bind, Except.bind, pure, Except.pure, Raw.path_mk path hp]
theorem atomrAnd (g : Guard) (ord : BitVec 2) (a : BitVec 5) (path : Path) : Statement (.atomrAnd g ord a path) := by
  intro hw
  simp only [Instr.wf, Bool.and_eq_true, stepWf, EFlags.wf, scopeOk, decide_eq_true_eq] at hw
  have hp : path.wf = true := by simp_all
  show decodeSlot .m (rawOf 0x71#8 g (0#1 ++ ord) (0#3 ++ a) path.c0.code path.c1.code path.lo).word = _
  rw [decodeSlot, Raw.ofWord_word]
  show decAtomrAnd _ = _
  simp (disch := decide) only [decAtomrAnd, rawOf, extract_append_hi, extract_append_lo, extract_all, Nat.sub_self, Nat.reduceAdd, Nat.reduceSub, getLsbD_append_lo, getLsbD_append_hi]
  simp_all [roleOf_code, viewOf_code, gregOf_code, need, stepOk, Raw.guard, toNat_pad2, toNat_pad11, toNat_pad1, scopeOk, casReg, BitVec.getLsbD_append, bind, Except.bind, pure, Except.pure, Raw.path_mk path hp]
theorem atomrOr (g : Guard) (ord : BitVec 2) (a : BitVec 5) (path : Path) : Statement (.atomrOr g ord a path) := by
  intro hw
  simp only [Instr.wf, Bool.and_eq_true, stepWf, EFlags.wf, scopeOk, decide_eq_true_eq] at hw
  have hp : path.wf = true := by simp_all
  show decodeSlot .m (rawOf 0x72#8 g (0#1 ++ ord) (0#3 ++ a) path.c0.code path.c1.code path.lo).word = _
  rw [decodeSlot, Raw.ofWord_word]
  show decAtomrOr _ = _
  simp (disch := decide) only [decAtomrOr, rawOf, extract_append_hi, extract_append_lo, extract_all, Nat.sub_self, Nat.reduceAdd, Nat.reduceSub, getLsbD_append_lo, getLsbD_append_hi]
  simp_all [roleOf_code, viewOf_code, gregOf_code, need, stepOk, Raw.guard, toNat_pad2, toNat_pad11, toNat_pad1, scopeOk, casReg, BitVec.getLsbD_append, bind, Except.bind, pure, Except.pure, Raw.path_mk path hp]
theorem atomrXor (g : Guard) (ord : BitVec 2) (a : BitVec 5) (path : Path) : Statement (.atomrXor g ord a path) := by
  intro hw
  simp only [Instr.wf, Bool.and_eq_true, stepWf, EFlags.wf, scopeOk, decide_eq_true_eq] at hw
  have hp : path.wf = true := by simp_all
  show decodeSlot .m (rawOf 0x73#8 g (0#1 ++ ord) (0#3 ++ a) path.c0.code path.c1.code path.lo).word = _
  rw [decodeSlot, Raw.ofWord_word]
  show decAtomrXor _ = _
  simp (disch := decide) only [decAtomrXor, rawOf, extract_append_hi, extract_append_lo, extract_all, Nat.sub_self, Nat.reduceAdd, Nat.reduceSub, getLsbD_append_lo, getLsbD_append_hi]
  simp_all [roleOf_code, viewOf_code, gregOf_code, need, stepOk, Raw.guard, toNat_pad2, toNat_pad11, toNat_pad1, scopeOk, casReg, BitVec.getLsbD_append, bind, Except.bind, pure, Except.pure, Raw.path_mk path hp]
theorem atomrMin (g : Guard) (ord : BitVec 2) (a : BitVec 5) (path : Path) : Statement (.atomrMin g ord a path) := by
  intro hw
  simp only [Instr.wf, Bool.and_eq_true, stepWf, EFlags.wf, scopeOk, decide_eq_true_eq] at hw
  have hp : path.wf = true := by simp_all
  show decodeSlot .m (rawOf 0x74#8 g (0#1 ++ ord) (0#3 ++ a) path.c0.code path.c1.code path.lo).word = _
  rw [decodeSlot, Raw.ofWord_word]
  show decAtomrMin _ = _
  simp (disch := decide) only [decAtomrMin, rawOf, extract_append_hi, extract_append_lo, extract_all, Nat.sub_self, Nat.reduceAdd, Nat.reduceSub, getLsbD_append_lo, getLsbD_append_hi]
  simp_all [roleOf_code, viewOf_code, gregOf_code, need, stepOk, Raw.guard, toNat_pad2, toNat_pad11, toNat_pad1, scopeOk, casReg, BitVec.getLsbD_append, bind, Except.bind, pure, Except.pure, Raw.path_mk path hp]
theorem atomrMax (g : Guard) (ord : BitVec 2) (a : BitVec 5) (path : Path) : Statement (.atomrMax g ord a path) := by
  intro hw
  simp only [Instr.wf, Bool.and_eq_true, stepWf, EFlags.wf, scopeOk, decide_eq_true_eq] at hw
  have hp : path.wf = true := by simp_all
  show decodeSlot .m (rawOf 0x75#8 g (0#1 ++ ord) (0#3 ++ a) path.c0.code path.c1.code path.lo).word = _
  rw [decodeSlot, Raw.ofWord_word]
  show decAtomrMax _ = _
  simp (disch := decide) only [decAtomrMax, rawOf, extract_append_hi, extract_append_lo, extract_all, Nat.sub_self, Nat.reduceAdd, Nat.reduceSub, getLsbD_append_lo, getLsbD_append_hi]
  simp_all [roleOf_code, viewOf_code, gregOf_code, need, stepOk, Raw.guard, toNat_pad2, toNat_pad11, toNat_pad1, scopeOk, casReg, BitVec.getLsbD_append, bind, Except.bind, pure, Except.pure, Raw.path_mk path hp]
theorem atomrMinn (g : Guard) (ord : BitVec 2) (a : BitVec 5) (path : Path) : Statement (.atomrMinn g ord a path) := by
  intro hw
  simp only [Instr.wf, Bool.and_eq_true, stepWf, EFlags.wf, scopeOk, decide_eq_true_eq] at hw
  have hp : path.wf = true := by simp_all
  show decodeSlot .m (rawOf 0x76#8 g (0#1 ++ ord) (0#3 ++ a) path.c0.code path.c1.code path.lo).word = _
  rw [decodeSlot, Raw.ofWord_word]
  show decAtomrMinn _ = _
  simp (disch := decide) only [decAtomrMinn, rawOf, extract_append_hi, extract_append_lo, extract_all, Nat.sub_self, Nat.reduceAdd, Nat.reduceSub, getLsbD_append_lo, getLsbD_append_hi]
  simp_all [roleOf_code, viewOf_code, gregOf_code, need, stepOk, Raw.guard, toNat_pad2, toNat_pad11, toNat_pad1, scopeOk, casReg, BitVec.getLsbD_append, bind, Except.bind, pure, Except.pure, Raw.path_mk path hp]
theorem atomrMaxn (g : Guard) (ord : BitVec 2) (a : BitVec 5) (path : Path) : Statement (.atomrMaxn g ord a path) := by
  intro hw
  simp only [Instr.wf, Bool.and_eq_true, stepWf, EFlags.wf, scopeOk, decide_eq_true_eq] at hw
  have hp : path.wf = true := by simp_all
  show decodeSlot .m (rawOf 0x77#8 g (0#1 ++ ord) (0#3 ++ a) path.c0.code path.c1.code path.lo).word = _
  rw [decodeSlot, Raw.ofWord_word]
  show decAtomrMaxn _ = _
  simp (disch := decide) only [decAtomrMaxn, rawOf, extract_append_hi, extract_append_lo, extract_all, Nat.sub_self, Nat.reduceAdd, Nat.reduceSub, getLsbD_append_lo, getLsbD_append_hi]
  simp_all [roleOf_code, viewOf_code, gregOf_code, need, stepOk, Raw.guard, toNat_pad2, toNat_pad11, toNat_pad1, scopeOk, casReg, BitVec.getLsbD_append, bind, Except.bind, pure, Except.pure, Raw.path_mk path hp]
theorem atomrSwap (g : Guard) (ord : BitVec 2) (a : BitVec 5) (path : Path) : Statement (.atomrSwap g ord a path) := by
  intro hw
  simp only [Instr.wf, Bool.and_eq_true, stepWf, EFlags.wf, scopeOk, decide_eq_true_eq] at hw
  have hp : path.wf = true := by simp_all
  show decodeSlot .m (rawOf 0x78#8 g (0#1 ++ ord) (0#3 ++ a) path.c0.code path.c1.code path.lo).word = _
  rw [decodeSlot, Raw.ofWord_word]
  show decAtomrSwap _ = _
  simp (disch := decide) only [decAtomrSwap, rawOf, extract_append_hi, extract_append_lo, extract_all, Nat.sub_self, Nat.reduceAdd, Nat.reduceSub, getLsbD_append_lo, getLsbD_append_hi]
  simp_all [roleOf_code, viewOf_code, gregOf_code, need, stepOk, Raw.guard, toNat_pad2, toNat_pad11, toNat_pad1, scopeOk, casReg, BitVec.getLsbD_append, bind, Except.bind, pure, Except.pure, Raw.path_mk path hp]
theorem atomrCas (g : Guard) (ord : BitVec 2) (a : BitVec 5) (path : Path) : Statement (.atomrCas g ord a path) := by
  intro hw
  simp only [Instr.wf, Bool.and_eq_true, stepWf, EFlags.wf, scopeOk, decide_eq_true_eq] at hw
  have hp : path.wf = true := by simp_all
  show decodeSlot .m (rawOf 0x79#8 g (0#1 ++ ord) (0#3 ++ a) path.c0.code path.c1.code path.lo).word = _
  rw [decodeSlot, Raw.ofWord_word]
  show decAtomrCas _ = _
  simp (disch := decide) only [decAtomrCas, rawOf, extract_append_hi, extract_append_lo, extract_all, Nat.sub_self, Nat.reduceAdd, Nat.reduceSub, getLsbD_append_lo, getLsbD_append_hi]
  simp_all [roleOf_code, viewOf_code, gregOf_code, need, stepOk, Raw.guard, toNat_pad2, toNat_pad11, toNat_pad1, scopeOk, casReg, BitVec.getLsbD_append, bind, Except.bind, pure, Except.pure, Raw.path_mk path hp]
theorem call (g : Guard) (d : BitVec 5) (v : BitVec 5) : Statement (.call g d v) := by
  intro hw
  simp only [Instr.wf, Bool.and_eq_true, stepWf, EFlags.wf, scopeOk, decide_eq_true_eq] at hw
  show decodeSlot .t (rawOf 0x00#8 g 0#3 (0#3 ++ d) (1#3 ++ v) 0#8 (0#24)).word = _
  rw [decodeSlot, Raw.ofWord_word]
  show decCall _ = _
  simp (disch := decide) only [decCall, rawOf, extract_append_hi, extract_append_lo, extract_all, Nat.sub_self, Nat.reduceAdd, Nat.reduceSub, getLsbD_append_lo, getLsbD_append_hi]
  simp_all [roleOf_code, viewOf_code, gregOf_code, need, stepOk, Raw.guard, toNat_pad2, toNat_pad11, toNat_pad1, scopeOk, casReg, BitVec.getLsbD_append, bind, Except.bind, pure, Except.pure]
theorem callGang (g : Guard) (d : BitVec 5) (v : BitVec 5) (n : Opnd) : Statement (.callGang g d v n) := by
  intro hw
  simp only [Instr.wf, Bool.and_eq_true, stepWf, EFlags.wf, scopeOk, decide_eq_true_eq] at hw
  show decodeSlot .t (rawOf 0x01#8 g 0#3 (0#3 ++ d) (1#3 ++ v) n.code (0#24)).word = _
  rw [decodeSlot, Raw.ofWord_word]
  show decCallGang _ = _
  simp (disch := decide) only [decCallGang, rawOf, extract_append_hi, extract_append_lo, extract_all, Nat.sub_self, Nat.reduceAdd, Nat.reduceSub, getLsbD_append_lo, getLsbD_append_hi]
  simp_all [roleOf_code, viewOf_code, gregOf_code, need, stepOk, Raw.guard, toNat_pad2, toNat_pad11, toNat_pad1, scopeOk, casReg, BitVec.getLsbD_append, bind, Except.bind, pure, Except.pure]
theorem join (g : Guard) (d : Opnd) (h : Opnd) : Statement (.join g d h) := by
  intro hw
  simp only [Instr.wf, Bool.and_eq_true, stepWf, EFlags.wf, scopeOk, decide_eq_true_eq] at hw
  show decodeSlot .t (rawOf 0x02#8 g 0#3 d.code h.code 0#8 (0#24)).word = _
  rw [decodeSlot, Raw.ofWord_word]
  show decJoin _ = _
  simp (disch := decide) only [decJoin, rawOf, extract_append_hi, extract_append_lo, extract_all, Nat.sub_self, Nat.reduceAdd, Nat.reduceSub, getLsbD_append_lo, getLsbD_append_hi]
  simp_all [roleOf_code, viewOf_code, gregOf_code, need, stepOk, Raw.guard, toNat_pad2, toNat_pad11, toNat_pad1, scopeOk, casReg, BitVec.getLsbD_append, bind, Except.bind, pure, Except.pure]
theorem spawn (g : Guard) (d : BitVec 5) (v : BitVec 5) : Statement (.spawn g d v) := by
  intro hw
  simp only [Instr.wf, Bool.and_eq_true, stepWf, EFlags.wf, scopeOk, decide_eq_true_eq] at hw
  show decodeSlot .t (rawOf 0x03#8 g 0#3 (0#3 ++ d) (1#3 ++ v) 0#8 (0#24)).word = _
  rw [decodeSlot, Raw.ofWord_word]
  show decSpawn _ = _
  simp (disch := decide) only [decSpawn, rawOf, extract_append_hi, extract_append_lo, extract_all, Nat.sub_self, Nat.reduceAdd, Nat.reduceSub, getLsbD_append_lo, getLsbD_append_hi]
  simp_all [roleOf_code, viewOf_code, gregOf_code, need, stepOk, Raw.guard, toNat_pad2, toNat_pad11, toNat_pad1, scopeOk, casReg, BitVec.getLsbD_append, bind, Except.bind, pure, Except.pure]
theorem cpy (g : Guard) (v : BitVec 5) (fl : EFlags) : Statement (.cpy g v fl) := by
  intro hw
  simp only [Instr.wf, Bool.and_eq_true, stepWf, EFlags.wf, scopeOk, decide_eq_true_eq] at hw
  show decodeSlot .t (rawOf 0x08#8 g 0#3 (1#3 ++ v) 0#8 0#8 (0#16 ++ fl.bits)).word = _
  rw [decodeSlot, Raw.ofWord_word]
  show decCpy _ = _
  simp (disch := decide) only [decCpy, rawOf, EFlags.bits, EFlags.wf, extract_append_hi, extract_append_lo, extract_all, Nat.sub_self, Nat.reduceAdd, Nat.reduceSub, getLsbD_append_lo, getLsbD_append_hi]
  simp_all [roleOf_code, viewOf_code, gregOf_code, need, stepOk, Raw.guard, toNat_pad2, toNat_pad11, toNat_pad1, scopeOk, casReg, BitVec.getLsbD_append, bind, Except.bind, pure, Except.pure]
theorem cpyg (g : Guard) (v : BitVec 5) (x : BitVec 5) (fl : EFlags) : Statement (.cpyg g v x fl) := by
  intro hw
  simp only [Instr.wf, Bool.and_eq_true, stepWf, EFlags.wf, scopeOk, decide_eq_true_eq] at hw
  show decodeSlot .t (rawOf 0x09#8 g 0#3 (1#3 ++ v) (1#3 ++ x) 0#8 (0#16 ++ fl.bits)).word = _
  rw [decodeSlot, Raw.ofWord_word]
  show decCpyg _ = _
  simp (disch := decide) only [decCpyg, rawOf, EFlags.bits, EFlags.wf, extract_append_hi, extract_append_lo, extract_all, Nat.sub_self, Nat.reduceAdd, Nat.reduceSub, getLsbD_append_lo, getLsbD_append_hi]
  simp_all [roleOf_code, viewOf_code, gregOf_code, need, stepOk, Raw.guard, toNat_pad2, toNat_pad11, toNat_pad1, scopeOk, casReg, BitVec.getLsbD_append, bind, Except.bind, pure, Except.pure]
theorem cpyr (g : Guard) (v : BitVec 5) (fl : EFlags) : Statement (.cpyr g v fl) := by
  intro hw
  simp only [Instr.wf, Bool.and_eq_true, stepWf, EFlags.wf, scopeOk, decide_eq_true_eq] at hw
  show decodeSlot .t (rawOf 0x0a#8 g 0#3 (1#3 ++ v) 0#8 0#8 (0#16 ++ fl.bits)).word = _
  rw [decodeSlot, Raw.ofWord_word]
  show decCpyr _ = _
  simp (disch := decide) only [decCpyr, rawOf, EFlags.bits, EFlags.wf, extract_append_hi, extract_append_lo, extract_all, Nat.sub_self, Nat.reduceAdd, Nat.reduceSub, getLsbD_append_lo, getLsbD_append_hi]
  simp_all [roleOf_code, viewOf_code, gregOf_code, need, stepOk, Raw.guard, toNat_pad2, toNat_pad11, toNat_pad1, scopeOk, casReg, BitVec.getLsbD_append, bind, Except.bind, pure, Except.pure]
theorem fill (g : Guard) (v : BitVec 5) (b : Opnd) (fl : EFlags) : Statement (.fill g v b fl) := by
  intro hw
  simp only [Instr.wf, Bool.and_eq_true, stepWf, EFlags.wf, scopeOk, decide_eq_true_eq] at hw
  show decodeSlot .t (rawOf 0x0b#8 g 0#3 (1#3 ++ v) b.code 0#8 (0#16 ++ fl.bits)).word = _
  rw [decodeSlot, Raw.ofWord_word]
  show decFill _ = _
  simp (disch := decide) only [decFill, rawOf, EFlags.bits, EFlags.wf, extract_append_hi, extract_append_lo, extract_all, Nat.sub_self, Nat.reduceAdd, Nat.reduceSub, getLsbD_append_lo, getLsbD_append_hi]
  simp_all [roleOf_code, viewOf_code, gregOf_code, need, stepOk, Raw.guard, toNat_pad2, toNat_pad11, toNat_pad1, scopeOk, casReg, BitVec.getLsbD_append, bind, Except.bind, pure, Except.pure]
theorem collAllreduce (g : Guard) (v : BitVec 5) (fl : EFlags) : Statement (.collAllreduce g v fl) := by
  intro hw
  simp only [Instr.wf, Bool.and_eq_true, stepWf, EFlags.wf, scopeOk, decide_eq_true_eq] at hw
  show decodeSlot .t (rawOf 0x10#8 g 0#3 (1#3 ++ v) 0#8 0#8 (0#16 ++ fl.bits)).word = _
  rw [decodeSlot, Raw.ofWord_word]
  show decCollAllreduce _ = _
  simp (disch := decide) only [decCollAllreduce, rawOf, EFlags.bits, EFlags.wf, extract_append_hi, extract_append_lo, extract_all, Nat.sub_self, Nat.reduceAdd, Nat.reduceSub, getLsbD_append_lo, getLsbD_append_hi]
  simp_all [roleOf_code, viewOf_code, gregOf_code, need, stepOk, Raw.guard, toNat_pad2, toNat_pad11, toNat_pad1, scopeOk, casReg, BitVec.getLsbD_append, bind, Except.bind, pure, Except.pure]
theorem collAllgather (g : Guard) (v : BitVec 5) (fl : EFlags) : Statement (.collAllgather g v fl) := by
  intro hw
  simp only [Instr.wf, Bool.and_eq_true, stepWf, EFlags.wf, scopeOk, decide_eq_true_eq] at hw
  show decodeSlot .t (rawOf 0x10#8 g 1#3 (1#3 ++ v) 0#8 0#8 (0#16 ++ fl.bits)).word = _
  rw [decodeSlot, Raw.ofWord_word]
  show decCollAllgather _ = _
  simp (disch := decide) only [decCollAllgather, rawOf, EFlags.bits, EFlags.wf, extract_append_hi, extract_append_lo, extract_all, Nat.sub_self, Nat.reduceAdd, Nat.reduceSub, getLsbD_append_lo, getLsbD_append_hi]
  simp_all [roleOf_code, viewOf_code, gregOf_code, need, stepOk, Raw.guard, toNat_pad2, toNat_pad11, toNat_pad1, scopeOk, casReg, BitVec.getLsbD_append, bind, Except.bind, pure, Except.pure]
theorem collReducescatter (g : Guard) (v : BitVec 5) (fl : EFlags) : Statement (.collReducescatter g v fl) := by
  intro hw
  simp only [Instr.wf, Bool.and_eq_true, stepWf, EFlags.wf, scopeOk, decide_eq_true_eq] at hw
  show decodeSlot .t (rawOf 0x10#8 g 2#3 (1#3 ++ v) 0#8 0#8 (0#16 ++ fl.bits)).word = _
  rw [decodeSlot, Raw.ofWord_word]
  show decCollReducescatter _ = _
  simp (disch := decide) only [decCollReducescatter, rawOf, EFlags.bits, EFlags.wf, extract_append_hi, extract_append_lo, extract_all, Nat.sub_self, Nat.reduceAdd, Nat.reduceSub, getLsbD_append_lo, getLsbD_append_hi]
  simp_all [roleOf_code, viewOf_code, gregOf_code, need, stepOk, Raw.guard, toNat_pad2, toNat_pad11, toNat_pad1, scopeOk, casReg, BitVec.getLsbD_append, bind, Except.bind, pure, Except.pure]
theorem collAlltoall (g : Guard) (v : BitVec 5) (fl : EFlags) : Statement (.collAlltoall g v fl) := by
  intro hw
  simp only [Instr.wf, Bool.and_eq_true, stepWf, EFlags.wf, scopeOk, decide_eq_true_eq] at hw
  show decodeSlot .t (rawOf 0x10#8 g 3#3 (1#3 ++ v) 0#8 0#8 (0#16 ++ fl.bits)).word = _
  rw [decodeSlot, Raw.ofWord_word]
  show decCollAlltoall _ = _
  simp (disch := decide) only [decCollAlltoall, rawOf, EFlags.bits, EFlags.wf, extract_append_hi, extract_append_lo, extract_all, Nat.sub_self, Nat.reduceAdd, Nat.reduceSub, getLsbD_append_lo, getLsbD_append_hi]
  simp_all [roleOf_code, viewOf_code, gregOf_code, need, stepOk, Raw.guard, toNat_pad2, toNat_pad11, toNat_pad1, scopeOk, casReg, BitVec.getLsbD_append, bind, Except.bind, pure, Except.pure]
theorem placeQ (g : Guard) (d : BitVec 5) (bx : BitVec 4) : Statement (.placeQ g d bx) := by
  intro hw
  simp only [Instr.wf, Bool.and_eq_true, stepWf, EFlags.wf, scopeOk, decide_eq_true_eq] at hw
  show decodeSlot .t (rawOf 0x18#8 g 0#3 (0#3 ++ d) 0#8 0#8 (0#20 ++ bx)).word = _
  rw [decodeSlot, Raw.ofWord_word]
  show decPlaceQ _ = _
  simp (disch := decide) only [decPlaceQ, rawOf, extract_append_hi, extract_append_lo, extract_all, Nat.sub_self, Nat.reduceAdd, Nat.reduceSub, getLsbD_append_lo, getLsbD_append_hi]
  simp_all [roleOf_code, viewOf_code, gregOf_code, need, stepOk, Raw.guard, toNat_pad2, toNat_pad11, toNat_pad1, scopeOk, casReg, BitVec.getLsbD_append, bind, Except.bind, pure, Except.pure]
theorem placeD (g : Guard) (a : Opnd) (bx : BitVec 4) : Statement (.placeD g a bx) := by
  intro hw
  simp only [Instr.wf, Bool.and_eq_true, stepWf, EFlags.wf, scopeOk, decide_eq_true_eq] at hw
  show decodeSlot .t (rawOf 0x18#8 g 1#3 a.code 0#8 0#8 (0#20 ++ bx)).word = _
  rw [decodeSlot, Raw.ofWord_word]
  show decPlaceD _ = _
  simp (disch := decide) only [decPlaceD, rawOf, extract_append_hi, extract_append_lo, extract_all, Nat.sub_self, Nat.reduceAdd, Nat.reduceSub, getLsbD_append_lo, getLsbD_append_hi]
  simp_all [roleOf_code, viewOf_code, gregOf_code, need, stepOk, Raw.guard, toNat_pad2, toNat_pad11, toNat_pad1, scopeOk, casReg, BitVec.getLsbD_append, bind, Except.bind, pure, Except.pure]
theorem ckpt (g : Guard) (d : BitVec 5) (t : Opnd) : Statement (.ckpt g d t) := by
  intro hw
  simp only [Instr.wf, Bool.and_eq_true, stepWf, EFlags.wf, scopeOk, decide_eq_true_eq] at hw
  show decodeSlot .t (rawOf 0x19#8 g 0#3 (0#3 ++ d) t.code 0#8 (0#24)).word = _
  rw [decodeSlot, Raw.ofWord_word]
  show decCkpt _ = _
  simp (disch := decide) only [decCkpt, rawOf, extract_append_hi, extract_append_lo, extract_all, Nat.sub_self, Nat.reduceAdd, Nat.reduceSub, getLsbD_append_lo, getLsbD_append_hi]
  simp_all [roleOf_code, viewOf_code, gregOf_code, need, stepOk, Raw.guard, toNat_pad2, toNat_pad11, toNat_pad1, scopeOk, casReg, BitVec.getLsbD_append, bind, Except.bind, pure, Except.pure]
theorem tlaunch (g : Guard) (d : BitVec 5) (v : BitVec 5) (t : Opnd) : Statement (.tlaunch g d v t) := by
  intro hw
  simp only [Instr.wf, Bool.and_eq_true, stepWf, EFlags.wf, scopeOk, decide_eq_true_eq] at hw
  show decodeSlot .t (rawOf 0x1c#8 g 0#3 (0#3 ++ d) (1#3 ++ v) t.code (0#24)).word = _
  rw [decodeSlot, Raw.ofWord_word]
  show decTlaunch _ = _
  simp (disch := decide) only [decTlaunch, rawOf, extract_append_hi, extract_append_lo, extract_all, Nat.sub_self, Nat.reduceAdd, Nat.reduceSub, getLsbD_append_lo, getLsbD_append_hi]
  simp_all [roleOf_code, viewOf_code, gregOf_code, need, stepOk, Raw.guard, toNat_pad2, toNat_pad11, toNat_pad1, scopeOk, casReg, BitVec.getLsbD_append, bind, Except.bind, pure, Except.pure]
theorem tpre (g : Guard) (t : Opnd) : Statement (.tpre g t) := by
  intro hw
  simp only [Instr.wf, Bool.and_eq_true, stepWf, EFlags.wf, scopeOk, decide_eq_true_eq] at hw
  show decodeSlot .t (rawOf 0x1d#8 g 0#3 0#8 t.code 0#8 (0#24)).word = _
  rw [decodeSlot, Raw.ofWord_word]
  show decTpre _ = _
  simp (disch := decide) only [decTpre, rawOf, extract_append_hi, extract_append_lo, extract_all, Nat.sub_self, Nat.reduceAdd, Nat.reduceSub, getLsbD_append_lo, getLsbD_append_hi]
  simp_all [roleOf_code, viewOf_code, gregOf_code, need, stepOk, Raw.guard, toNat_pad2, toNat_pad11, toNat_pad1, scopeOk, casReg, BitVec.getLsbD_append, bind, Except.bind, pure, Except.pure]
theorem vadd (g : Guard) (rm : BitVec 2) (d : Opnd) (b : Opnd) (c : Opnd) (m : VMask) : Statement (.vadd g rm d b c m) := by
  intro hw
  simp only [Instr.wf, Bool.and_eq_true, stepWf, EFlags.wf, scopeOk, decide_eq_true_eq] at hw
  show decodeSlot .v (rawOf 0x00#8 g (0#1 ++ rm) d.code b.code c.code (0#8 ++ 0#5 ++ m.bits)).word = _
  rw [decodeSlot, Raw.ofWord_word]
  show decVadd _ = _
  simp (disch := decide) only [decVadd, rawOf, VMask.bits, extract_append_hi, extract_append_lo, extract_all, Nat.sub_self, Nat.reduceAdd, Nat.reduceSub, getLsbD_append_lo, getLsbD_append_hi]
  simp_all [roleOf_code, viewOf_code, gregOf_code, need, stepOk, Raw.guard, toNat_pad2, toNat_pad11, toNat_pad1, scopeOk, casReg, BitVec.getLsbD_append, bind, Except.bind, pure, Except.pure]
theorem vsub (g : Guard) (rm : BitVec 2) (d : Opnd) (b : Opnd) (c : Opnd) (m : VMask) : Statement (.vsub g rm d b c m) := by
  intro hw
  simp only [Instr.wf, Bool.and_eq_true, stepWf, EFlags.wf, scopeOk, decide_eq_true_eq] at hw
  show decodeSlot .v (rawOf 0x01#8 g (0#1 ++ rm) d.code b.code c.code (0#8 ++ 0#5 ++ m.bits)).word = _
  rw [decodeSlot, Raw.ofWord_word]
  show decVsub _ = _
  simp (disch := decide) only [decVsub, rawOf, VMask.bits, extract_append_hi, extract_append_lo, extract_all, Nat.sub_self, Nat.reduceAdd, Nat.reduceSub, getLsbD_append_lo, getLsbD_append_hi]
  simp_all [roleOf_code, viewOf_code, gregOf_code, need, stepOk, Raw.guard, toNat_pad2, toNat_pad11, toNat_pad1, scopeOk, casReg, BitVec.getLsbD_append, bind, Except.bind, pure, Except.pure]
theorem vmul (g : Guard) (rm : BitVec 2) (d : Opnd) (b : Opnd) (c : Opnd) (m : VMask) : Statement (.vmul g rm d b c m) := by
  intro hw
  simp only [Instr.wf, Bool.and_eq_true, stepWf, EFlags.wf, scopeOk, decide_eq_true_eq] at hw
  show decodeSlot .v (rawOf 0x02#8 g (0#1 ++ rm) d.code b.code c.code (0#8 ++ 0#5 ++ m.bits)).word = _
  rw [decodeSlot, Raw.ofWord_word]
  show decVmul _ = _
  simp (disch := decide) only [decVmul, rawOf, VMask.bits, extract_append_hi, extract_append_lo, extract_all, Nat.sub_self, Nat.reduceAdd, Nat.reduceSub, getLsbD_append_lo, getLsbD_append_hi]
  simp_all [roleOf_code, viewOf_code, gregOf_code, need, stepOk, Raw.guard, toNat_pad2, toNat_pad11, toNat_pad1, scopeOk, casReg, BitVec.getLsbD_append, bind, Except.bind, pure, Except.pure]
theorem vfma (g : Guard) (rm : BitVec 2) (d : Opnd) (b : Opnd) (c : Opnd) (e : Opnd) (m : VMask) : Statement (.vfma g rm d b c e m) := by
  intro hw
  simp only [Instr.wf, Bool.and_eq_true, stepWf, EFlags.wf, scopeOk, decide_eq_true_eq] at hw
  show decodeSlot .v (rawOf 0x03#8 g (0#1 ++ rm) d.code b.code c.code (e.code ++ 0#5 ++ m.bits)).word = _
  rw [decodeSlot, Raw.ofWord_word]
  show decVfma _ = _
  simp (disch := decide) only [decVfma, rawOf, VMask.bits, extract_append_hi, extract_append_lo, extract_all, Nat.sub_self, Nat.reduceAdd, Nat.reduceSub, getLsbD_append_lo, getLsbD_append_hi]
  simp_all [roleOf_code, viewOf_code, gregOf_code, need, stepOk, Raw.guard, toNat_pad2, toNat_pad11, toNat_pad1, scopeOk, casReg, BitVec.getLsbD_append, bind, Except.bind, pure, Except.pure]
theorem vfms (g : Guard) (rm : BitVec 2) (d : Opnd) (b : Opnd) (c : Opnd) (e : Opnd) (m : VMask) : Statement (.vfms g rm d b c e m) := by
  intro hw
  simp only [Instr.wf, Bool.and_eq_true, stepWf, EFlags.wf, scopeOk, decide_eq_true_eq] at hw
  show decodeSlot .v (rawOf 0x04#8 g (0#1 ++ rm) d.code b.code c.code (e.code ++ 0#5 ++ m.bits)).word = _
  rw [decodeSlot, Raw.ofWord_word]
  show decVfms _ = _
  simp (disch := decide) only [decVfms, rawOf, VMask.bits, extract_append_hi, extract_append_lo, extract_all, Nat.sub_self, Nat.reduceAdd, Nat.reduceSub, getLsbD_append_lo, getLsbD_append_hi]
  simp_all [roleOf_code, viewOf_code, gregOf_code, need, stepOk, Raw.guard, toNat_pad2, toNat_pad11, toNat_pad1, scopeOk, casReg, BitVec.getLsbD_append, bind, Except.bind, pure, Except.pure]
theorem vmin (g : Guard) (d : Opnd) (b : Opnd) (c : Opnd) (m : VMask) : Statement (.vmin g d b c m) := by
  intro hw
  simp only [Instr.wf, Bool.and_eq_true, stepWf, EFlags.wf, scopeOk, decide_eq_true_eq] at hw
  show decodeSlot .v (rawOf 0x05#8 g 0#3 d.code b.code c.code (0#8 ++ 0#5 ++ m.bits)).word = _
  rw [decodeSlot, Raw.ofWord_word]
  show decVmin _ = _
  simp (disch := decide) only [decVmin, rawOf, VMask.bits, extract_append_hi, extract_append_lo, extract_all, Nat.sub_self, Nat.reduceAdd, Nat.reduceSub, getLsbD_append_lo, getLsbD_append_hi]
  simp_all [roleOf_code, viewOf_code, gregOf_code, need, stepOk, Raw.guard, toNat_pad2, toNat_pad11, toNat_pad1, scopeOk, casReg, BitVec.getLsbD_append, bind, Except.bind, pure, Except.pure]
theorem vmax (g : Guard) (d : Opnd) (b : Opnd) (c : Opnd) (m : VMask) : Statement (.vmax g d b c m) := by
  intro hw
  simp only [Instr.wf, Bool.and_eq_true, stepWf, EFlags.wf, scopeOk, decide_eq_true_eq] at hw
  show decodeSlot .v (rawOf 0x06#8 g 0#3 d.code b.code c.code (0#8 ++ 0#5 ++ m.bits)).word = _
  rw [decodeSlot, Raw.ofWord_word]
  show decVmax _ = _
  simp (disch := decide) only [decVmax, rawOf, VMask.bits, extract_append_hi, extract_append_lo, extract_all, Nat.sub_self, Nat.reduceAdd, Nat.reduceSub, getLsbD_append_lo, getLsbD_append_hi]
  simp_all [roleOf_code, viewOf_code, gregOf_code, need, stepOk, Raw.guard, toNat_pad2, toNat_pad11, toNat_pad1, scopeOk, casReg, BitVec.getLsbD_append, bind, Except.bind, pure, Except.pure]
theorem vdiv (g : Guard) (rm : BitVec 2) (d : Opnd) (b : Opnd) (c : Opnd) (m : VMask) : Statement (.vdiv g rm d b c m) := by
  intro hw
  simp only [Instr.wf, Bool.and_eq_true, stepWf, EFlags.wf, scopeOk, decide_eq_true_eq] at hw
  show decodeSlot .v (rawOf 0x07#8 g (0#1 ++ rm) d.code b.code c.code (0#8 ++ 0#5 ++ m.bits)).word = _
  rw [decodeSlot, Raw.ofWord_word]
  show decVdiv _ = _
  simp (disch := decide) only [decVdiv, rawOf, VMask.bits, extract_append_hi, extract_append_lo, extract_all, Nat.sub_self, Nat.reduceAdd, Nat.reduceSub, getLsbD_append_lo, getLsbD_append_hi]
  simp_all [roleOf_code, viewOf_code, gregOf_code, need, stepOk, Raw.guard, toNat_pad2, toNat_pad11, toNat_pad1, scopeOk, casReg, BitVec.getLsbD_append, bind, Except.bind, pure, Except.pure]
theorem vabs (g : Guard) (d : Opnd) (b : Opnd) (m : VMask) : Statement (.vabs g d b m) := by
  intro hw
  simp only [Instr.wf, Bool.and_eq_true, stepWf, EFlags.wf, scopeOk, decide_eq_true_eq] at hw
  show decodeSlot .v (rawOf 0x08#8 g 0#3 d.code b.code 0#8 (0#8 ++ 0#5 ++ m.bits)).word = _
  rw [decodeSlot, Raw.ofWord_word]
  show decVabs _ = _
  simp (disch := decide) only [decVabs, rawOf, VMask.bits, extract_append_hi, extract_append_lo, extract_all, Nat.sub_self, Nat.reduceAdd, Nat.reduceSub, getLsbD_append_lo, getLsbD_append_hi]
  simp_all [roleOf_code, viewOf_code, gregOf_code, need, stepOk, Raw.guard, toNat_pad2, toNat_pad11, toNat_pad1, scopeOk, casReg, BitVec.getLsbD_append, bind, Except.bind, pure, Except.pure]
theorem vneg (g : Guard) (d : Opnd) (b : Opnd) (m : VMask) : Statement (.vneg g d b m) := by
  intro hw
  simp only [Instr.wf, Bool.and_eq_true, stepWf, EFlags.wf, scopeOk, decide_eq_true_eq] at hw
  show decodeSlot .v (rawOf 0x09#8 g 0#3 d.code b.code 0#8 (0#8 ++ 0#5 ++ m.bits)).word = _
  rw [decodeSlot, Raw.ofWord_word]
  show decVneg _ = _
  simp (disch := decide) only [decVneg, rawOf, VMask.bits, extract_append_hi, extract_append_lo, extract_all, Nat.sub_self, Nat.reduceAdd, Nat.reduceSub, getLsbD_append_lo, getLsbD_append_hi]
  simp_all [roleOf_code, viewOf_code, gregOf_code, need, stepOk, Raw.guard, toNat_pad2, toNat_pad11, toNat_pad1, scopeOk, casReg, BitVec.getLsbD_append, bind, Except.bind, pure, Except.pure]
theorem vrcp (g : Guard) (rm : BitVec 2) (d : Opnd) (b : Opnd) (m : VMask) : Statement (.vrcp g rm d b m) := by
  intro hw
  simp only [Instr.wf, Bool.and_eq_true, stepWf, EFlags.wf, scopeOk, decide_eq_true_eq] at hw
  show decodeSlot .v (rawOf 0x0a#8 g (0#1 ++ rm) d.code b.code 0#8 (0#8 ++ 0#5 ++ m.bits)).word = _
  rw [decodeSlot, Raw.ofWord_word]
  show decVrcp _ = _
  simp (disch := decide) only [decVrcp, rawOf, VMask.bits, extract_append_hi, extract_append_lo, extract_all, Nat.sub_self, Nat.reduceAdd, Nat.reduceSub, getLsbD_append_lo, getLsbD_append_hi]
  simp_all [roleOf_code, viewOf_code, gregOf_code, need, stepOk, Raw.guard, toNat_pad2, toNat_pad11, toNat_pad1, scopeOk, casReg, BitVec.getLsbD_append, bind, Except.bind, pure, Except.pure]
theorem vsqrt (g : Guard) (rm : BitVec 2) (d : Opnd) (b : Opnd) (m : VMask) : Statement (.vsqrt g rm d b m) := by
  intro hw
  simp only [Instr.wf, Bool.and_eq_true, stepWf, EFlags.wf, scopeOk, decide_eq_true_eq] at hw
  show decodeSlot .v (rawOf 0x0b#8 g (0#1 ++ rm) d.code b.code 0#8 (0#8 ++ 0#5 ++ m.bits)).word = _
  rw [decodeSlot, Raw.ofWord_word]
  show decVsqrt _ = _
  simp (disch := decide) only [decVsqrt, rawOf, VMask.bits, extract_append_hi, extract_append_lo, extract_all, Nat.sub_self, Nat.reduceAdd, Nat.reduceSub, getLsbD_append_lo, getLsbD_append_hi]
  simp_all [roleOf_code, viewOf_code, gregOf_code, need, stepOk, Raw.guard, toNat_pad2, toNat_pad11, toNat_pad1, scopeOk, casReg, BitVec.getLsbD_append, bind, Except.bind, pure, Except.pure]
theorem vrsqrt (g : Guard) (rm : BitVec 2) (d : Opnd) (b : Opnd) (m : VMask) : Statement (.vrsqrt g rm d b m) := by
  intro hw
  simp only [Instr.wf, Bool.and_eq_true, stepWf, EFlags.wf, scopeOk, decide_eq_true_eq] at hw
  show decodeSlot .v (rawOf 0x0c#8 g (0#1 ++ rm) d.code b.code 0#8 (0#8 ++ 0#5 ++ m.bits)).word = _
  rw [decodeSlot, Raw.ofWord_word]
  show decVrsqrt _ = _
  simp (disch := decide) only [decVrsqrt, rawOf, VMask.bits, extract_append_hi, extract_append_lo, extract_all, Nat.sub_self, Nat.reduceAdd, Nat.reduceSub, getLsbD_append_lo, getLsbD_append_hi]
  simp_all [roleOf_code, viewOf_code, gregOf_code, need, stepOk, Raw.guard, toNat_pad2, toNat_pad11, toNat_pad1, scopeOk, casReg, BitVec.getLsbD_append, bind, Except.bind, pure, Except.pure]
theorem vexp2 (g : Guard) (rm : BitVec 2) (d : Opnd) (b : Opnd) (m : VMask) : Statement (.vexp2 g rm d b m) := by
  intro hw
  simp only [Instr.wf, Bool.and_eq_true, stepWf, EFlags.wf, scopeOk, decide_eq_true_eq] at hw
  show decodeSlot .v (rawOf 0x0d#8 g (0#1 ++ rm) d.code b.code 0#8 (0#8 ++ 0#5 ++ m.bits)).word = _
  rw [decodeSlot, Raw.ofWord_word]
  show decVexp2 _ = _
  simp (disch := decide) only [decVexp2, rawOf, VMask.bits, extract_append_hi, extract_append_lo, extract_all, Nat.sub_self, Nat.reduceAdd, Nat.reduceSub, getLsbD_append_lo, getLsbD_append_hi]
  simp_all [roleOf_code, viewOf_code, gregOf_code, need, stepOk, Raw.guard, toNat_pad2, toNat_pad11, toNat_pad1, scopeOk, casReg, BitVec.getLsbD_append, bind, Except.bind, pure, Except.pure]
theorem vlog2 (g : Guard) (rm : BitVec 2) (d : Opnd) (b : Opnd) (m : VMask) : Statement (.vlog2 g rm d b m) := by
  intro hw
  simp only [Instr.wf, Bool.and_eq_true, stepWf, EFlags.wf, scopeOk, decide_eq_true_eq] at hw
  show decodeSlot .v (rawOf 0x0e#8 g (0#1 ++ rm) d.code b.code 0#8 (0#8 ++ 0#5 ++ m.bits)).word = _
  rw [decodeSlot, Raw.ofWord_word]
  show decVlog2 _ = _
  simp (disch := decide) only [decVlog2, rawOf, VMask.bits, extract_append_hi, extract_append_lo, extract_all, Nat.sub_self, Nat.reduceAdd, Nat.reduceSub, getLsbD_append_lo, getLsbD_append_hi]
  simp_all [roleOf_code, viewOf_code, gregOf_code, need, stepOk, Raw.guard, toNat_pad2, toNat_pad11, toNat_pad1, scopeOk, casReg, BitVec.getLsbD_append, bind, Except.bind, pure, Except.pure]
theorem vcvt (g : Guard) (rm : BitVec 2) (d : Opnd) (b : Opnd) (csel : BitVec 3) (m : VMask) : Statement (.vcvt g rm d b csel m) := by
  intro hw
  simp only [Instr.wf, Bool.and_eq_true, stepWf, EFlags.wf, scopeOk, decide_eq_true_eq] at hw
  show decodeSlot .v (rawOf 0x10#8 g (0#1 ++ rm) d.code b.code 0#8 (0#8 ++ 0#2 ++ csel ++ m.bits)).word = _
  rw [decodeSlot, Raw.ofWord_word]
  show decVcvt _ = _
  simp (disch := decide) only [decVcvt, rawOf, VMask.bits, extract_append_hi, extract_append_lo, extract_all, Nat.sub_self, Nat.reduceAdd, Nat.reduceSub, getLsbD_append_lo, getLsbD_append_hi]
  simp_all [roleOf_code, viewOf_code, gregOf_code, need, stepOk, Raw.guard, toNat_pad2, toNat_pad11, toNat_pad1, scopeOk, casReg, BitVec.getLsbD_append, bind, Except.bind, pure, Except.pure]
theorem vpack (g : Guard) (rm : BitVec 2) (d : Opnd) (b : Opnd) (csel : BitVec 3) (m : VMask) : Statement (.vpack g rm d b csel m) := by
  intro hw
  simp only [Instr.wf, Bool.and_eq_true, stepWf, EFlags.wf, scopeOk, decide_eq_true_eq] at hw
  show decodeSlot .v (rawOf 0x11#8 g (0#1 ++ rm) d.code b.code 0#8 (0#8 ++ 0#2 ++ csel ++ m.bits)).word = _
  rw [decodeSlot, Raw.ofWord_word]
  show decVpack _ = _
  simp (disch := decide) only [decVpack, rawOf, VMask.bits, extract_append_hi, extract_append_lo, extract_all, Nat.sub_self, Nat.reduceAdd, Nat.reduceSub, getLsbD_append_lo, getLsbD_append_hi]
  simp_all [roleOf_code, viewOf_code, gregOf_code, need, stepOk, Raw.guard, toNat_pad2, toNat_pad11, toNat_pad1, scopeOk, casReg, BitVec.getLsbD_append, bind, Except.bind, pure, Except.pure]
theorem vsum (g : Guard) (rm : BitVec 2) (d : Opnd) (b : Opnd) (m : VMask) : Statement (.vsum g rm d b m) := by
  intro hw
  simp only [Instr.wf, Bool.and_eq_true, stepWf, EFlags.wf, scopeOk, decide_eq_true_eq] at hw
  show decodeSlot .v (rawOf 0x18#8 g (0#1 ++ rm) d.code b.code 0#8 (0#8 ++ 0#5 ++ m.bits)).word = _
  rw [decodeSlot, Raw.ofWord_word]
  show decVsum _ = _
  simp (disch := decide) only [decVsum, rawOf, VMask.bits, extract_append_hi, extract_append_lo, extract_all, Nat.sub_self, Nat.reduceAdd, Nat.reduceSub, getLsbD_append_lo, getLsbD_append_hi]
  simp_all [roleOf_code, viewOf_code, gregOf_code, need, stepOk, Raw.guard, toNat_pad2, toNat_pad11, toNat_pad1, scopeOk, casReg, BitVec.getLsbD_append, bind, Except.bind, pure, Except.pure]
theorem vmaxr (g : Guard) (d : Opnd) (b : Opnd) (m : VMask) : Statement (.vmaxr g d b m) := by
  intro hw
  simp only [Instr.wf, Bool.and_eq_true, stepWf, EFlags.wf, scopeOk, decide_eq_true_eq] at hw
  show decodeSlot .v (rawOf 0x19#8 g 0#3 d.code b.code 0#8 (0#8 ++ 0#5 ++ m.bits)).word = _
  rw [decodeSlot, Raw.ofWord_word]
  show decVmaxr _ = _
  simp (disch := decide) only [decVmaxr, rawOf, VMask.bits, extract_append_hi, extract_append_lo, extract_all, Nat.sub_self, Nat.reduceAdd, Nat.reduceSub, getLsbD_append_lo, getLsbD_append_hi]
  simp_all [roleOf_code, viewOf_code, gregOf_code, need, stepOk, Raw.guard, toNat_pad2, toNat_pad11, toNat_pad1, scopeOk, casReg, BitVec.getLsbD_append, bind, Except.bind, pure, Except.pure]
theorem vcmp (g : Guard) (cc : BitVec 3) (d : Opnd) (b : Opnd) (c : Opnd) (m : VMask) : Statement (.vcmp g cc d b c m) := by
  intro hw
  simp only [Instr.wf, Bool.and_eq_true, stepWf, EFlags.wf, scopeOk, decide_eq_true_eq] at hw
  show decodeSlot .v (rawOf 0x20#8 g cc d.code b.code c.code (0#8 ++ 0#5 ++ m.bits)).word = _
  rw [decodeSlot, Raw.ofWord_word]
  show decVcmp _ = _
  simp (disch := decide) only [decVcmp, rawOf, VMask.bits, extract_append_hi, extract_append_lo, extract_all, Nat.sub_self, Nat.reduceAdd, Nat.reduceSub, getLsbD_append_lo, getLsbD_append_hi]
  simp_all [roleOf_code, viewOf_code, gregOf_code, need, stepOk, Raw.guard, toNat_pad2, toNat_pad11, toNat_pad1, scopeOk, casReg, BitVec.getLsbD_append, bind, Except.bind, pure, Except.pure]
theorem vsel (g : Guard) (d : Opnd) (q : BitVec 5) (c : Opnd) (e : Opnd) (m : VMask) : Statement (.vsel g d q c e m) := by
  intro hw
  simp only [Instr.wf, Bool.and_eq_true, stepWf, EFlags.wf, scopeOk, decide_eq_true_eq] at hw
  show decodeSlot .v (rawOf 0x21#8 g 0#3 d.code (1#3 ++ q) c.code (e.code ++ 0#5 ++ m.bits)).word = _
  rw [decodeSlot, Raw.ofWord_word]
  show decVsel _ = _
  simp (disch := decide) only [decVsel, rawOf, VMask.bits, extract_append_hi, extract_append_lo, extract_all, Nat.sub_self, Nat.reduceAdd, Nat.reduceSub, getLsbD_append_lo, getLsbD_append_hi]
  simp_all [roleOf_code, viewOf_code, gregOf_code, need, stepOk, Raw.guard, toNat_pad2, toNat_pad11, toNat_pad1, scopeOk, casReg, BitVec.getLsbD_append, bind, Except.bind, pure, Except.pure]
theorem vanyAny (g : Guard) (b : Opnd) (m : VMask) : Statement (.vanyAny g b m) := by
  intro hw
  simp only [Instr.wf, Bool.and_eq_true, stepWf, EFlags.wf, scopeOk, decide_eq_true_eq] at hw
  show decodeSlot .v (rawOf 0x22#8 g 0#3 0x59#8 b.code 0#8 (0#8 ++ 0#3 ++ 0#2 ++ m.bits)).word = _
  rw [decodeSlot, Raw.ofWord_word]
  show (if BitVec.extractLsb' 11 2 _ = 0 then decVanyAny _ else _) = _
  rw [if_pos (by simp (disch := decide) only [rawOf, VMask.bits, extract_append_hi, extract_append_lo, extract_all, Nat.sub_self, Nat.reduceAdd, Nat.reduceSub]; decide)]
  simp (disch := decide) only [decVanyAny, rawOf, VMask.bits, extract_append_hi, extract_append_lo, extract_all, Nat.sub_self, Nat.reduceAdd, Nat.reduceSub, getLsbD_append_lo, getLsbD_append_hi]
  simp_all [roleOf_code, viewOf_code, gregOf_code, need, stepOk, Raw.guard, toNat_pad2, toNat_pad11, toNat_pad1, scopeOk, casReg, BitVec.getLsbD_append, bind, Except.bind, pure, Except.pure]
theorem vanyAll (g : Guard) (b : Opnd) (m : VMask) : Statement (.vanyAll g b m) := by
  intro hw
  simp only [Instr.wf, Bool.and_eq_true, stepWf, EFlags.wf, scopeOk, decide_eq_true_eq] at hw
  show decodeSlot .v (rawOf 0x22#8 g 0#3 0x59#8 b.code 0#8 (0#8 ++ 0#3 ++ 1#2 ++ m.bits)).word = _
  rw [decodeSlot, Raw.ofWord_word]
  show (if BitVec.extractLsb' 11 2 _ = 0 then decVanyAny _ else if BitVec.extractLsb' 11 2 _ = 1 then decVanyAll _ else _) = _
  rw [if_neg (by simp (disch := decide) only [rawOf, VMask.bits, extract_append_hi, extract_append_lo, extract_all, Nat.sub_self, Nat.reduceAdd, Nat.reduceSub]; decide)]
  rw [if_pos (by simp (disch := decide) only [rawOf, VMask.bits, extract_append_hi, extract_append_lo, extract_all, Nat.sub_self, Nat.reduceAdd, Nat.reduceSub]; decide)]
  simp (disch := decide) only [decVanyAll, rawOf, VMask.bits, extract_append_hi, extract_append_lo, extract_all, Nat.sub_self, Nat.reduceAdd, Nat.reduceSub, getLsbD_append_lo, getLsbD_append_hi]
  simp_all [roleOf_code, viewOf_code, gregOf_code, need, stepOk, Raw.guard, toNat_pad2, toNat_pad11, toNat_pad1, scopeOk, casReg, BitVec.getLsbD_append, bind, Except.bind, pure, Except.pure]
theorem vanyUni (g : Guard) (b : Opnd) (m : VMask) : Statement (.vanyUni g b m) := by
  intro hw
  simp only [Instr.wf, Bool.and_eq_true, stepWf, EFlags.wf, scopeOk, decide_eq_true_eq] at hw
  show decodeSlot .v (rawOf 0x22#8 g 0#3 0x59#8 b.code 0#8
    (0#8 ++ 0#3 ++ 1#1 ++ m.st.extractLsb' 3 1 ++ (m.mneg ++ m.mv ++ m.men ++ (0#1 ++ m.st.extractLsb' 0 3)))).word = _
  rw [decodeSlot, Raw.ofWord_word]
  show (if BitVec.extractLsb' 11 2 _ = 0 then decVanyAny _ else if BitVec.extractLsb' 11 2 _ = 1 then decVanyAll _ else decVanyUni _) = _
  obtain ⟨mneg, mv, men, st⟩ := m
  rcases (by decide : ∀ st : BitVec 4, st.extractLsb' 3 1 = 0#1 ∨ st.extractLsb' 3 1 = 1#1) st with hk | hk
  all_goals
    have hst := (by decide : ∀ st : BitVec 4, st.extractLsb' 3 1 ++ st.extractLsb' 0 3 = st) st
    have h0 := (by decide : ∀ st : BitVec 4, (0#1 ++ st.extractLsb' 0 3 : BitVec 4)[0] = st[0]) st
    have h1 := (by decide : ∀ st : BitVec 4, (0#1 ++ st.extractLsb' 0 3 : BitVec 4)[1] = st[1]) st
    rw [hk] at hst ⊢
    rw [if_neg (by simp (disch := decide) only [rawOf, extract_append_hi, extract_append_lo, extract_all, Nat.sub_self, Nat.reduceAdd, Nat.reduceSub]; decide)]
    rw [if_neg (by simp (disch := decide) only [rawOf, extract_append_hi, extract_append_lo, extract_all, Nat.sub_self, Nat.reduceAdd, Nat.reduceSub]; decide)]
    simp (disch := decide) only [decVanyUni, rawOf, extract_append_hi, extract_append_lo, extract_all, Nat.sub_self, Nat.reduceAdd, Nat.reduceSub, getLsbD_append_lo, getLsbD_append_hi]
    simp_all [roleOf_code, viewOf_code, gregOf_code, need, stepOk, Raw.guard, toNat_pad2, toNat_pad11, toNat_pad1, scopeOk, casReg, BitVec.getLsbD_append, bind, Except.bind, pure, Except.pure]
theorem vand (g : Guard) (d : Opnd) (b : Opnd) (c : Opnd) (m : VMask) : Statement (.vand g d b c m) := by
  intro hw
  simp only [Instr.wf, Bool.and_eq_true, stepWf, EFlags.wf, scopeOk, decide_eq_true_eq] at hw
  show decodeSlot .v (rawOf 0x28#8 g 0#3 d.code b.code c.code (0#8 ++ 0#5 ++ m.bits)).word = _
  rw [decodeSlot, Raw.ofWord_word]
  show decVand _ = _
  simp (disch := decide) only [decVand, rawOf, VMask.bits, extract_append_hi, extract_append_lo, extract_all, Nat.sub_self, Nat.reduceAdd, Nat.reduceSub, getLsbD_append_lo, getLsbD_append_hi]
  simp_all [roleOf_code, viewOf_code, gregOf_code, need, stepOk, Raw.guard, toNat_pad2, toNat_pad11, toNat_pad1, scopeOk, casReg, BitVec.getLsbD_append, bind, Except.bind, pure, Except.pure]
theorem vor (g : Guard) (d : Opnd) (b : Opnd) (c : Opnd) (m : VMask) : Statement (.vor g d b c m) := by
  intro hw
  simp only [Instr.wf, Bool.and_eq_true, stepWf, EFlags.wf, scopeOk, decide_eq_true_eq] at hw
  show decodeSlot .v (rawOf 0x29#8 g 0#3 d.code b.code c.code (0#8 ++ 0#5 ++ m.bits)).word = _
  rw [decodeSlot, Raw.ofWord_word]
  show decVor _ = _
  simp (disch := decide) only [decVor, rawOf, VMask.bits, extract_append_hi, extract_append_lo, extract_all, Nat.sub_self, Nat.reduceAdd, Nat.reduceSub, getLsbD_append_lo, getLsbD_append_hi]
  simp_all [roleOf_code, viewOf_code, gregOf_code, need, stepOk, Raw.guard, toNat_pad2, toNat_pad11, toNat_pad1, scopeOk, casReg, BitVec.getLsbD_append, bind, Except.bind, pure, Except.pure]
theorem vxor (g : Guard) (d : Opnd) (b : Opnd) (c : Opnd) (m : VMask) : Statement (.vxor g d b c m) := by
  intro hw
  simp only [Instr.wf, Bool.and_eq_true, stepWf, EFlags.wf, scopeOk, decide_eq_true_eq] at hw
  show decodeSlot .v (rawOf 0x2a#8 g 0#3 d.code b.code c.code (0#8 ++ 0#5 ++ m.bits)).word = _
  rw [decodeSlot, Raw.ofWord_word]
  show decVxor _ = _
  simp (disch := decide) only [decVxor, rawOf, VMask.bits, extract_append_hi, extract_append_lo, extract_all, Nat.sub_self, Nat.reduceAdd, Nat.reduceSub, getLsbD_append_lo, getLsbD_append_hi]
  simp_all [roleOf_code, viewOf_code, gregOf_code, need, stepOk, Raw.guard, toNat_pad2, toNat_pad11, toNat_pad1, scopeOk, casReg, BitVec.getLsbD_append, bind, Except.bind, pure, Except.pure]
theorem vnot (g : Guard) (d : Opnd) (b : Opnd) (m : VMask) : Statement (.vnot g d b m) := by
  intro hw
  simp only [Instr.wf, Bool.and_eq_true, stepWf, EFlags.wf, scopeOk, decide_eq_true_eq] at hw
  show decodeSlot .v (rawOf 0x2b#8 g 0#3 d.code b.code 0#8 (0#8 ++ 0#5 ++ m.bits)).word = _
  rw [decodeSlot, Raw.ofWord_word]
  show decVnot _ = _
  simp (disch := decide) only [decVnot, rawOf, VMask.bits, extract_append_hi, extract_append_lo, extract_all, Nat.sub_self, Nat.reduceAdd, Nat.reduceSub, getLsbD_append_lo, getLsbD_append_hi]
  simp_all [roleOf_code, viewOf_code, gregOf_code, need, stepOk, Raw.guard, toNat_pad2, toNat_pad11, toNat_pad1, scopeOk, casReg, BitVec.getLsbD_append, bind, Except.bind, pure, Except.pure]
theorem vshl (g : Guard) (d : Opnd) (b : Opnd) (c : Opnd) (m : VMask) : Statement (.vshl g d b c m) := by
  intro hw
  simp only [Instr.wf, Bool.and_eq_true, stepWf, EFlags.wf, scopeOk, decide_eq_true_eq] at hw
  show decodeSlot .v (rawOf 0x2c#8 g 0#3 d.code b.code c.code (0#8 ++ 0#5 ++ m.bits)).word = _
  rw [decodeSlot, Raw.ofWord_word]
  show decVshl _ = _
  simp (disch := decide) only [decVshl, rawOf, VMask.bits, extract_append_hi, extract_append_lo, extract_all, Nat.sub_self, Nat.reduceAdd, Nat.reduceSub, getLsbD_append_lo, getLsbD_append_hi]
  simp_all [roleOf_code, viewOf_code, gregOf_code, need, stepOk, Raw.guard, toNat_pad2, toNat_pad11, toNat_pad1, scopeOk, casReg, BitVec.getLsbD_append, bind, Except.bind, pure, Except.pure]
theorem vshr (g : Guard) (d : Opnd) (b : Opnd) (c : Opnd) (m : VMask) : Statement (.vshr g d b c m) := by
  intro hw
  simp only [Instr.wf, Bool.and_eq_true, stepWf, EFlags.wf, scopeOk, decide_eq_true_eq] at hw
  show decodeSlot .v (rawOf 0x2d#8 g 0#3 d.code b.code c.code (0#8 ++ 0#5 ++ m.bits)).word = _
  rw [decodeSlot, Raw.ofWord_word]
  show decVshr _ = _
  simp (disch := decide) only [decVshr, rawOf, VMask.bits, extract_append_hi, extract_append_lo, extract_all, Nat.sub_self, Nat.reduceAdd, Nat.reduceSub, getLsbD_append_lo, getLsbD_append_hi]
  simp_all [roleOf_code, viewOf_code, gregOf_code, need, stepOk, Raw.guard, toNat_pad2, toNat_pad11, toNat_pad1, scopeOk, casReg, BitVec.getLsbD_append, bind, Except.bind, pure, Except.pure]
theorem vsra (g : Guard) (d : Opnd) (b : Opnd) (c : Opnd) (m : VMask) : Statement (.vsra g d b c m) := by
  intro hw
  simp only [Instr.wf, Bool.and_eq_true, stepWf, EFlags.wf, scopeOk, decide_eq_true_eq] at hw
  show decodeSlot .v (rawOf 0x2e#8 g 0#3 d.code b.code c.code (0#8 ++ 0#5 ++ m.bits)).word = _
  rw [decodeSlot, Raw.ofWord_word]
  show decVsra _ = _
  simp (disch := decide) only [decVsra, rawOf, VMask.bits, extract_append_hi, extract_append_lo, extract_all, Nat.sub_self, Nat.reduceAdd, Nat.reduceSub, getLsbD_append_lo, getLsbD_append_hi]
  simp_all [roleOf_code, viewOf_code, gregOf_code, need, stepOk, Raw.guard, toNat_pad2, toNat_pad11, toNat_pad1, scopeOk, casReg, BitVec.getLsbD_append, bind, Except.bind, pure, Except.pure]
theorem vmov (g : Guard) (d : Opnd) (b : Opnd) (m : VMask) : Statement (.vmov g d b m) := by
  intro hw
  simp only [Instr.wf, Bool.and_eq_true, stepWf, EFlags.wf, scopeOk, decide_eq_true_eq] at hw
  show decodeSlot .v (rawOf 0x30#8 g 0#3 d.code b.code 0#8 (0#8 ++ 0#5 ++ m.bits)).word = _
  rw [decodeSlot, Raw.ofWord_word]
  show decVmov _ = _
  simp (disch := decide) only [decVmov, rawOf, VMask.bits, extract_append_hi, extract_append_lo, extract_all, Nat.sub_self, Nat.reduceAdd, Nat.reduceSub, getLsbD_append_lo, getLsbD_append_hi]
  simp_all [roleOf_code, viewOf_code, gregOf_code, need, stepOk, Raw.guard, toNat_pad2, toNat_pad11, toNat_pad1, scopeOk, casReg, BitVec.getLsbD_append, bind, Except.bind, pure, Except.pure]
theorem vbcast (g : Guard) (d : Opnd) (b : Opnd) (k : Opnd) (m : VMask) : Statement (.vbcast g d b k m) := by
  intro hw
  simp only [Instr.wf, Bool.and_eq_true, stepWf, EFlags.wf, scopeOk, decide_eq_true_eq] at hw
  show decodeSlot .v (rawOf 0x31#8 g 0#3 d.code b.code k.code (0#8 ++ 0#5 ++ m.bits)).word = _
  rw [decodeSlot, Raw.ofWord_word]
  show decVbcast _ = _
  simp (disch := decide) only [decVbcast, rawOf, VMask.bits, extract_append_hi, extract_append_lo, extract_all, Nat.sub_self, Nat.reduceAdd, Nat.reduceSub, getLsbD_append_lo, getLsbD_append_hi]
  simp_all [roleOf_code, viewOf_code, gregOf_code, need, stepOk, Raw.guard, toNat_pad2, toNat_pad11, toNat_pad1, scopeOk, casReg, BitVec.getLsbD_append, bind, Except.bind, pure, Except.pure]
theorem viota (g : Guard) (d : Opnd) (b : Opnd) (c : Opnd) (m : VMask) : Statement (.viota g d b c m) := by
  intro hw
  simp only [Instr.wf, Bool.and_eq_true, stepWf, EFlags.wf, scopeOk, decide_eq_true_eq] at hw
  show decodeSlot .v (rawOf 0x32#8 g 0#3 d.code b.code c.code (0#8 ++ 0#5 ++ m.bits)).word = _
  rw [decodeSlot, Raw.ofWord_word]
  show decViota _ = _
  simp (disch := decide) only [decViota, rawOf, VMask.bits, extract_append_hi, extract_append_lo, extract_all, Nat.sub_self, Nat.reduceAdd, Nat.reduceSub, getLsbD_append_lo, getLsbD_append_hi]
  simp_all [roleOf_code, viewOf_code, gregOf_code, need, stepOk, Raw.guard, toNat_pad2, toNat_pad11, toNat_pad1, scopeOk, casReg, BitVec.getLsbD_append, bind, Except.bind, pure, Except.pure]
theorem vclass (g : Guard) (d : Opnd) (b : Opnd) (m : VMask) : Statement (.vclass g d b m) := by
  intro hw
  simp only [Instr.wf, Bool.and_eq_true, stepWf, EFlags.wf, scopeOk, decide_eq_true_eq] at hw
  show decodeSlot .v (rawOf 0x33#8 g 0#3 d.code b.code 0#8 (0#8 ++ 0#5 ++ m.bits)).word = _
  rw [decodeSlot, Raw.ofWord_word]
  show decVclass _ = _
  simp (disch := decide) only [decVclass, rawOf, VMask.bits, extract_append_hi, extract_append_lo, extract_all, Nat.sub_self, Nat.reduceAdd, Nat.reduceSub, getLsbD_append_lo, getLsbD_append_hi]
  simp_all [roleOf_code, viewOf_code, gregOf_code, need, stepOk, Raw.guard, toNat_pad2, toNat_pad11, toNat_pad1, scopeOk, casReg, BitVec.getLsbD_append, bind, Except.bind, pure, Except.pure]
theorem xperm (g : Guard) (k : BitVec 3) (d : Opnd) (b : Opnd) (sf : BitVec 4) : Statement (.xperm g k d b sf) := by
  intro hw
  simp only [Instr.wf, Bool.and_eq_true, stepWf, EFlags.wf, scopeOk, decide_eq_true_eq] at hw
  show decodeSlot .x (rawOf 0x00#8 g k d.code b.code 0#8 (0#20 ++ sf)).word = _
  rw [decodeSlot, Raw.ofWord_word]
  show decXperm _ = _
  simp (disch := decide) only [decXperm, rawOf, extract_append_hi, extract_append_lo, extract_all, Nat.sub_self, Nat.reduceAdd, Nat.reduceSub, getLsbD_append_lo, getLsbD_append_hi]
  simp_all [roleOf_code, viewOf_code, gregOf_code, need, stepOk, Raw.guard, toNat_pad2, toNat_pad11, toNat_pad1, scopeOk, casReg, BitVec.getLsbD_append, bind, Except.bind, pure, Except.pure]
theorem xrot (g : Guard) (d : Opnd) (k : Opnd) (b : Opnd) (sf : BitVec 4) : Statement (.xrot g d k b sf) := by
  intro hw
  simp only [Instr.wf, Bool.and_eq_true, stepWf, EFlags.wf, scopeOk, decide_eq_true_eq] at hw
  show decodeSlot .x (rawOf 0x01#8 g 0#3 d.code k.code b.code (0#19 ++ 0#1 ++ sf)).word = _
  rw [decodeSlot, Raw.ofWord_word]
  show (if BitVec.extractLsb' 4 1 _ = 0 then decXrot _ else decXrotC _) = _
  rw [if_pos (by simp (disch := decide) only [rawOf, extract_append_hi, extract_append_lo, extract_all, Nat.sub_self, Nat.reduceAdd, Nat.reduceSub]; decide)]
  simp (disch := decide) only [decXrot, rawOf, extract_append_hi, extract_append_lo, extract_all, Nat.sub_self, Nat.reduceAdd, Nat.reduceSub, getLsbD_append_lo, getLsbD_append_hi]
  simp_all [roleOf_code, viewOf_code, gregOf_code, need, stepOk, Raw.guard, toNat_pad2, toNat_pad11, toNat_pad1, scopeOk, casReg, BitVec.getLsbD_append, bind, Except.bind, pure, Except.pure]
theorem xrotC (g : Guard) (d : Opnd) (k : Opnd) (b : Opnd) (sf : BitVec 4) : Statement (.xrotC g d k b sf) := by
  intro hw
  simp only [Instr.wf, Bool.and_eq_true, stepWf, EFlags.wf, scopeOk, decide_eq_true_eq] at hw
  show decodeSlot .x (rawOf 0x01#8 g 0#3 d.code k.code b.code (0#19 ++ 1#1 ++ sf)).word = _
  rw [decodeSlot, Raw.ofWord_word]
  show (if BitVec.extractLsb' 4 1 _ = 0 then decXrot _ else decXrotC _) = _
  rw [if_neg (by simp (disch := decide) only [rawOf, extract_append_hi, extract_append_lo, extract_all, Nat.sub_self, Nat.reduceAdd, Nat.reduceSub]; decide)]
  simp (disch := decide) only [decXrotC, rawOf, extract_append_hi, extract_append_lo, extract_all, Nat.sub_self, Nat.reduceAdd, Nat.reduceSub, getLsbD_append_lo, getLsbD_append_hi]
  simp_all [roleOf_code, viewOf_code, gregOf_code, need, stepOk, Raw.guard, toNat_pad2, toNat_pad11, toNat_pad1, scopeOk, casReg, BitVec.getLsbD_append, bind, Except.bind, pure, Except.pure]
theorem xtrn (g : Guard) (d : Opnd) (b : Opnd) (sf : BitVec 4) : Statement (.xtrn g d b sf) := by
  intro hw
  simp only [Instr.wf, Bool.and_eq_true, stepWf, EFlags.wf, scopeOk, decide_eq_true_eq] at hw
  show decodeSlot .x (rawOf 0x02#8 g 0#3 d.code b.code 0#8 (0#20 ++ sf)).word = _
  rw [decodeSlot, Raw.ofWord_word]
  show decXtrn _ = _
  simp (disch := decide) only [decXtrn, rawOf, extract_append_hi, extract_append_lo, extract_all, Nat.sub_self, Nat.reduceAdd, Nat.reduceSub, getLsbD_append_lo, getLsbD_append_hi]
  simp_all [roleOf_code, viewOf_code, gregOf_code, need, stepOk, Raw.guard, toNat_pad2, toNat_pad11, toNat_pad1, scopeOk, casReg, BitVec.getLsbD_append, bind, Except.bind, pure, Except.pure]
theorem xbcast (g : Guard) (d : Opnd) (b : Opnd) (k : Opnd) (sf : BitVec 4) : Statement (.xbcast g d b k sf) := by
  intro hw
  simp only [Instr.wf, Bool.and_eq_true, stepWf, EFlags.wf, scopeOk, decide_eq_true_eq] at hw
  show decodeSlot .x (rawOf 0x03#8 g 0#3 d.code b.code k.code (0#20 ++ sf)).word = _
  rw [decodeSlot, Raw.ofWord_word]
  show decXbcast _ = _
  simp (disch := decide) only [decXbcast, rawOf, extract_append_hi, extract_append_lo, extract_all, Nat.sub_self, Nat.reduceAdd, Nat.reduceSub, getLsbD_append_lo, getLsbD_append_hi]
  simp_all [roleOf_code, viewOf_code, gregOf_code, need, stepOk, Raw.guard, toNat_pad2, toNat_pad11, toNat_pad1, scopeOk, casReg, BitVec.getLsbD_append, bind, Except.bind, pure, Except.pure]
theorem xzip (g : Guard) (d : Opnd) (b : Opnd) (c : Opnd) (sf : BitVec 4) : Statement (.xzip g d b c sf) := by
  intro hw
  simp only [Instr.wf, Bool.and_eq_true, stepWf, EFlags.wf, scopeOk, decide_eq_true_eq] at hw
  show decodeSlot .x (rawOf 0x04#8 g 0#3 d.code b.code c.code (0#20 ++ sf)).word = _
  rw [decodeSlot, Raw.ofWord_word]
  show decXzip _ = _
  simp (disch := decide) only [decXzip, rawOf, extract_append_hi, extract_append_lo, extract_all, Nat.sub_self, Nat.reduceAdd, Nat.reduceSub, getLsbD_append_lo, getLsbD_append_hi]
  simp_all [roleOf_code, viewOf_code, gregOf_code, need, stepOk, Raw.guard, toNat_pad2, toNat_pad11, toNat_pad1, scopeOk, casReg, BitVec.getLsbD_append, bind, Except.bind, pure, Except.pure]
theorem xunzip (g : Guard) (d : Opnd) (b : Opnd) (k : Opnd) (sf : BitVec 4) : Statement (.xunzip g d b k sf) := by
  intro hw
  simp only [Instr.wf, Bool.and_eq_true, stepWf, EFlags.wf, scopeOk, decide_eq_true_eq] at hw
  show decodeSlot .x (rawOf 0x05#8 g 0#3 d.code b.code k.code (0#20 ++ sf)).word = _
  rw [decodeSlot, Raw.ofWord_word]
  show decXunzip _ = _
  simp (disch := decide) only [decXunzip, rawOf, extract_append_hi, extract_append_lo, extract_all, Nat.sub_self, Nat.reduceAdd, Nat.reduceSub, getLsbD_append_lo, getLsbD_append_hi]
  simp_all [roleOf_code, viewOf_code, gregOf_code, need, stepOk, Raw.guard, toNat_pad2, toNat_pad11, toNat_pad1, scopeOk, casReg, BitVec.getLsbD_append, bind, Except.bind, pure, Except.pure]
theorem xcmpr (g : Guard) (d : Opnd) (b : Opnd) (q : BitVec 5) (sf : BitVec 4) : Statement (.xcmpr g d b q sf) := by
  intro hw
  simp only [Instr.wf, Bool.and_eq_true, stepWf, EFlags.wf, scopeOk, decide_eq_true_eq] at hw
  show decodeSlot .x (rawOf 0x06#8 g 0#3 d.code b.code (1#3 ++ q) (0#20 ++ sf)).word = _
  rw [decodeSlot, Raw.ofWord_word]
  show decXcmpr _ = _
  simp (disch := decide) only [decXcmpr, rawOf, extract_append_hi, extract_append_lo, extract_all, Nat.sub_self, Nat.reduceAdd, Nat.reduceSub, getLsbD_append_lo, getLsbD_append_hi]
  simp_all [roleOf_code, viewOf_code, gregOf_code, need, stepOk, Raw.guard, toNat_pad2, toNat_pad11, toNat_pad1, scopeOk, casReg, BitVec.getLsbD_append, bind, Except.bind, pure, Except.pure]
theorem hnop (g : Guard) : Statement (.hnop g) := by
  intro hw
  simp only [Instr.wf, Bool.and_eq_true, stepWf, EFlags.wf, scopeOk, decide_eq_true_eq] at hw
  show decodeSlot .h (rawOf 0x00#8 g 0#3 0#8 0#8 0#8 (0#24)).word = _
  rw [decodeSlot, Raw.ofWord_word]
  show decHnop _ = _
  simp (disch := decide) only [decHnop, rawOf, extract_append_hi, extract_append_lo, extract_all, Nat.sub_self, Nat.reduceAdd, Nat.reduceSub, getLsbD_append_lo, getLsbD_append_hi]
  simp_all [roleOf_code, viewOf_code, gregOf_code, need, stepOk, Raw.guard, toNat_pad2, toNat_pad11, toNat_pad1, scopeOk, casReg, BitVec.getLsbD_append, bind, Except.bind, pure, Except.pure]
theorem hmma (g : Guard) (cls : BitVec 2) (a : Opnd) (b : BitVec 5) (c : BitVec 5) (acc : BitVec 1) (ts : BitVec 3) (sf : BitVec 4) : Statement (.hmma g cls a b c acc ts sf) := by
  intro hw
  simp only [Instr.wf, Bool.and_eq_true, stepWf, EFlags.wf, scopeOk, decide_eq_true_eq] at hw
  show decodeSlot .h (rawOf 0x01#8 g (0#1 ++ cls) a.code (1#3 ++ b) (1#3 ++ c) (0#16 ++ acc ++ ts ++ sf)).word = _
  rw [decodeSlot, Raw.ofWord_word]
  show decHmma _ = _
  simp (disch := decide) only [decHmma, rawOf, extract_append_hi, extract_append_lo, extract_all, Nat.sub_self, Nat.reduceAdd, Nat.reduceSub, getLsbD_append_lo, getLsbD_append_hi]
  simp_all [roleOf_code, viewOf_code, gregOf_code, need, stepOk, Raw.guard, toNat_pad2, toNat_pad11, toNat_pad1, scopeOk, casReg, BitVec.getLsbD_append, bind, Except.bind, pure, Except.pure]
theorem hmmn (g : Guard) (cls : BitVec 2) (a : Opnd) (b : BitVec 5) (c : BitVec 5) (acc : BitVec 1) (ts : BitVec 3) (sf : BitVec 4) : Statement (.hmmn g cls a b c acc ts sf) := by
  intro hw
  simp only [Instr.wf, Bool.and_eq_true, stepWf, EFlags.wf, scopeOk, decide_eq_true_eq] at hw
  show decodeSlot .h (rawOf 0x02#8 g (0#1 ++ cls) a.code (1#3 ++ b) (1#3 ++ c) (0#16 ++ acc ++ ts ++ sf)).word = _
  rw [decodeSlot, Raw.ofWord_word]
  show decHmmn _ = _
  simp (disch := decide) only [decHmmn, rawOf, extract_append_hi, extract_append_lo, extract_all, Nat.sub_self, Nat.reduceAdd, Nat.reduceSub, getLsbD_append_lo, getLsbD_append_hi]
  simp_all [roleOf_code, viewOf_code, gregOf_code, need, stepOk, Raw.guard, toNat_pad2, toNat_pad11, toNat_pad1, scopeOk, casReg, BitVec.getLsbD_append, bind, Except.bind, pure, Except.pure, toNat_pad2_eq]
theorem hgat (g : Guard) (v : BitVec 5) (rsc : BitVec 3) (rel : BitVec 1) (asc : BitVec 3) (acq : BitVec 1) (bx : BitVec 4) (sf : BitVec 4) : Statement (.hgat g v rsc rel asc acq bx sf) := by
  intro hw
  simp only [Instr.wf, Bool.and_eq_true, stepWf, EFlags.wf, scopeOk, decide_eq_true_eq] at hw
  show decodeSlot .h (rawOf 0x03#8 g 0#3 (1#3 ++ v) 0#8 0#8 (0#8 ++ rsc ++ rel ++ asc ++ acq ++ bx ++ sf)).word = _
  rw [decodeSlot, Raw.ofWord_word]
  show decHgat _ = _
  simp (disch := decide) only [decHgat, rawOf, extract_append_hi, extract_append_lo, extract_all, Nat.sub_self, Nat.reduceAdd, Nat.reduceSub, getLsbD_append_lo, getLsbD_append_hi]
  have h1 : rsc.toNat ≤ 4 ∨ rel = 0#1 := by simp_all [or_comm]
  have h2 : asc.toNat ≤ 4 ∨ acq = 0#1 := by simp_all [or_comm]
  simp_all [roleOf_code, viewOf_code, gregOf_code, need, stepOk, Raw.guard, toNat_pad2, toNat_pad11, toNat_pad1, scopeOk, casReg, BitVec.getLsbD_append, bind, Except.bind, pure, Except.pure]
theorem idle (k : BitVec 4) (r : BitVec 8) : Statement (.idle k r) := fun _ => trivial
theorem idleHold (k : BitVec 4) (r : BitVec 8) : Statement (.idleHold k r) := fun _ => trivial
theorem mark (exp : BitVec 32) : Statement (.mark exp) := fun _ => trivial
theorem latchCommit (h : Nat) : Statement (.latchCommit h) := fun _ => trivial
theorem loadArrive (h : Nat) (tok : Nat) : Statement (.loadArrive h tok) := fun _ => trivial
theorem stallCycle (h : Nat) : Statement (.stallCycle h) := fun _ => trivial
theorem contextWake (h : Nat) : Statement (.contextWake h) := fun _ => trivial
theorem issueStageGrant (k : Nat) : Statement (.issueStageGrant k) := fun _ => trivial
theorem sampleRecord (h : Nat) : Statement (.sampleRecord h) := fun _ => trivial
theorem portFetch (h : Nat) (n : Nat) : Statement (.portFetch h n) := fun _ => trivial
theorem memoryAccessPerform (h : Nat) (tok : Nat) (k : Nat) : Statement (.memoryAccessPerform h tok k) := fun _ => trivial
theorem crucibleServe (cl : Nat) : Statement (.crucibleServe cl) := fun _ => trivial
theorem translationWalkDone (cl : Nat) (d : Nat) (c : Nat) (va : Nat) : Statement (.translationWalkDone cl d c va) := fun _ => trivial
theorem retentionEnter (k : Nat) : Statement (.retentionEnter k) := fun _ => trivial
theorem scrub (a : Nat) : Statement (.scrub a) := fun _ => trivial
theorem machineCheck (a : Nat) : Statement (.machineCheck a) := fun _ => trivial
theorem callLeaveWait (tab : Nat) (ent : Nat) : Statement (.callLeaveWait tab ent) := fun _ => trivial
theorem inwardCopyLanded (tab : Nat) (ent : Nat) : Statement (.inwardCopyLanded tab ent) := fun _ => trivial
theorem childStart (tab : Nat) (ent : Nat) : Statement (.childStart tab ent) := fun _ => trivial
theorem gangReadyTimeout (tab : Nat) (ent : Nat) : Statement (.gangReadyTimeout tab ent) := fun _ => trivial
theorem outwardCopyStart (tab : Nat) (ent : Nat) : Statement (.outwardCopyStart tab ent) := fun _ => trivial
theorem outwardCopyLanded (tab : Nat) (ent : Nat) : Statement (.outwardCopyLanded tab ent) := fun _ => trivial
theorem recordWrite (tab : Nat) (ent : Nat) : Statement (.recordWrite tab ent) := fun _ => trivial
theorem taskEnd (h : Nat) : Statement (.taskEnd h) := fun _ => trivial
theorem copyFault (id : Nat) : Statement (.copyFault id) := fun _ => trivial
theorem copyComplete (id : Nat) : Statement (.copyComplete id) := fun _ => trivial
theorem backoffResend (id : Nat) : Statement (.backoffResend id) := fun _ => trivial
theorem egressRelease (h : Nat) (tok : Nat) : Statement (.egressRelease h tok) := fun _ => trivial
theorem writePacket (p : Pkt) : Statement (.writePacket p) := fun _ => trivial
theorem readRequest (p : Pkt) : Statement (.readRequest p) := fun _ => trivial
theorem readData (p : Pkt) : Statement (.readData p) := fun _ => trivial
theorem atomicPacket (p : Pkt) : Statement (.atomicPacket p) := fun _ => trivial
theorem atomicResult (p : Pkt) : Statement (.atomicResult p) := fun _ => trivial
theorem fencePacket (p : Pkt) : Statement (.fencePacket p) := fun _ => trivial
theorem fenceFlagWrite (d : Nat) (c : Nat) : Statement (.fenceFlagWrite d c) := fun _ => trivial
theorem cancel (p : Pkt) : Statement (.cancel p) := fun _ => trivial
theorem receiverNotReady (p : Pkt) : Statement (.receiverNotReady p) := fun _ => trivial
theorem writeAcknowledgement (p : Pkt) : Statement (.writeAcknowledgement p) := fun _ => trivial
theorem channelElement (p : Pkt) : Statement (.channelElement p) := fun _ => trivial
theorem channelCredit (p : Pkt) : Statement (.channelCredit p) := fun _ => trivial
theorem fluxEngineStep (p : Pkt) : Statement (.fluxEngineStep p) := fun _ => trivial
theorem conversionStart (d : Nat) (c : Nat) (pl : Nat) : Statement (.conversionStart d c pl) := fun _ => trivial
theorem conversionComplete (d : Nat) (c : Nat) (pl : Nat) : Statement (.conversionComplete d c pl) := fun _ => trivial
theorem collStart (id : Nat) : Statement (.collStart id) := fun _ => trivial
theorem chunkFinal (id : Nat) (j : Nat) : Statement (.chunkFinal id j) := fun _ => trivial
theorem ieee1588Message (p : Pkt) : Statement (.ieee1588Message p) := fun _ => trivial
theorem startOrStopToken (p : Pkt) : Statement (.startOrStopToken p) := fun _ => trivial
theorem timedStart (d : Nat) (c : Nat) (num : Nat) : Statement (.timedStart d c num) := fun _ => trivial
theorem timedHalt (d : Nat) (c : Nat) (num : Nat) : Statement (.timedHalt d c num) := fun _ => trivial
theorem contextSwap (d : Nat) : Statement (.contextSwap d) := fun _ => trivial
theorem entryTake (q : Nat) : Statement (.entryTake q) := fun _ => trivial
theorem launchMessage (p : Pkt) : Statement (.launchMessage p) := fun _ => trivial
theorem memberReport (p : Pkt) : Statement (.memberReport p) := fun _ => trivial
theorem quenchT1 (q : Nat) : Statement (.quenchT1 q) := fun _ => trivial
theorem quenchT2 (q : Nat) : Statement (.quenchT2 q) := fun _ => trivial
theorem quenchT3 (q : Nat) : Statement (.quenchT3 q) := fun _ => trivial
theorem qcfgWrite (w : RegWr) : Statement (.qcfgWrite w) := fun _ => trivial
theorem qtailWrite (w : RegWr) : Statement (.qtailWrite w) := fun _ => trivial
theorem apwcfgWrite (w : RegWr) : Statement (.apwcfgWrite w) := fun _ => trivial
theorem aperrWrite (w : RegWr) : Statement (.aperrWrite w) := fun _ => trivial
theorem channelEntryWrite (w : RegWr) : Statement (.channelEntryWrite w) := fun _ => trivial
theorem msixVectorControlWrite (w : RegWr) : Statement (.msixVectorControlWrite w) := fun _ => trivial
theorem errorLogWrite (w : RegWr) : Statement (.errorLogWrite w) := fun _ => trivial
theorem registerWrite (w : RegWr) : Statement (.registerWrite w) := fun _ => trivial
theorem postedWrite (r : Req) : Statement (.postedWrite r) := fun _ => trivial
theorem pieceAck (f : Nat) (id : Nat) (k : Nat) : Statement (.pieceAck f id k) := fun _ => trivial
theorem memoryRead (r : Req) : Statement (.memoryRead r) := fun _ => trivial
theorem pcieLinkTraining (k : Nat) : Statement (.pcieLinkTraining k) := fun _ => trivial
theorem linkTraining (k : Nat) : Statement (.linkTraining k) := fun _ => trivial
theorem linkRetrainRequest (k : Nat) : Statement (.linkRetrainRequest k) := fun _ => trivial
theorem laneLoss (k : Nat) : Statement (.laneLoss k) := fun _ => trivial
theorem flitReceive (k : Nat) : Statement (.flitReceive k) := fun _ => trivial
theorem linkKeyRollover (k : Nat) : Statement (.linkKeyRollover k) := fun _ => trivial
theorem packageLinkFail (a : Nat) (b : Nat) : Statement (.packageLinkFail a b) := fun _ => trivial
theorem heartbeatSend (d : Nat) (c : Nat) : Statement (.heartbeatSend d c) := fun _ => trivial
theorem deviceLost (peer : Nat) : Statement (.deviceLost peer) := fun _ => trivial
theorem checkpointComplete (d : Nat) (c : Nat) (num : Nat) : Statement (.checkpointComplete d c num) := fun _ => trivial
theorem coolantFlowChange (v : Nat) : Statement (.coolantFlowChange v) := fun _ => trivial
theorem memberAcknowledgement (p : Pkt) : Statement (.memberAcknowledgement p) := fun _ => trivial
theorem tokenModeEnter : Statement (.tokenModeEnter) := fun _ => trivial
theorem lockRegain : Statement (.lockRegain) := fun _ => trivial
theorem stragglerTimeout : Statement (.stragglerTimeout) := fun _ => trivial
theorem stragglerWaitExpiry : Statement (.stragglerWaitExpiry) := fun _ => trivial
theorem preemptRequest : Statement (.preemptRequest) := fun _ => trivial
theorem priorityPreempt : Statement (.priorityPreempt) := fun _ => trivial
theorem entryStart : Statement (.entryStart) := fun _ => trivial
theorem entryComplete : Statement (.entryComplete) := fun _ => trivial
theorem nop : Statement (.nop) := fun _ => trivial
theorem create : Statement (.create) := fun _ => trivial
theorem destroy : Statement (.destroy) := fun _ => trivial
theorem launch : Statement (.launch) := fun _ => trivial
theorem tlaunchEntry : Statement (.tlaunchEntry) := fun _ => trivial
theorem coll : Statement (.coll) := fun _ => trivial
theorem conv : Statement (.conv) := fun _ => trivial
theorem signal : Statement (.signal) := fun _ => trivial
theorem waitval : Statement (.waitval) := fun _ => trivial
theorem tinval : Statement (.tinval) := fun _ => trivial
theorem faultreply : Statement (.faultreply) := fun _ => trivial
theorem tpreEntry : Statement (.tpreEntry) := fun _ => trivial
theorem tresume : Statement (.tresume) := fun _ => trivial
theorem taskStart : Statement (.taskStart) := fun _ => trivial
theorem takeoverAdmission : Statement (.takeoverAdmission) := fun _ => trivial
theorem takeoverRestore : Statement (.takeoverRestore) := fun _ => trivial
theorem rollback : Statement (.rollback) := fun _ => trivial
theorem checkpointHalt : Statement (.checkpointHalt) := fun _ => trivial
theorem checkpointPeriod : Statement (.checkpointPeriod) := fun _ => trivial
theorem dbgStop : Statement (.dbgStop) := fun _ => trivial
theorem dbgStep : Statement (.dbgStep) := fun _ => trivial
theorem dbgRun : Statement (.dbgRun) := fun _ => trivial
theorem dbgRead : Statement (.dbgRead) := fun _ => trivial
theorem dbgBpset : Statement (.dbgBpset) := fun _ => trivial
theorem dbgChk : Statement (.dbgChk) := fun _ => trivial
theorem getVersion : Statement (.getVersion) := fun _ => trivial
theorem getCapabilities : Statement (.getCapabilities) := fun _ => trivial
theorem negotiateAlgorithms : Statement (.negotiateAlgorithms) := fun _ => trivial
theorem getDigests : Statement (.getDigests) := fun _ => trivial
theorem getCertificate : Statement (.getCertificate) := fun _ => trivial
theorem challenge : Statement (.challenge) := fun _ => trivial
theorem getMeasurements : Statement (.getMeasurements) := fun _ => trivial
theorem keyExchange : Statement (.keyExchange) := fun _ => trivial
theorem finish : Statement (.finish) := fun _ => trivial
theorem spdmHeartbeat : Statement (.spdmHeartbeat) := fun _ => trivial
theorem keyUpdate : Statement (.keyUpdate) := fun _ => trivial
theorem endSession : Statement (.endSession) := fun _ => trivial
theorem keygen : Statement (.keygen) := fun _ => trivial
theorem keygrant : Statement (.keygrant) := fun _ => trivial
theorem keyzero : Statement (.keyzero) := fun _ => trivial
theorem keysend : Statement (.keysend) := fun _ => trivial
theorem fwload : Statement (.fwload) := fun _ => trivial
theorem powerOnReset : Statement (.powerOnReset) := fun _ => trivial
theorem throttleTick : Statement (.throttleTick) := fun _ => trivial
theorem thermalTrip : Statement (.thermalTrip) := fun _ => trivial
theorem holdoverEnter : Statement (.holdoverEnter) := fun _ => trivial

end Laws.RoundTrip

end Sys2Proof
end

