-- ==== Sys2Proof/Laws/Queue.lean ====
section
/-! SUPPORT. Laws of the queues of a context: what entering an access leaves, in one state. -/

namespace Sys2Proof.Machine

theorem mins_mins {α : Type} (m : SMap α) (k : Nat) (v w : α) : mins (mins m k v) k w = mins m k w := by
  induction m with
  | nil => simp [mins]
  | cons x m ih =>
    obtain ⟨j, u⟩ := x
    simp only [mins]
    by_cases h1 : k < j
    · simp [h1, mins]
    · by_cases h2 : k = j
      · simp [h2, mins]
      · simp [h1, h2, mins, ih]

theorem State.modCtx_modCtx (s : State) (h : Nat) (f g : Ctx → Ctx) :
    (s.modCtx h f).modCtx h g = s.modCtx h fun c => g (f c) := by
  simp only [State.modCtx, State.setCtx, mins_mins, State.ctx, mfind_mins_self, Option.getD_some]

theorem State.bump_modCtx (s : State) (h : Nat) (f : Ctx → Ctx) : (s.modCtx h f).bump = s.bump.modCtx h f := rfl

theorem boxM_apply (h : Nat) (path : Path) (s : State) :
    ∃ p, pathM h path s = .ok (p, s) ∧ boxM h path s = .ok (((s.ctx h).box p.slot, p), s) := by
  have : ∃ p, pathM h path s = .ok (p, s) := by
    simp only [pathM, M.bind_ok (ctxM_apply h s), M.bind_ok (getM_apply s)]
    cases recordOf s .m <;> exact ⟨_, rfl⟩
  obtain ⟨p, hp⟩ := this
  exact ⟨p, hp, by simp only [boxM, M.bind_ok hp, M.bind_ok (ctxM_apply h s), M.pure_apply]⟩

theorem countLd_ok {h : Nat} {s : State} (h1 : (s.ctx h).wc.ld < 63) (h2 : (s.ctx h).q.lq.length < 32) :
    countLd h s = .ok ((), s.modCtx h fun c => { c with wc := { c.wc with ld := c.wc.ld + 1 } }) := by
  simp only [countLd, M.bind_ok (ctxM_apply h s)]
  rw [if_neg (by simp [classMax, queueDepth]; omega)]; rfl

theorem countSt_ok {h : Nat} {s : State} (h1 : (s.ctx h).wc.st < 63) (h2 : (s.ctx h).q.sq.length < 32) :
    countSt h s = .ok ((), s.modCtx h fun c => { c with wc := { c.wc with st := c.wc.st + 1 } }) := by
  simp only [countSt, M.bind_ok (ctxM_apply h s)]
  rw [if_neg (by simp [classMax, queueDepth]; omega)]; rfl

theorem seqM_apply (h : Nat) (s : State) :
    seqM h s = .ok ((s.ctx h).q.seq, s.modCtx h fun c => { c with q := { c.q with seq := c.q.seq + 1 } }) := by
  simp only [seqM, M.bind_ok (ctxM_apply h s), M.bind_ok (modM_apply _ _ _), M.pure_apply]

/-- The events of an entry, after a change of its context. -/
def State.entered (s : State) (h : Nat) (a : Acc) (f : Ctx → Ctx) : State :=
  (List.range (max 1 a.ps.length)).foldl (fun s k => s.sched 1 (.memoryAccessPerform h a.tok k)) (s.bump.modCtx h f)

theorem schedAcc_entered (h : Nat) (a : Acc) (f : Ctx → Ctx) (s : State) :
    schedAcc h a (s.bump.modCtx h f) = .ok ((), s.entered h a f) := rfl

theorem enqLoad_ok {h lat code : Nat} {ps : List Piece} {kind : AccKind} {acq conv : Option Nat} {fin : LoadFin} {s : State}
    (h1 : (s.ctx h).wc.ld < 63) (h2 : (s.ctx h).q.lq.length < 32) (h3 : ((s.ctx h).lats.filter (·.occ)).length < 64) :
    enqLoad h ps kind acq fin lat code conv s =
      .ok ((), s.entered h { tok := s.clk.tick, seq := (s.ctx h).q.seq, kind := kind, acq := acq, rel := none, conv := conv, ps := ps } fun c =>
        { c with wc := { c.wc with ld := c.wc.ld + 1 },
                 lats := c.lats ++ [{ tok := s.clk.tick, slot := Slot.num .m, code := code, dist := lat, here := false, occ := true,
                                      tile := false, wrs := [] }],
                 q := { c.q with seq := c.q.seq + 1,
                                 lq := c.q.lq ++ [{ tok := s.clk.tick, seq := (s.ctx h).q.seq, kind := kind, acq := acq, rel := none,
                                                    conv := conv, ps := ps }],
                                 pend := c.q.pend ++ [{ tok := s.clk.tick, fin := fin }] } }) := by
  simp only [enqLoad, M.bind_ok (countLd_ok h1 h2), M.bind_ok (seqM_apply h _)]
  rw [M.bind_ok (latchAs_ok (by simpa using h3))]
  simp only [M.bind_ok (modM_apply _ _ _), State.bump_modCtx, State.modCtx_modCtx, State.ctx_modCtx, if_pos]
  exact schedAcc_entered _ _ _ _

theorem enqStore_ok {h : Nat} {ps : List Piece} {kind : AccKind} {rel : Option Nat} {s : State}
    (h1 : (s.ctx h).wc.st < 63) (h2 : (s.ctx h).q.sq.length < 32) :
    enqStore h ps kind rel s =
      .ok ((), s.entered h { tok := s.clk.tick, seq := (s.ctx h).q.seq, kind := kind, acq := none, rel := rel, conv := none, ps := ps } fun c =>
        { c with wc := { c.wc with st := c.wc.st + 1 },
                 q := { c.q with seq := c.q.seq + 1,
                                 sq := c.q.sq ++ [{ tok := s.clk.tick, seq := (s.ctx h).q.seq, kind := kind, acq := none, rel := rel,
                                                    conv := none, ps := ps }] } }) := by
  simp only [enqStore, M.bind_ok (countSt_ok h1 h2), M.bind_ok (seqM_apply h _), M.bind_ok (getM_apply _), M.bind_ok (updM_apply _ _),
    M.bind_ok (modM_apply _ _ _), State.bump_modCtx, State.modCtx_modCtx, State.ctx_modCtx, if_pos]
  exact schedAcc_entered _ _ _ _

theorem enqAtomic_ok {h lat code : Nat} {ps qs : List Piece} {kl ks : AccKind} {acq rel : Option Nat} {fin : LoadFin} {s : State}
    (h1 : (s.ctx h).wc.ld < 63) (h2 : (s.ctx h).q.lq.length < 32) (h3 : ((s.ctx h).lats.filter (·.occ)).length < 64)
    (h4 : (s.ctx h).wc.st < 63) (h5 : (s.ctx h).q.sq.length < 32) :
    enqAtomic h ps qs kl ks acq rel fin lat code s =
      .ok ((), s.entered h { tok := s.clk.tick, seq := (s.ctx h).q.seq, kind := ks, acq := none, rel := rel, conv := none, ps := qs } fun c =>
        { c with wc := { c.wc with ld := c.wc.ld + 1, st := c.wc.st + 1 },
                 lats := c.lats ++ [{ tok := s.clk.tick, slot := Slot.num .m, code := code, dist := lat, here := false, occ := true,
                                      tile := false, wrs := [] }],
                 q := { c.q with seq := c.q.seq + 1,
                                 lq := c.q.lq ++ [{ tok := s.clk.tick, seq := (s.ctx h).q.seq, kind := kl, acq := acq, rel := none,
                                                    conv := none, ps := ps }],
                                 sq := c.q.sq ++ [{ tok := s.clk.tick, seq := (s.ctx h).q.seq, kind := ks, acq := none, rel := rel,
                                                    conv := none, ps := qs }],
                                 pend := c.q.pend ++ [{ tok := s.clk.tick, fin := fin }] } }) := by
  simp only [enqAtomic, M.bind_ok (countLd_ok h1 h2)]
  rw [M.bind_ok (countSt_ok (by simpa using h4) (by simpa using h5))]
  simp only [M.bind_ok (seqM_apply h _)]
  rw [M.bind_ok (latchAs_ok (by simpa using h3))]
  simp only [M.bind_ok (modM_apply _ _ _), State.bump_modCtx, State.modCtx_modCtx, State.ctx_modCtx, if_pos]
  exact schedAcc_entered _ _ _ _

end Sys2Proof.Machine
end

