-- ==== Sys2Proof/Laws/Regs.lean ====
section
/-! SUPPORT. Laws of register space: bytes written read back, g0 keeps its bytes, and bytes and numbers turn into one another. -/

namespace Sys2Proof.Machine

/-- Writing register space keeps its canonical form. -/
theorem mwf_rsPut : ∀ (bs : List Byte) (m : SMap Byte) (a : Nat), mwf 0 m = true → mwf 0 (rsPut m a bs) = true
  | [], _, _, h => h
  | b :: bs, m, a, h => by
    simp only [rsPut]
    split
    · exact mwf_rsPut bs _ _ h
    · exact mwf_rsPut bs _ _ (mwf_mput _ _ _ _ h)

/-- A run of bytes written inside register space reads back from byte 8 on; every other byte, and g0, stays. -/
theorem mget_rsPut : ∀ (bs : List Byte) (m : SMap Byte) (a j : Nat), mwf 0 m = true → a + bs.length ≤ 16384 →
    mget 0 (rsPut m a bs) j = if 8 ≤ j ∧ a ≤ j ∧ j < a + bs.length then bs.getD (j - a) 0 else mget 0 m j
  | [], m, a, j, _, _ => by simp [rsPut, show ¬ (8 ≤ j ∧ a ≤ j ∧ j < a) by omega]
  | b :: bs, m, a, j, h, hn => by
    simp only [List.length_cons] at hn ⊢
    rw [rsPut]
    by_cases ha : a < 8
    · rw [if_pos ha, mget_rsPut bs m (a + 1) j h (by omega)]
      by_cases h1 : 8 ≤ j ∧ a + 1 ≤ j ∧ j < a + 1 + bs.length
      · obtain ⟨i, rfl⟩ : ∃ i, j = a + 1 + i := ⟨j - a - 1, by omega⟩
        rw [if_pos h1, if_pos (by omega)]
        simp [show a + 1 + i - (a + 1) = i by omega, show a + 1 + i - a = i + 1 by omega, List.getD]
      · rw [if_neg h1, if_neg (by omega)]
    · rw [if_neg ha, mget_rsPut bs _ (a + 1) j (mwf_mput _ _ _ _ h) (by omega), Nat.mod_eq_of_lt (by omega),
        mget_mput 0 m a j b (mwf_keys h)]
      by_cases h1 : 8 ≤ j ∧ a + 1 ≤ j ∧ j < a + 1 + bs.length
      · obtain ⟨i, rfl⟩ : ∃ i, j = a + 1 + i := ⟨j - a - 1, by omega⟩
        rw [if_pos h1, if_pos (by omega)]
        simp [show a + 1 + i - (a + 1) = i by omega, show a + 1 + i - a = i + 1 by omega, List.getD]
      · rw [if_neg h1]
        by_cases h2 : j = a
        · subst h2; rw [if_pos rfl, if_pos (by omega)]; simp
        · rw [if_neg h2, if_neg (by omega)]

theorem ofBytes_toBytes : ∀ (n v : Nat), ofBytes (toBytes n v) = v % 256 ^ n
  | 0, v => by simp [toBytes, ofBytes, Nat.mod_one]
  | n + 1, v => by
    simp only [toBytes, ofBytes, ofBytes_toBytes n, BitVec.toNat_ofNat]
    have h : v % 256 ^ (n + 1) = v % 256 + 256 * (v / 256 % 256 ^ n) := by
      rw [Nat.pow_succ', Nat.mod_mul]
    rw [h]

@[simp] theorem length_toBytes : ∀ (n v : Nat), (toBytes n v).length = n
  | 0, _ => rfl
  | n + 1, v => by simp [toBytes, length_toBytes n]

@[simp] theorem length_mgets {α : Type} (d : α) (m : SMap α) : ∀ (n k : Nat), (mgets d m k n).length = n
  | 0, _ => rfl
  | n + 1, k => by simp [mgets, length_mgets d m n]

/-- Eight bytes read as they were written. -/
theorem mgets_eq_of_get {α : Type} (d : α) (m : SMap α) : ∀ (vs : List α) (k : Nat),
    (∀ i, i < vs.length → mget d m (k + i) = vs.getD i d) → mgets d m k vs.length = vs
  | [], _, _ => rfl
  | v :: vs, k, h => by
    simp only [List.length_cons, mgets]
    congr 1
    · simpa using h 0 (by simp)
    · refine mgets_eq_of_get d m vs (k + 1) fun i hi => ?_
      have := h (i + 1) (by simp; omega)
      simpa [show k + 1 + i = k + (i + 1) by omega, List.getD] using this

theorem mgets_congr {α : Type} (d : α) (m m' : SMap α) : ∀ (n k : Nat), (∀ i, i < n → mget d m (k + i) = mget d m' (k + i)) →
    mgets d m k n = mgets d m' k n
  | 0, _, _ => rfl
  | n + 1, k, h => by
    simp only [mgets]
    congr 1
    · simpa using h 0 (by omega)
    · exact mgets_congr d m m' n (k + 1) fun i hi => by
        have := h (i + 1) (by omega)
        simpa [show k + 1 + i = k + (i + 1) by omega] using this

end Sys2Proof.Machine
end

