-- ==== Sys2Proof/Tests/Slice0.lean ====
section
/-! SUPPORT. Tests: well-formedness checks, words written out from the spec's encodings, and for each statement states that meet its
hypotheses. -/

set_option Elab.async false
set_option maxRecDepth 100000
set_option linter.unusedVariables false

namespace Sys2Proof.Tests

open Sys2Proof.Machine Sys2Proof.Claims

/-! States to test on. -/

/-- A view register from its fields (R55). -/
def vw (fmt rows cols stride base : Nat) : Word :=
  atBit fmt 42 ||| atBit stride 34 ||| atBit (rows - 1) 29 ||| atBit (cols - 1) 20 ||| atBit base 0

/-- A descriptor from its fields (R13): rows of one granule apart, everything in rank 2. -/
def bxd (lvl fmt acc base e0 e1 : Nat) : Desc :=
  { w0 := atBit base 0, w1 := atBit e0 0 ||| atBit e1 16 ||| atBit 1 32 ||| atBit 1 48, w2 := atBit 1 0 ||| atBit 1 32,
    w3 := atBit acc 43 ||| atBit lvl 41 ||| atBit 1 39 ||| atBit fmt 34 ||| atBit 1 33 ||| atBit 1 0 }

/-- A task of a level, of device context 0 of device 0. -/
def tk (lvl : Nat) : Task :=
  { dev := 0, dctx := 0, lvl := lvl, cbase := 0, csize := 65536, key := 0, image := 0, parent := none, queue := none, lead := 0,
    gang := none, chan := [], occ := [] }

/-- Register space with 64-bit words from a g register on. -/
def rsWords (n : Nat) (ws : List Word) (m : SMap Byte) : SMap Byte := rsPut m (8 * n) (ws.flatMap fun w => toBytes 8 w.toNat)

/-- A context that issues: g5 is 7, g6 is -3 and g7 is 64; cq, eq and two predicates hold something; w1 to w4 are views of FP32, w5 one of nat64
with eight words, which are 0, w6 one of nat16. -/
def tc : Ctx :=
  { Ctx.zero with
    st := .issue, task := some (tk 0), pc := 0x1000,
    f := { rs := rsWords 5 [7, -3, 64] [], tag := [], pr := 0b1001, xp := [], hl := none,
           vd := [(1, vw 1 2 16 1 8), (2, vw 1 2 16 1 12), (3, vw 1 2 16 1 16), (4, vw 1 1 16 1 20), (5, vw 11 1 8 1 24), (6, vw 9 1 32 1 28)] },
    sys := { Ctx.zero.sys with sh := atBit 2 10 ||| atBit 16 0 ||| atBit 1 16 },
    bx := [(0, bxd 0 7 2 0x4000 8 4), (1, bxd 0 1 2 0x8000 32 4), (2, bxd 0 16 2 0xC000 128 4)],
    q := { Ctx.zero.q with cq := [true, false], eq := [0x0000000000000009#128] } }

/-- The issue in progress. -/
def ti : Iss :=
  { h := 0, addr := 0x1000, size := 12, last := true, first := 1, later := [], re := [], tgt := .seq, yield := false, after := none,
    stop := none, gone := false }

/-- A state with one context in its issue, and the management context alive. -/
def ts (c : Ctx) : State :=
  { State.reset with
    clk := { State.reset.clk with wall := 1000, tick := 50 }, agenda := [], iss := some ti, hw := [(0, c)],
    dctx := [(0, { DCtx.zero with live := true, msh := atBit 1 34 ||| atBit 1 22 ||| atBit 1 11 ||| atBit 1 0 })], res := [(0, 1)],
    mgt := { State.reset.mgt with state := 3 } }

def g0 : Guard := { p := 0, n := 0 }
def s0 : State := ts tc

theorem latch_free {s : State} {h : Nat} (p : Nat.ble (((s.ctx h).lats.filter fun l => l.occ).length + 1) 64 = true) : LatchFree s h :=
  Nat.le_of_ble_eq_true p

/-! Encodings. -/

theorem test_w_encodings :
    (Instr.add g0 (.g 7) (.g 6) (.imm 3)).wf = true ∧ encode (.add g0 (.g 7) (.g 6) (.imm 3)) ≠ [] ∧
    (0xFF00000000000000 : Word).extractLsb' 56 8 = 0xFF ∧ ∀ sl : Slot, (0xFF#8).toNat ∉ assignedOpcodes sl := by
  refine ⟨rfl, by decide, by decide, fun sl => ?_⟩
  cases sl <;> decide

/-! The scalar and the branch slots. -/

theorem test_w_scalar_sources :
    (∃ b l, (s0.ctx 0).q.cq = b :: l) ∧ (∃ r l, (s0.ctx 0).q.eq = r :: l) ∧ ∃ s : State, (s.ctx 0).q.cq = [] ∧ (s.ctx 0).q.eq = [] :=
  ⟨⟨_, _, rfl⟩, ⟨_, _, rfl⟩, State.reset, rfl, rfl⟩

theorem test_w_scalar_arithmetic :
    (Instr.add g0 (.g 7) (.g 6) (.imm 3)).wf = true ∧ (Instr.rems g0 (.g 7) (.g 6) (.imm 3)).wf = true ∧
    ∃ (s s1 s2 s3 : State) (i : Iss) (x y : Word) (ws : List Wr), Issues s i g0 ∧ rdScalar i.h (.g 6) 1 s = .ok (x, s1) ∧
      rdScalar i.h (.imm 3) 2 s1 = .ok (y, s2) ∧ y ≠ 0 ∧ wrScalar i.h (.g 7) (BitVec.ofInt 64 (x.toInt + y.toInt)) s2 = .ok (ws, s3) ∧
      LatchFree s3 i.h :=
  ⟨rfl, rfl, s0, _, _, _, ti, _, _, _, ⟨rfl, rfl⟩, rfl, rfl, by decide, rfl, latch_free rfl⟩

theorem test_w_scalar_arithmetic_zero :
    ∃ (s s1 s2 : State) (i : Iss) (x y : Word), Issues s i g0 ∧ rdScalar i.h (.g 6) 1 s = .ok (x, s1) ∧
      rdScalar i.h (.g 9) 2 s1 = .ok (y, s2) ∧ y = 0 := ⟨s0, _, _, ti, _, _, ⟨rfl, rfl⟩, rfl, rfl, rfl⟩

/-- The corner of R214: the most negative number by -1. -/
theorem test_division_corner :
    (BitVec.ofInt 64 ((BitVec.intMin 64).toInt.tdiv (-1)) = BitVec.intMin 64) ∧ BitVec.ofInt 64 ((BitVec.intMin 64).toInt.tmod (-1)) = 0 := by
  decide

theorem test_w_leading_zeros : LeadingZeros 0 64 ∧ LeadingZeros 7 61 ∧ LeadingZeros (BitVec.intMin 64) 0 := by
  refine ⟨⟨by decide, fun k _ => by simp, fun h => absurd h (by decide)⟩, ⟨by decide, fun k hk => ?_, fun _ => by decide⟩,
    ⟨by decide, fun k hk => BitVec.getLsbD_of_ge _ _ (by omega), fun _ => by decide⟩⟩
  by_cases h : k < 64
  · exact (by decide : ∀ k : Fin 64, 64 - 61 ≤ k.val → (7 : Word).getLsbD k.val = false) ⟨k, h⟩ hk
  · exact BitVec.getLsbD_of_ge _ _ (by omega)

theorem test_w_counts_moves_and_selects :
    (Instr.clz g0 (.g 7) (.g 6)).wf = true ∧ (Instr.popc g0 (.g 7) (.g 6)).wf = true ∧ (Instr.mov g0 (.g 7) (.g 6)).wf = true ∧
    (Instr.sel g0 (.g 7) (.g 6) (.g 5) 1 3).wf = true ∧
    ∃ (s s1 s2 s3 : State) (i : Iss) (x y : Word) (ws : List Wr), Issues s i g0 ∧ rdScalar i.h (.g 5) 1 s = .ok (x, s1) ∧
      LeadingZeros x 61 ∧ rdScalar i.h .cq 2 s1 = .ok (y, s2) ∧ wrScalar i.h (.g 7) x s2 = .ok (ws, s3) ∧ LatchFree s3 i.h :=
  ⟨rfl, rfl, rfl, rfl, s0, _, _, _, ti, _, _, _, ⟨rfl, rfl⟩, rfl, test_w_leading_zeros.2.1, rfl, rfl, latch_free rfl⟩

theorem test_w_predicate_operations : ∃ (s : State) (i : Iss), Issues s i g0 ∧ LatchFree s i.h := ⟨s0, ti, ⟨rfl, rfl⟩, latch_free rfl⟩

theorem test_w_immediates_and_compares :
    ∃ (s s1 s2 s3 : State) (i : Iss) (x y : Word) (ws : List Wr), Issues s i g0 ∧ rdScalar i.h (.g 6) 1 s = .ok (x, s1) ∧
      rdScalar i.h (.g 5) 2 s1 = .ok (y, s2) ∧ condition 2 x y ∧ ¬ condition 6 x y ∧ wrScalar i.h .cq 1 s2 = .ok (ws, s3) ∧ LatchFree s3 i.h :=
  ⟨s0, _, _, _, ti, _, _, _, ⟨rfl, rfl⟩, rfl, rfl, by show (_ : Int) < _; decide, by show ¬ (_ : Nat) < _; decide, rfl, latch_free rfl⟩

theorem test_w_system_registers :
    (∃ (v : Word) (ws : List Wr) (s3 : State), s0.sreg 0 0x042 = some v ∧ s0.priv (s0.ctx 0) = true ∧ wrScalar 0 (.g 7) v s0 = .ok (ws, s3) ∧
      LatchFree s3 0) ∧
    sregAssigned 0x042 ∧ ¬ sregAssigned 0x043 ∧ ¬ sregAssigned 0xFFF ∧ sregFixed 0x002 ∧ sregPrivileged 0x040 ∧ ¬ sregFixed 0x000 ∧
    (∃ s : State, s.priv (s.ctx 0) = false ∧ Issues s ti g0) ∧ (∃ t, (s0.ctx 0).task = some t) ∧
    (∃ t, ((ts { tc with task := some { tk 0 with dctx := 1 } }).ctx 0).task = some t ∧ t.dctx ≠ 0) := by
  refine ⟨⟨_, _, _, rfl, rfl, rfl, latch_free rfl⟩, ?_, ?_, ?_, ?_, ?_, ?_, ⟨{ s0 with dctx := [(0, { DCtx.zero with key := 1 })] }, rfl, rfl, rfl⟩,
    ⟨_, rfl⟩, ⟨_, rfl, by decide⟩⟩ <;> simp [sregAssigned, sregFixed, sregPrivileged]

theorem test_w_system_register_writes :
    ∃ (s s1 : State) (i : Iss) (v : Word), Issues s i g0 ∧ sregAssigned 0x001 ∧ ¬ sregFixed 0x001 ∧ ¬ sregPrivileged 0x001 ∧
      rdScalar i.h (.imm 17) 1 s = .ok (v, s1) ∧ fmtOk (fld v 20 16) = true ∧ fld v 3 0 ≤ 8 ∧ s.cgmBusy i.h v = false ∧ LatchFree s1 i.h := by
  refine ⟨s0, _, ti, _, ⟨rfl, rfl⟩, ?_, ?_, ?_, rfl, rfl, by decide, rfl, latch_free rfl⟩ <;> simp [sregAssigned, sregFixed, sregPrivileged]

theorem test_w_configuration :
    (∃ (x : Word) (s1 : State), rdScalar 0 (.g 5) 1 s0 = .ok (x, s1) ∧ LatchFree s1 0) ∧
    (∃ (x y : Word) (s1 s2 s3 : State) (ws : List Wr), fmtOk 18 = true ∧ rdScalar 0 (.g 7) 1 s0 = .ok (x, s1) ∧ rdScalar 0 (.g 6) 2 s1 = .ok (y, s2) ∧
      wrScalar 0 (.g 9) (BitVec.ofNat 64 ((max 0 (min x.toInt 32)).toNat * (max 0 (min y.toInt (colCap 18))).toNat)) s2 = .ok (ws, s3) ∧
      LatchFree s3 0) ∧
    ((s0.ctx 0).box 0).valid = true ∧ ((s0.ctx 0).box 0).level ≠ 3 ∧ ((s0.ctx 0).box 15).valid = false ∧
    (∃ t, (s0.ctx 0).task = some t ∧ meshCheck 3 (s0.dc t.dev t.dctx).msh 0 = .ok ()) ∧
    (let c := (ts { tc with bx := [(3, bxd 3 1 2 0x4000 8 4)] }).ctx 0; (c.box 3).valid = true ∧ (c.box 3).level = 3) :=
  ⟨⟨_, _, rfl, latch_free rfl⟩, ⟨_, _, _, _, _, _, rfl, rfl, rfl, rfl, latch_free rfl⟩, rfl, by decide, rfl, ⟨_, rfl, rfl⟩, rfl, rfl⟩

theorem test_w_generators_and_patterns :
    (∃ (par : List Word) (s1 : State), blockWords 0 5 .s 1 6 s0 = .ok (par, s1) ∧ parReserved (par.take 6) = true ∧ LatchFree s1 0 ∧
      (parWord (par.take 6) 0).getLsbD 0 = false) ∧
    (let c := { tc with f := { tc.f with rs := rsWords (24 * 8) [1, 0, 4, 0, 0, 0, 0, 0] [] } }
     ∃ (par : List Word) (s1 : State), blockWords 0 5 .s 1 6 (ts c) = .ok (par, s1) ∧ parReserved (par.take 6) = true ∧ LatchFree s1 0 ∧
      (parWord (par.take 6) 0).getLsbD 0 = true ∧ parNlv (par.take 6) = 0 ∧ fld (parWord (par.take 6) 2) 31 0 ≠ 0 ∧
      ((s1.ctx 0).box (parBox (par.take 6))).valid = true ∧ parWid (par.take 6) ≤ 4 * fmtPer ((s1.ctx 0).box (parBox (par.take 6))).fmt ∧
      ((s1.ctx 0).box (parBox (par.take 6))).acc ≠ 0) :=
  ⟨⟨_, _, rfl, rfl, latch_free rfl, rfl⟩, _, _, rfl, rfl, latch_free rfl, rfl, rfl, by decide, rfl, by decide, by decide⟩

/-- A pattern view with 32 entries of 8 bytes, each to itself. -/
def patCtx : Ctx :=
  { tc with f := { tc.f with rs := rsPut [] (28 * 64) ((List.range 32).flatMap fun k => toBytes 2 k) } }

theorem test_w_patterns :
    ∃ (w : View) (s1 : State), viewM 0 .s 6 false 1 (ts patCtx) = .ok (w, s1) ∧ w.fmt = 9 ∧ 256 / 2 ^ 3 ≤ w.rows * w.cols ∧
      (let es := (List.range (256 / 2 ^ 3)).map fun j => (s1.ctx 0).elem w (j / w.cols) (j % w.cols)
       (∀ e ∈ es, e / 2 ^ 8 % 2 ^ 7 = 0 ∧ (e / 2 ^ 15 % 2 = 1 ∨ e % 2 ^ 8 < 256 / 2 ^ 3)) ∧ es = List.range 32) ∧ LatchFree s1 0 :=
  ⟨_, _, rfl, rfl, by decide, ⟨by decide, by decide⟩, latch_free rfl⟩

theorem test_w_branches_and_loops :
    (∃ (x : Word) (s1 : State), rdScalar 0 (.g 7) 1 s0 = .ok (x, s1) ∧ x.toNat % 4 = 0) ∧
    (∃ (x : Word) (s1 : State), rdScalar 0 (.g 5) 1 s0 = .ok (x, s1) ∧ x.toNat % 4 ≠ 0) ∧
    (∃ (x y : Word) (s1 s2 : State), rdScalar 0 (.g 5) 0 s0 = .ok (x, s1) ∧ ti.size ≤ 4 * (3#24).toNat ∧ x ≠ 0 ∧ s1.iss = some ti ∧
      LatchFree s1 0 ∧ rdScalar 0 (.imm 24) 1 s1 = .ok (y, s2) ∧ 1 ≤ y.toNat ∧ y.toNat ≤ 8 ∧ x.toNat + y.toNat - 1 < 2 ^ 64 ∧ s2.iss = some ti ∧
      LatchFree s2 0) ∧
    (∃ (x : Word) (s1 : State), rdScalar 0 (.g 9) 0 s0 = .ok (x, s1) ∧ x = 0) :=
  ⟨⟨_, _, rfl, by decide⟩, ⟨_, _, rfl, by decide⟩,
    ⟨_, _, _, _, rfl, by decide, by decide, rfl, latch_free rfl, rfl, by decide, by decide, by decide, rfl, latch_free rfl⟩, _, _, rfl, rfl⟩

theorem test_w_waits :
    (s0.ctx 0).trp.fq = [] ∧ (s0.ctx 0).wc.ld ≤ (0#24).toNat % 64 ∧
    (∃ s : State, Issues s ti g0 ∧ (s.ctx 0).trp.fq = [] ∧ (0#24).toNat % 64 < (s.ctx 0).wc.ld) ∧
    (∃ (v : View) (r : BitVec 128) (l : List (BitVec 128)), (s0.ctx 0).q.eq = r :: l ∧ viewM 0 .b 5 false 0 s0 = .ok (v, s0) ∧
      (v.fmt = 7 ∨ v.fmt = 11) ∧ 2 ≤ v.rows * v.cols) ∧
    (∃ (s : State) (t : Task) (k m : Nat), Issues s ti g0 ∧ (s.ctx 0).trp.fq = [] ∧ (s.ctx 0).task = some t ∧ t.lvl ≤ 1 ∧ t.gang = some (k, m) ∧
      2 ≤ m ∧ s.barrierOpen 0 15 = true) ∧
    (∀ t, (s0.ctx 0).task = some t → t.lvl ≤ 1 → t.gang = none) :=
  ⟨rfl, by decide, ⟨ts { tc with wc := { tc.wc with ld := 1 } }, ⟨rfl, rfl⟩, rfl, by decide⟩, ⟨_, _, _, rfl, rfl, Or.inr rfl, by decide⟩,
    ⟨ts { tc with bars := [(15, 2)], task := some { tk 0 with gang := some (3, 2) } }, _, _, _, ⟨rfl, rfl⟩, rfl, rfl, by decide, rfl, by decide, rfl⟩,
    fun t h _ => by cases h; rfl⟩

theorem test_w_bundle_ends :
    Issues s0 ti g0 ∧ ti.last = true ∧ (s0.ctx 0).prog.after = none ∧ ti.after = none ∧ (s0.ctx 0).breakArmed = false ∧
    (s0.ctx 0).trp.tcs.getLsbD 31 = false ∧ ((ts { tc with trp := { tc.trp with tvec := 0x2001 } }).ctx 0).trp.tvec.getLsbD 0 = true ∧
    (∃ s : State, Issues s ti g0 ∧ (s.ctx 0).breakArmed = true) ∧
    (∃ (s : State) (a : Aside), Issues s ti g0 ∧ (s.ctx 0).trp.tcs.getLsbD 31 = true ∧ (s.ctx 0).trp.aside = some a) :=
  ⟨⟨rfl, rfl⟩, rfl, rfl, rfl, rfl, rfl, rfl, ⟨ts { tc with dbg := { tc.dbg with bp := [(3, 0x2001)] } }, ⟨rfl, rfl⟩, rfl⟩,
    ⟨ts { tc with trp := { tc.trp with tcs := 0x80000000, aside := some { lats := [], seq := 0, byp := Bypass.zero, prog := Progress.zero } } }, _,
      ⟨rfl, rfl⟩, rfl, rfl⟩⟩

/-! The M slot. -/

/-- A path at the origin of a box. -/
def pth (n : BitVec 4) : Path := { bx := n, c0 := .g 0, c1 := .g 0, c2 := .g 0, c3 := .g 0, msel := 0 }

/-- A context that runs a task of level 3, with a system box of int64 in slot 3 and one of FP32 in slot 4, on a mesh of two members along
axis 0; g8 names the member whose peer number is 5. -/
def tc3 : Ctx :=
  { tc with
    task := some (tk 3), bx := [(3, bxd 3 7 2 0x4000 8 4), (4, bxd 3 1 2 0x8000 32 4)],
    f := { tc.f with rs := rsWords 5 [7, -3, 64, 1] [], vd := [(1, vw 1 2 16 1 8)] } }

/-- A state in which it issues; peer 5 is present. -/
def ts3 : State :=
  { ts tc3 with
    dctx := [(0, { DCtx.zero with live := true, msh := atBit 1 34 ||| atBit 1 22 ||| atBit 1 11 ||| atBit 2 0, mtab := [(1, 5)] })],
    net := { Net.zero with peers := [(5, 1)] } }

/-- A path at the origin of a box of the member that g8 names. -/
def fpth (n : BitVec 4) : Path := { pth n with msel := 8 }

theorem load_room {s : State} {h : Nat} (a : Nat.ble ((s.ctx h).wc.ld + 1) 63 = true) (b : Nat.ble ((s.ctx h).q.lq.length + 1) 32 = true)
    (c : Nat.ble (((s.ctx h).lats.filter fun l => l.occ).length + 1) 64 = true) : LoadRoom s h :=
  ⟨Nat.le_of_ble_eq_true a, Nat.le_of_ble_eq_true b, latch_free c⟩

theorem store_room {s : State} {h : Nat} (a : Nat.ble ((s.ctx h).wc.st + 1) 63 = true) (b : Nat.ble ((s.ctx h).q.sq.length + 1) 32 = true) :
    StoreRoom s h := ⟨Nat.le_of_ble_eq_true a, Nat.le_of_ble_eq_true b⟩

theorem test_w_local_loads :
    (∃ b p l s1, LocalPath s0 0 (pth 0) b p ∧ fmtRaw b.fmt = true ∧ accessM 0 b p 1 1 false true s0 = .ok (l, s1) ∧ LoadRoom s1 0) ∧
    (∃ b p v l s1, LocalPath s0 0 (pth 1) b p ∧ noGrant (s0.ctx 0) = false ∧ viewM 0 .m 1 false 0 s0 = .ok (v, s0) ∧ v.fmt = b.fmt ∧
      accessM 0 b p (grantOf (s0.ctx 0) v).1 (grantOf (s0.ctx 0) v).2 false (blockAligned b.fmt (p.crd.getD 0 0) (grantOf (s0.ctx 0) v).1) s0
        = .ok (l, s1) ∧ LoadRoom s1 0) ∧
    (∃ b p ps s1, LocalPath s0 0 (pth 2) b p ∧ granM 0 b p false s0 = .ok (ps, s1) ∧ LoadRoom s1 0) ∧
    (∃ s : State, Issues s ti g0 ∧ noGrant (s.ctx 0) = true) :=
  ⟨⟨_, _, _, _, ⟨rfl, rfl⟩, rfl, rfl, load_room rfl rfl rfl⟩, ⟨_, _, _, _, _, ⟨rfl, rfl⟩, rfl, rfl, rfl, rfl, load_room rfl rfl rfl⟩,
    ⟨_, _, _, _, ⟨rfl, rfl⟩, rfl, load_room rfl rfl rfl⟩, ts { tc with sys := { tc.sys with sh := 0 } }, ⟨rfl, rfl⟩, rfl⟩

/-- A context whose box 1 has 10 columns: a first-fault load of 16 stops after 10; its grant is one row. -/
def ffCtx : Ctx := { tc with bx := [(1, bxd 0 1 2 0x8000 10 4)], sys := { tc.sys with sh := atBit 1 10 ||| atBit 16 0 } }

theorem test_w_first_fault_loads :
    ∃ b p v l s1, Issues (ts ffCtx) ti g0 ∧ LocalPath (ts ffCtx) 0 (pth 1) b p ∧ viewM 0 .m 1 false 0 (ts ffCtx) = .ok (v, ts ffCtx) ∧ v.fmt = b.fmt ∧
      grantRows ((ts ffCtx).ctx 0) = 1 ∧ min v.cols (grantCols ((ts ffCtx).ctx 0)) = 16 ∧ blockAligned b.fmt (p.crd.getD 0 0) 16 = true ∧
      (∀ j < 10, (ts ffCtx).unitOk 0 b p (1 * j) 1 = true) ∧ (ts ffCtx).unitOk 0 b p (1 * 10) 1 = false ∧
      accessM 0 b p (max 1 (1 * 10)) 1 false true (ts ffCtx) = .ok (l, s1) ∧ LoadRoom s1 0 :=
  ⟨_, _, _, _, _, ⟨rfl, rfl⟩, ⟨rfl, rfl⟩, rfl, rfl, rfl, rfl, rfl, by decide, rfl, rfl, load_room rfl rfl rfl⟩

theorem test_w_local_stores :
    (∃ b p x s1 l s2, rdScalar 0 (.g 6) 0 s0 = .ok (x, s1) ∧ LocalPath s1 0 (pth 0) b p ∧ fmtRaw b.fmt = true ∧
      accessM 0 b p 1 1 true true s1 = .ok (l, s2) ∧ StoreRoom s2 0) ∧
    (∃ b p v l s1, LocalPath s0 0 (pth 1) b p ∧ viewM 0 .m 1 false 0 s0 = .ok (v, s0) ∧ v.fmt = b.fmt ∧
      accessM 0 b p (grantOf (s0.ctx 0) v).1 (grantOf (s0.ctx 0) v).2 true (blockAligned b.fmt (p.crd.getD 0 0) (grantOf (s0.ctx 0) v).1) s0
        = .ok (l, s1) ∧ StoreRoom s1 0) ∧
    (∃ b p x s1 ps s2, rdScalar 0 (.g 6) 0 s0 = .ok (x, s1) ∧ LocalPath s1 0 (pth 2) b p ∧ granM 0 b p true s1 = .ok (ps, s2) ∧ StoreRoom s2 0) :=
  ⟨⟨_, _, _, _, _, _, rfl, ⟨rfl, rfl⟩, rfl, rfl, store_room rfl rfl⟩, ⟨_, _, _, _, _, ⟨rfl, rfl⟩, rfl, rfl, rfl, store_room rfl rfl⟩,
    _, _, _, _, _, _, rfl, ⟨rfl, rfl⟩, rfl, store_room rfl rfl⟩

theorem test_w_block_transfers :
    ∃ v b rs s1, blkM 0 1 (pth 1) false s0 = .ok ((v, b, rs), s1) ∧ LoadRoom s1 0 ∧ StoreRoom s1 0 ∧
      ∃ s2 : State, blkM 0 1 (pth 1) true s0 = .ok ((v, b, rs), s2) ∧ StoreRoom s2 0 :=
  ⟨_, _, _, _, rfl, load_room rfl rfl rfl, store_room rfl rfl, _, rfl, store_room rfl rfl⟩

theorem far_path {n : BitVec 4} (h : n = 3 ∨ n = 4) : ∃ b p, FarPath ts3 0 (fpth n) b p (5, 0) ∧ b = tc3.box n.toNat := by
  rcases h with rfl | rfl
  · exact ⟨_, _, ⟨rfl, rfl, rfl, ⟨_, rfl, rfl⟩, rfl, (fun a h => by cases h)⟩, rfl⟩
  · exact ⟨_, _, ⟨rfl, rfl, rfl, ⟨_, rfl, rfl⟩, rfl, (fun a h => by cases h)⟩, rfl⟩

theorem test_w_atomics :
    (∃ b p l s1, LocalPath s0 0 (pth 0) b p ∧ (∀ op < 10, AtomicFormat op b.fmt) ∧ accessM 0 b p 1 1 true true s0 = .ok (l, s1) ∧ LoadRoom s1 0 ∧
      StoreRoom s1 0) ∧
    (∃ b p, Issues ts3 ti g0 ∧ FarPath ts3 0 (fpth 3) b p (5, 0) ∧ (∀ op < 10, AtomicFormat op b.fmt) ∧
      boundsAll ts3 (ts3.ctx 0) b p 1 1 true = .ok () ∧ LoadRoom ts3 0 ∧ StoreRoom ts3 0) :=
  ⟨⟨_, _, _, _, ⟨rfl, rfl⟩, fun _ _ => ⟨rfl, Or.inr rfl, fun _ => rfl⟩, rfl, load_room rfl rfl rfl, store_room rfl rfl⟩,
    _, _, ⟨rfl, rfl⟩, ⟨rfl, rfl, rfl, ⟨_, rfl, rfl⟩, rfl, (fun a h => by cases h)⟩, fun _ _ => ⟨rfl, Or.inr rfl, fun _ => rfl⟩, rfl,
    load_room rfl rfl rfl, store_room rfl rfl⟩

theorem test_w_remote_accesses :
    (∃ b p, FarPath ts3 0 (fpth 3) b p (5, 0) ∧ fmtRaw b.fmt = true ∧ fmtInteger b.fmt = true ∧ 4 ≤ fmtBytes b.fmt ∧
      boundsAll ts3 (ts3.ctx 0) b p 1 1 true = .ok () ∧ boundsAll ts3 (ts3.ctx 0) b p 1 1 false = .ok () ∧
      ∃ x, rdScalar 0 (.g 6) 0 ts3 = .ok (x, ts3)) ∧
    (∃ b p v, FarPath ts3 0 (fpth 4) b p (5, 0) ∧ noGrant (ts3.ctx 0) = false ∧ viewM 0 .m 1 false 0 ts3 = .ok (v, ts3) ∧ v.fmt = b.fmt ∧
      blockAligned b.fmt (p.crd.getD 0 0) (grantOf (ts3.ctx 0) v).1 = true ∧
      boundsAll ts3 (ts3.ctx 0) b p (grantOf (ts3.ctx 0) v).1 (grantOf (ts3.ctx 0) v).2 true = .ok ()) :=
  ⟨⟨_, _, ⟨rfl, rfl, rfl, ⟨_, rfl, rfl⟩, rfl, (fun a h => by cases h)⟩, rfl, rfl, by decide, rfl, rfl, _, rfl⟩,
    _, _, _, ⟨rfl, rfl, rfl, ⟨_, rfl, rfl⟩, rfl, (fun a h => by cases h)⟩, rfl, rfl, rfl, rfl, rfl⟩

/-- A context with a store of its own on the way that has passed no point. -/
def busyCtx : Ctx :=
  { tc with q := { tc.q with seq := 9, sq := [{ tok := 3, seq := 8, kind := .store, acq := none, rel := none, conv := none, ps := [{ pl := .sp 0x4000, n := 8, hl := 1, lvl := 0, stamp := 0, data := toBytes 8 7, tag := none }] }] } }

/-- A context with a push issued and not landed. -/
def pushCtx : Ctx :=
  { tc with q := { tc.q with seq := 9, pw := [(4, [{ tok := 3, seq := 8, kind := .push false, acq := none, rel := none, conv := none, ps := [{ pl := .sp 0x4000, n := 8, hl := 1, lvl := 0, stamp := 0, data := toBytes 8 7, tag := none }] }])] } }

/-- A context with a load of eight bytes in its queue. -/
def ldCtx (lvl : Nat) : Ctx :=
  { tc with
    q := { tc.q with seq := 9, pend := [{ tok := 3, fin := .scalar 7 8 true }],
                     lq := [{ tok := 3, seq := 8, kind := .load, acq := none, rel := none, conv := none,
                              ps := [{ pl := .sp 0x4000, n := 8, hl := 1, lvl := lvl, stamp := 0, data := [1, 2, 3, 4, 5, 6, 7, 0x88], tag := some 0 }] }] },
    wc := { tc.wc with ld := 1 },
    lats := [{ tok := 3, slot := 2, code := 7, dist := 5, here := false, occ := true, tile := false, wrs := [] }] }

theorem test_w_markers_fences_and_waits :
    s0.allAt 0 tc.q.seq 4 = true ∧ (ts busyCtx).fenceOpen 0 9 4 = false ∧
    ((ts pushCtx).fenceOpen 0 9 4 = true ∧ pushCtx.storesBefore 9 4 = false ∧ pushCtx.q.lq.length < 32 ∧ pushCtx.q.sq.length < 32) ∧
    (∃ a ∈ pushCtx.stores, a.seq < 9 ∧ a.isAlign = false ∧ pushCtx.setAside 9 a = false ∧ a.at 0 = false) ∧
    (∃ a ∈ (ldCtx 0).q.lq, a.seq < 9 ∧ a.isAlign = false ∧ a.done = false) ∧
    (∃ b p t, LocalPath s0 0 (pth 0) b p ∧ boundsAll s0 (s0.ctx 0) b p (fmtPer b.fmt) 1 false = .ok () ∧ (s0.ctx 0).task = some t) ∧
    (∃ b p x s1 l s2 bs s3, rdScalar 0 (.g 6) 0 s0 = .ok (x, s1) ∧ LocalPath s1 0 (pth 0) b p ∧ fmtInteger b.fmt = true ∧ 4 ≤ fmtBytes b.fmt ∧
      accessM 0 b p 1 1 false true s1 = .ok (l, s2) ∧ (s2.convOf (s2.ctx 0) b).isSome = false ∧ s2.watchRead 0 l.flatten = some (bs, s3) ∧
      (s2.touchAll (l.flatten.map (·.pl))).1 = 0 ∧
      waitCondition 1 (extendTo bs (fmtInt b.fmt)) x ∧ ¬ waitCondition 0 (extendTo bs (fmtInt b.fmt)) x) ∧
    (let s := ts { busyCtx with q := { busyCtx.q with lq := [{ tok := 2, seq := 7, kind := .align, acq := none, rel := none, conv := none, ps := [] }] } }
     ∃ x s1 l s2 b p, rdScalar 0 (.g 6) 0 s = .ok (x, s1) ∧ LocalPath s1 0 (pth 0) b p ∧
      accessM 0 b p 1 1 false true s1 = .ok (l, s2) ∧ (s2.convOf (s2.ctx 0) b).isSome = false ∧ s2.watchRead 0 l.flatten = none) ∧
    (let s := { s0 with cores := [(0, { CoreSt.zero with idle := some 0 })] }
     ∃ x s1 l s2 b p bs s3, rdScalar 0 (.g 6) 0 s = .ok (x, s1) ∧ LocalPath s1 0 (pth 0) b p ∧ fmtInteger b.fmt = true ∧ 4 ≤ fmtBytes b.fmt ∧
      accessM 0 b p 1 1 false true s1 = .ok (l, s2) ∧ (s2.convOf (s2.ctx 0) b).isSome = false ∧ s2.watchRead 0 l.flatten = some (bs, s3) ∧
      (s2.touchAll (l.flatten.map (·.pl))).1 ≠ 0) ∧
    (let s := { ts { tc3 with bx := [(3, bxd 3 7 2 0x4000 8 4)] } with dctx := [(0, { (s0.dc 0 0) with place := [(0, { w0 := atBit 1 62, w1 := 0, conv := none })] })] }
     ∃ x s1 l s2 b p, rdScalar 0 (.g 6) 0 s = .ok (x, s1) ∧ LocalPath s1 0 (pth 3) b p ∧ fmtInteger b.fmt = true ∧ 4 ≤ fmtBytes b.fmt ∧
      accessM 0 b p 1 1 false true s1 = .ok (l, s2) ∧ (s2.convOf (s2.ctx 0) b).isSome = true) :=
  ⟨rfl, rfl, ⟨rfl, rfl, by decide, by decide⟩, ⟨_, .head _, by decide, rfl, rfl, rfl⟩, ⟨_, .head _, by decide, rfl, rfl⟩,
    ⟨_, _, _, ⟨rfl, rfl⟩, rfl, rfl⟩,
    ⟨_, _, _, _, _, _, _, _, rfl, ⟨rfl, rfl⟩, rfl, by decide, rfl, rfl, rfl, rfl, by show ¬ _ = _; decide, by show ¬ _ = _; decide⟩,
    ⟨_, _, _, _, _, _, rfl, ⟨rfl, rfl⟩, rfl, rfl, rfl⟩,
    ⟨_, _, _, _, _, _, _, _, rfl, ⟨rfl, rfl⟩, rfl, by decide, rfl, rfl, rfl, Nat.noConfusion⟩,
    _, _, _, _, _, _, rfl, ⟨rfl, rfl⟩, rfl, by decide, rfl, rfl⟩

/-! What memory accesses do when they perform. -/

theorem test_w_atomic_results : (2 ^ 32 - 1 : Nat) < 2 ^ (8 * 4) ∧ (0 : Nat) < 2 ^ (8 * 8) := by decide

theorem test_w_storage : State.reset.mem.wf = true ∧
    ((State.reset.mem.write (.hbm 0 0) [1, 2]).wf = true ∧ (State.reset.mem.write (.hbm 0 0) [1, 2]).keyOf 1 = 0 + 1) := ⟨rfl, rfl, rfl⟩

theorem test_w_queued_loads :
    (∃ a p, QueuedLoad (ts (ldCtx 0)) 0 3 0 a p ∧ (ts (ldCtx 0)).mayLoad 0 (ldCtx 0) a p = true ∧ (ts (ldCtx 0)).convWaits (ldCtx 0) a = false ∧
      ((ts (ldCtx 0)).touch p.pl).1 = 0) ∧
    (let c := { ldCtx 0 with q := { (ldCtx 0).q with lq := (ldCtx 0).q.lq.map fun a => { a with conv := some 1 } } }
     let s := { ts c with dctx := [(0, { DCtx.zero with place := [(1, { w0 := atBit 1 62, w1 := 0, conv := none })] })] }
     ∃ a p, QueuedLoad s 0 3 0 a p ∧ s.convWaits (s.ctx 0) a = true) ∧
    (let c := { ldCtx 0 with q := { (ldCtx 0).q with lq := { tok := 2, seq := 7, kind := .align, acq := none, rel := none, conv := none, ps := [] } :: (ldCtx 0).q.lq } }
     ∃ a p, QueuedLoad (ts c) 0 3 0 a p ∧ (ts c).mayLoad 0 c a p = false) :=
  ⟨⟨_, _, ⟨(fun x h => by cases h), rfl, Or.inl rfl, rfl, rfl⟩, rfl, rfl, rfl⟩,
    ⟨_, _, ⟨(fun x h => by cases h), rfl, Or.inl rfl, rfl, rfl⟩, rfl⟩, _, _, ⟨(fun x h => by cases h), rfl, Or.inl rfl, rfl, rfl⟩, rfl⟩

/-- A state with a store whose home is a level, at another. -/
def stSt (hl lvl : Nat) (lq : List Acc) : State :=
  ts { busyCtx with q := { busyCtx.q with lq := lq, sq := busyCtx.q.sq.map fun a => { a with ps := a.ps.map fun p => { p with hl := hl, lvl := lvl } } } }

theorem test_w_queued_stores :
    (∃ a p s1, QueuedStore (stSt 1 0 []) 0 3 0 a p ∧ (stSt 1 0 []).mayLeave 0 ((stSt 1 0 []).ctx 0) a p = true ∧
      (stSt 1 0 []).pathClear 0 (homeOf p.pl) = true ∧ ((stSt 1 0 []).touch p.pl).1 = 0 ∧ ((stSt 1 0 []).touch p.pl).2.mirrored p.pl p.data p.tag = (true, s1)) ∧
    (∃ a p, QueuedStore (stSt 4 1 []) 0 3 0 a p ∧ (stSt 4 1 []).mayAdvance 0 p = true ∧ p.lvl + 1 < p.hl) ∧
    (let l : List Acc := [{ tok := 2, seq := 7, kind := .load, acq := some 0, rel := none, conv := none, ps := [{ pl := .sp 0, n := 8, hl := 1, lvl := 0, stamp := 0, data := [], tag := none }] }]
     ∃ a p, QueuedStore (stSt 1 0 l) 0 3 0 a p ∧ (stSt 1 0 l).mayLeave 0 ((stSt 1 0 l).ctx 0) a p = false) :=
  ⟨⟨_, _, _, ⟨rfl, (fun x h => by cases h), Or.inl rfl, rfl, rfl⟩, rfl, rfl, rfl, rfl⟩,
    ⟨_, _, ⟨rfl, (fun x h => by cases h), Or.inl rfl, rfl, rfl⟩, rfl, Nat.le_of_ble_eq_true rfl⟩,
    _, _, ⟨rfl, (fun x h => by cases h), Or.inl rfl, rfl, rfl⟩, rfl⟩

/-- A cluster with a request at position 2; the one it served last stood at 64. -/
def crSt : State :=
  { s0 with clus := [(0, { Cluster.zero with crq := [(2, [{ h := some (0, 3), rem := none, pl := .sp 0x4000, op := 0, fmt := 8, v := 5, cmp := 0 }])] })] }

theorem test_w_crucibles :
    ∃ q l old s1 s2, nextPos (crSt.clu 0).crq (crSt.clu 0).last ((crSt.clu 0).serves crSt.clk.wall) = some 2 ∧ mget [] (crSt.clu 0).crq 2 = q :: l ∧ crSt.readBytes q.pl q.fmt = (old, s1) ∧
      s1.mirrored q.pl (toBytes q.fmt (atomNew q.op q.fmt (ofBytes old) q.v.toNat q.cmp.toNat)) none = (true, s2) :=
  ⟨_, _, _, _, _, rfl, rfl, rfl, rfl⟩

theorem test_w_load_arrivals :
    (∃ a p, ((ts (ldCtx 1)).ctx 0).q.lq.find? (fun x => x.tok == 3 && !x.isAlign) = some a ∧ ((ts (ldCtx 1)).ctx 0).q.pend.find? (fun x => x.tok == 3) = some p ∧
      a.done = true ∧ p.fin = .scalar 7 8 true ∧ 8 ≤ (a.ps.flatMap (·.data)).length) ∧
    (∃ a p, ((ts (ldCtx 0)).ctx 0).q.lq.find? (fun x => x.tok == 3 && !x.isAlign) = some a ∧ ((ts (ldCtx 0)).ctx 0).q.pend.find? (fun x => x.tok == 3) = some p ∧
      a.done = false ∧ ((ts (ldCtx 0)).ctx 0).dbg.due = 0) ∧
    (let c := { ldCtx 0 with dbg := { tc.dbg with due := 3 } }
     (∃ a p, ((ts c).ctx 0).q.lq.find? (fun x => x.tok == 3 && !x.isAlign) = some a ∧ ((ts c).ctx 0).q.pend.find? (fun x => x.tok == 3) = some p ∧ a.done = false) ∧
       ((ts c).ctx 0).latched = false) :=
  ⟨⟨_, _, rfl, rfl, rfl, rfl, by decide⟩, ⟨_, _, rfl, rfl, rfl, rfl⟩, ⟨_, _, rfl, rfl, rfl⟩, rfl⟩

/-- A latch that lands now. -/
def dueLatch (ws : List Wr) : Latch := { tok := 3, slot := 1, code := 7, dist := 0, here := true, occ := true, tile := false, wrs := ws }

theorem test_w_latch_commits :
    (∀ ws, ((ts { tc with lats := [dueLatch ws] }).ctx 0).lats.filter (fun x => x.dist == 0) = [dueLatch ws]) ∧ mwf 0 tc.f.rs = true ∧
    mwf 0 tc.f.vd = true ∧ ((ts { tc with task := none }).ctx 0).task = none :=
  ⟨fun _ => rfl, rfl, rfl, rfl⟩

theorem test_w_stalls_wakes_and_grants :
    ((ts { tc with st := .blocked }).ctx 0).st = .blocked ∧ s0.chooses 0 = none ∧ (ts { tc with st := .ready }).chooses 0 = some 0 ∧
    (∃ t, (s0.ctx 0).task = some t ∧ (mget 0 (s0.dc t.dev t.dctx).drcfg 1).getLsbD 0 = false) ∧
    (let s := { s0 with dctx := [(0, { DCtx.zero with drcfg := [(1, 1)] })] }
     ∃ t, (s.ctx 0).task = some t ∧ (mget 0 (s.dc t.dev t.dctx).drcfg 1).getLsbD 0 = true) :=
  ⟨rfl, rfl, rfl, ⟨_, rfl, rfl⟩, _, rfl, rfl⟩

/-- A read port over two runs of box 0. -/
def genPar : List Word := [atBit 3 23, 0, atBit 2 0 ||| atBit 4 32, 0, 0, 0, 0]

/-- A context with that port armed. -/
def portCtx : Ctx :=
  { tc with q := { tc.q with ag := [(0, some { par := genPar, idx := [0, 0, 0, 0], pos := 0, past := false, fetched := [], fidx := [0, 0, 0, 0], fover := false, hold := none })] } }

theorem test_w_ports :
    ∃ g ps s1, mget none ((ts portCtx).ctx 0).q.ag 0 = some g ∧ g.fover = false ∧ g.fetched.length < 8 ∧ ((ts portCtx).ctx 0).halt = false ∧
      g.hold = none ∧ (ts portCtx).convOf portCtx (portCtx.box (parBox g.par)) = none ∧ portRun 0 g.par g.fidx 0 (parWid g.par) false ((ts portCtx).sched 1 (.portFetch 0 0)) = .ok (ps, s1) ∧
      (s1.touchAll (ps.map (·.pl))).1 = 0 ∧ (∀ p ∈ ps, s1.pathClear 0 (homeOf p.pl) = true) ∧ mkeysFrom none (s1.ctx 0).q.ag = true ∧ mget none (s0.ctx 0).q.ag 0 = none := by
  refine ⟨_, _, _, rfl, rfl, by decide, rfl, rfl, rfl, rfl, rfl, ?_, rfl, rfl⟩
  intro p hp
  simp only [List.flatten_cons, List.flatten_nil, List.append_nil, List.mem_cons, List.not_mem_nil, or_false] at hp
  subst hp; rfl

/-- A state in which the table of device context 1 maps the first 2 MiB in one leaf, behind two entries that name tables. -/
def walkSt : State :=
  { s0 with
    dctx := [(1, { DCtx.zero with ptb := 0 })], res := [(0, 2)],
    mem := ((State.reset.mem.write (s0.hbmPlace 0 0 0) (toBytes 8 0x1001)).write (s0.hbmPlace 0 0x1000 0) (toBytes 8 0x2001)).write
      (s0.hbmPlace 0 0x2000 0) (toBytes 8 7 ++ toBytes 8 0) }

theorem test_w_walks_retention_and_scrubs :
    tlbFind (walkSt.clu 0).tlb 0 1 0x12345 = none ∧ walkSt.walk 0 0x12345 (walkSt.dc 0 1).ptb.toNat 3 = some (7, 1) ∧
    walkSt.walk 0 0x212345 (walkSt.dc 0 1).ptb.toNat 3 = none ∧
    (let iv := max 10 (fld s0.mgt.retiv 31 0) * 1100; s0.clk.wall < (s0.core 0).used + iv ∧ ∃ s : State, (s.core 0).used + iv ≤ s.clk.wall ∧
      (s.clu 0).used + iv ≤ s.clk.wall ∧ s.mgt = s0.mgt) ∧ (State.reset.countErr 2).ownersOf 0 = [] :=
  ⟨rfl, rfl, rfl, ⟨by decide, { s0 with clk := { s0.clk with wall := 100000000000000 } }, by decide, by decide, rfl⟩, rfl⟩

/-! The step, the issue and its end. -/

/-- A state that is about to issue the bundle of one instruction from reset. -/
def st (i : Instr) : State := State.reset.placed (encode i)

/-- What AboutToIssue asks, for a context that a latch-free state holds, as one Boolean. -/
def aboutB (s : State) : Bool :=
  decide (s.agenda = []) && s.issuing && decide (s.nextCore = some 0) && decide ((s.core 0).holder = some 0) && decide ((s.ctx 0).lats = []) &&
  !(s.ctx 0).sys.chk.getLsbD 0 && (s.ctx 0).dbg.past

theorem about_to_issue {s : State} (h : aboutB s = true) : AboutToIssue s 0 := by
  simp only [aboutB, Bool.and_eq_true, Bool.not_eq_true', decide_eq_true_eq] at h
  obtain ⟨⟨⟨⟨⟨⟨a, b⟩, c⟩, d⟩, e⟩, f⟩, g⟩ := h
  exact ⟨fun x l h => (by rw [a] at h; cases h), b, c, d, fun l h => (by rw [e] at h; cases h), f, Or.inl g⟩

/-- The bundle that the step fetches, with the state after the fetch. -/
def fetched (s : State) : Option (Bundle × State) :=
  match (onTurn s 0).fetchHeader 0 ((onTurn s 0).ctx 0).pc with
  | (.ok x, s0) =>
    match s0.fetchBytes 0 ((onTurn s 0).ctx 0).pc x.size with
    | (.ok bs, s1) => (decodeBundle bs).map fun b => (b, s1)
    | _ => none
  | _ => none

theorem fetched_spec {s s1 : State} {b : Bundle} (h : fetched s = some (b, s1)) : Fetches (onTurn s 0) 0 b s1 := by
  unfold fetched at h
  split at h
  · rename_i x s0 e0
    split at h
    · rename_i bs s2 e1
      cases hd : decodeBundle bs with
      | none => rw [hd] at h; cases h
      | some b' =>
        rw [hd] at h; cases h
        exact ⟨x, s0, bs, e0, e1, hd⟩
    · cases h
  · cases h

/-- What the clause of an issued operation asks. -/
def opB (s : State) (op : Instr) : Bool :=
  match fetched s with
  | none => false
  | some (b, s1) =>
    match b.ops with
    | [(sl, .ok o)] =>
      decide (o = op) && b.mark.isNone && (s1.slotErr 0 b.ops).isNone && decide (b.single = some op) && decide (sl ≠ .b) &&
      decide ((planOf (s1.ctx 0) (b.hd.hold == 1) [(sl, op)]).ops = [op]) &&
      (match exec op (issueOf s1 0 b sl op) with | .next t => t.iss.isSome | _ => false)
    | _ => false

/-- What the clause of a bundle without an operation asks. -/
def foldB (s : State) (op : Instr) : Bool :=
  match fetched s with
  | none => false
  | some (b, s1) =>
    b.ops.isEmpty && b.mark.isNone && decide (b.single = some op) &&
    (match exec op { s1 with iss := some (s1.beginIss 0 b) } with
     | .next t => (match t.iss with | some j => j.stop.isNone | none => false)
     | _ => false)

/-- The instruction of the step tests: it adds 3 to g6. -/
def addI : Instr := .add g0 (.g 7) (.g 6) (.imm 19)

theorem op_step {s : State} {op : Instr} (h : opB s op = true) :
    ∃ b s1 sl t j, Fetches (onTurn s 0) 0 b s1 ∧ b.mark = none ∧ s1.slotErr 0 b.ops = none ∧ b.ops = [(sl, .ok op)] ∧ b.single = some op ∧
      sl ≠ .b ∧ (planOf (s1.ctx 0) (b.hd.hold == 1) [(sl, op)]).ops = [op] ∧ exec op (issueOf s1 0 b sl op) = .next t ∧ t.iss = some j := by
  unfold opB at h
  split at h
  · cases h
  · rename_i b s1 hf
    split at h
    · rename_i sl o ho
      simp only [Bool.and_eq_true, decide_eq_true_eq, Option.isNone_iff_eq_none] at h
      obtain ⟨⟨⟨⟨⟨⟨rfl, a⟩, c⟩, d⟩, e⟩, f⟩, k⟩ := h
      split at k
      · rename_i t ht
        obtain ⟨j, hj⟩ := Option.isSome_iff_exists.mp k
        exact ⟨b, s1, sl, t, j, fetched_spec hf, a, ho ▸ c, ho, d, e, f, ht, hj⟩
      · cases k
    · cases h

theorem fold_step {s : State} {op : Instr} (h : foldB s op = true) :
    ∃ b s1 t j, Fetches (onTurn s 0) 0 b s1 ∧ b.mark = none ∧ s1.slotErr 0 b.ops = none ∧ b.ops = [] ∧ b.single = some op ∧
      exec op { s1 with iss := some (s1.beginIss 0 b) } = .next t ∧ t.iss = some j ∧ j.stop = none := by
  unfold foldB at h
  split at h
  · cases h
  · rename_i b s1 hf
    simp only [Bool.and_eq_true, decide_eq_true_eq, Option.isNone_iff_eq_none, List.isEmpty_iff] at h
    obtain ⟨⟨⟨a, c⟩, d⟩, k⟩ := h
    split at k
    · rename_i t ht
      split at k
      · rename_i j hj
        exact ⟨b, s1, t, j, fetched_spec hf, c, a ▸ rfl, a, d, ht, hj, Option.isNone_iff_eq_none.mp k⟩
      · cases k
    · cases k

theorem test_w_step : AboutToIssue (st addI) 0 ∧
    ∃ b s1 sl t j, Fetches (onTurn (st addI) 0) 0 b s1 ∧ b.mark = none ∧ s1.slotErr 0 b.ops = none ∧ b.ops = [(sl, .ok addI)] ∧
      b.single = some addI ∧ sl ≠ .b ∧ (planOf (s1.ctx 0) (b.hd.hold == 1) [(sl, addI)]).ops = [addI] ∧
      exec addI (issueOf s1 0 b sl addI) = .next t ∧ t.iss = some j :=
  ⟨about_to_issue (by decide +kernel), op_step (by decide +kernel)⟩

theorem test_w_step_fold : AboutToIssue (st (.idle 0 2)) 0 ∧
    ∃ b s1 t j, Fetches (onTurn (st (.idle 0 2)) 0) 0 b s1 ∧ b.mark = none ∧ s1.slotErr 0 b.ops = none ∧ b.ops = [] ∧
      b.single = some (.idle 0 2) ∧ exec (.idle 0 2) { s1 with iss := some (s1.beginIss 0 b) } = .next t ∧ t.iss = some j ∧ j.stop = none :=
  ⟨about_to_issue (by decide +kernel), fold_step (by decide +kernel)⟩

/-- A header whose reserved bits are set, and a bundle whose one slot word has an unassigned opcode. -/
theorem test_w_step_traps :
    (let s := State.reset.placed [0, 0xFF, 0, 0]
     AboutToIssue s 0 ∧ (match (onTurn s 0).fetchBundle 0 ((onTurn s 0).ctx 0).pc with | (.error e, _) => e.1 == 1 | _ => false) = true) ∧
    (let s := State.reset.placed [2, 0, 0, 0, 0, 0, 0, 0, 0, 0, 0, 0xFF]
     AboutToIssue s 0 ∧ (match (onTurn s 0).fetchBundle 0 ((onTurn s 0).ctx 0).pc with
       | (.ok b, s1) => (s1.slotErr 0 b.ops).map (fun x => (x.1, x.2.cause)) == some (.s, 2)
       | _ => false) = true) := by
  refine ⟨⟨about_to_issue (by decide +kernel), ?_⟩, about_to_issue (by decide +kernel), ?_⟩ <;> decide +kernel

theorem test_w_guards_and_frames :
    (∃ (s : State) (g : Guard), slotInfo (.add g (.g 7) (.g 6) (.imm 3)) = some (.s, g, true) ∧ s.iss = some ti ∧ (s.ctx ti.h).guard g = false) ∧
    State.reset.iss = none ∧ endsBundle addI = false ∧ ti.stop = none ∧ ∃ t, exec addI s0 = .next t ∧ Unstopped t :=
  ⟨⟨s0, { p := 0, n := 1 }, rfl, rfl, rfl⟩, rfl, rfl, rfl, _, rfl, _, rfl, rfl⟩

/-- A context whose newest level ends at 0x1000 with two iterations left, another with one, and a third elsewhere. -/
def loopCtx : Ctx :=
  { tc with loops := [(0, { Loop.zero with lc := 2, ls := 0x800, le := 0x1000, ord := 3 }),
                      (1, { Loop.zero with lc := 1, ls := 0x400, le := 0x1000, lk := 2, rot := true, ord := 2 }), (2, { Loop.zero with lc := 5, le := 0x2000, ord := 1 })] }

theorem test_w_loops :
    (loopCtx.loop 0).held = [] ∧ 2 ≤ (loopCtx.loop 0).lc.toNat ∧ (loopCtx.loop 0).le = 0x1000 ∧ (loopCtx.loop 1).held = [] ∧ (loopCtx.loop 1).lc = 1 ∧
    (loopCtx.loop 1).le = 0x1000 ∧ (loopCtx.loop 2).held = [] ∧ (loopCtx.loop 2).le ≠ 0x1000 ∧
    ∃ i : Iss, i.last = true ∧ i.tgt = .seq ∧ ∃ j : Iss, j.last = false ∧ ∃ k : Iss, k.last = true ∧ k.tgt = .addr 0x40 :=
  ⟨rfl, by decide, rfl, rfl, rfl, rfl, rfl, by decide, ti, rfl, rfl, { ti with last := false }, rfl, { ti with tgt := .addr 0x40 }, rfl, rfl⟩

/-- A context that runs an addition from its sticky record. -/
def stickCtx : Ctx := { tc with prog := { tc.prog with stick := [(1, some { op := addI, crd := [], mesh := none, w := 0, s := 0 })] } }

theorem test_w_folds_and_markers :
    s0.iss = some ti ∧ (s0.ctx ti.h).prog.after = none ∧ ti.after = none ∧ ti.yield = false ∧ (s0.ctx ti.h).prog.stick = [] ∧ ti.stop = none ∧
    ti.gone = false ∧ (s0.ctx ti.h).sys.chk.getLsbD 0 = false ∧ (∃ t, (s0.ctx ti.h).task = some t) ∧
    (∃ (rec : Stick) (y : Slot) (t : State) (j : Iss), (stickCtx.prog.stick = [(1, some rec)]) ∧ y.num = 1 ∧ slotInfo rec.op = some (y, g0, true) ∧
      (let rec' := { rec with s := rec.s + 1 }
       let i' := { ti with re := [(1, rec')], later := [] }
       let s' := ((ts stickCtx).traceIssue 0 ti.addr).modCtx 0 fun c => { c with prog := { c.prog with stick := [(1, some rec')] } }
       exec rec.op { s' with iss := some i' } = .next t) ∧ t.iss = some j ∧ j.stop = none) :=
  ⟨rfl, rfl, rfl, rfl, rfl, rfl, rfl, rfl, ⟨_, rfl⟩, _, .s, _, _, rfl, rfl, rfl, rfl, rfl, rfl⟩

theorem test_w_traps :
    tc.breakArmed = false ∧ tc.trp.tvec.getLsbD 0 = false ∧
    (let c := { tc with trp := { tc.trp with tvec := 0x801 } }; c.trp.tcs.getLsbD 31 = false ∧ c.trp.tvec.getLsbD 0 = true ∧ c.breakArmed = false) ∧
    (let c := { tc with trp := { tc.trp with tcs := atBit 1 31 } }; c.trp.tcs.getLsbD 31 = true) :=
  ⟨rfl, rfl, ⟨rfl, rfl, rfl⟩, rfl⟩

/-- The canonical form holds in a state whose next step answers a next state. -/
theorem test_w_storage_steps : (st addI).mem.wf = true ∧ (match step (st addI) with | .next t => t.mem.wf | _ => false) = true := by
  constructor <;> decide +kernel

/-! The V, X and H slots. -/

/-- No mask and no step. -/
def vm : VMask := { mneg := 0, mv := 0, men := 0, st := 0 }

theorem test_w_vector_lanewise :
    (∃ dst x ls s1, LaneCase s0 s1 ti (.w 3) [.w 1, .w 2] vm dst x ls ∧ dst.fmt = 1 ∧ x.rows = 2 ∧
      (s1.core 0).vfree ≤ s1.clk.wall ∧ LatchFree s1 0 ∧ ∀ f, ∃ ws, rowsWrs 0 (.w 3) dst x.rows x.cols (lanesOf x dst f) Wr.vbAt Wr.vb (fun _ => []) s1 = .ok (ws, s1)) ∧
    (∃ dst x ls s1, LaneCase s0 s1 ti (.w 3) [.w 1] vm dst x ls ∧ dst.fmt = 1 ∧ x.rows = 2) ∧
    (∃ dst x ls s1, LaneCase s0 s1 ti (.w 3) [.w 1, .w 2, .w 3] vm dst x ls ∧ fmtFloat dst.fmt = true ∧ x.rows = 2) ∧
    (∃ dst x ls s1, LaneCase s0 s1 ti (.w 6) [.w 6, .w 6] vm dst x ls ∧ fmtInteger dst.fmt = true) := by
  exact ⟨⟨_, _, _, _, ⟨rfl, rfl, ⟨_, rfl, List.all_eq_true.mp rfl⟩, rfl, rfl, rfl⟩, rfl, rfl, by decide, latch_free rfl, fun f => ⟨_, rfl⟩⟩,
    ⟨_, _, _, _, ⟨rfl, rfl, ⟨_, rfl, List.all_eq_true.mp rfl⟩, rfl, rfl, rfl⟩, rfl, rfl⟩,
    ⟨_, _, _, _, ⟨rfl, rfl, ⟨_, rfl, List.all_eq_true.mp rfl⟩, rfl, rfl, rfl⟩, rfl, rfl⟩,
    _, _, _, _, ⟨rfl, rfl, ⟨_, rfl, List.all_eq_true.mp rfl⟩, rfl, rfl, rfl⟩, rfl⟩

theorem test_w_lanewise_tables (rm : BitVec 2) :
    (∀ op ∈ vectorTwo rm, op.2.1 1 = true ∨ op.2.1 9 = true) ∧ ∀ op ∈ vectorOne rm, op.2.1 1 = true := by
  constructor <;> intro op h <;> simp only [vectorTwo, vectorOne, List.mem_cons, List.not_mem_nil, or_false] at h
  · rcases h with rfl | rfl | rfl | rfl | rfl | rfl | rfl | rfl | rfl | rfl | rfl | rfl <;> first | exact Or.inl rfl | exact Or.inr rfl
  · rcases h with rfl | rfl | rfl | rfl | rfl | rfl | rfl | rfl <;> rfl

theorem test_w_result_rows :
    mwf 0 tc.f.rs = true ∧
    (∃ v, viewM 0 .v 3 false 0 s0 = .ok (v, s0) ∧ fmtRaw v.fmt = true ∧ 1 ≤ v.base ∧ v.base + v.stride * 1 + v.w ≤ 256 ∧
      [Lane.val 3, Lane.keep].length ≤ v.cols) ∧
    (∃ (d : Dst) (v : View), dstM 0 .v (.w 3) false s0 = .ok (d, s0) ∧ d.view = some v) :=
  ⟨rfl, ⟨_, rfl, rfl, by decide, by decide, by decide⟩, _, _, rfl, rfl⟩

/-- A context with views of one row of 64 columns: w8 and w9 of FP32, w10 and w11 of 8-bit narrow, which the grant matches. -/
def tcv : Ctx :=
  { tc with
    f := { tc.f with vd := [(8, vw 1 1 64 4 32), (9, vw 1 1 64 4 40), (10, vw 16 1 64 1 48), (11, vw 16 1 64 1 49)] },
    sys := { tc.sys with sh := atBit 1 10 ||| atBit 64 0 } }

theorem test_w_vector_conversions :
    (∃ dst q x y s1, dstM 0 .v (.w 3) false s0 = .ok (dst, s0) ∧ metaM 0 .v (.w 1) false 1 s0 = .ok (q, s0) ∧ gridM 0 vm dst.rows dst.cols s0 = .ok (x, s0) ∧
      (q.strict = true → x.cols ≤ q.cols) ∧ fmtTagged dst.fmt = false ∧ dstFits 0 (.w 3) x.cols s0 = .ok ((), s0) ∧ cselOk dst.fmt 0 = true ∧
      itemsM 0 [.w 1] s0 = .ok ((), s0) ∧ rowSrc 0 .v (.w 1) false 1 (q.fmt.getD 0) s0 = .ok (y, s1) ∧ cvtOk (q.fmt.getD 0) dst.fmt = true ∧
      tagsOk y x.rows x.cols = true) ∧
    (∃ dst q x y s1 v, dstM 0 .v (.w 10) false (ts tcv) = .ok (dst, ts tcv) ∧ metaM 0 .v (.w 8) false 1 (ts tcv) = .ok (q, ts tcv) ∧
      gridM 0 vm dst.rows dst.cols (ts tcv) = .ok (x, ts tcv) ∧
      (q.strict = true → x.cols ≤ q.cols) ∧ fmtTagged dst.fmt = true ∧ dst.view = some v ∧ dstFits 0 (.w 10) x.cols (ts tcv) = .ok ((), ts tcv) ∧
      cselOk dst.fmt 0 = true ∧ itemsM 0 [.w 8] (ts tcv) = .ok ((), ts tcv) ∧ rowSrc 0 .v (.w 8) false 1 (q.fmt.getD 0) (ts tcv) = .ok (y, s1) ∧
      cvtOk (q.fmt.getD 0) dst.fmt = true ∧ tagsOk y x.rows x.cols = true ∧ fmtFloat (q.fmt.getD 0) = true ∧ x.rows ≠ 0) :=
  ⟨⟨_, _, _, _, _, rfl, rfl, rfl, fun _ => Nat.le_of_ble_eq_true rfl, rfl, rfl, rfl, rfl, rfl, rfl, rfl⟩,
    _, _, _, _, _, _, rfl, rfl, rfl, fun _ => Nat.le_of_ble_eq_true rfl, rfl, rfl, rfl, rfl, rfl, rfl, rfl, rfl, rfl, by decide⟩

theorem test_w_vector_reductions :
    ∃ dst q x y s1, dstM 0 .v (.g 7) false s0 = .ok (dst, s0) ∧ metaM 0 .v (.w 1) false 1 s0 = .ok (q, s0) ∧ gridM 0 vm dst.rows q.cols s0 = .ok (x, s0) ∧
      dstFits 0 (.g 7) 1 s0 = .ok ((), s0) ∧ fmtRaw (q.fmt.getD dst.fmt) = true ∧ itemsM 0 [.w 1] s0 = .ok ((), s0) ∧
      rowSrc 0 .v (.w 1) false 1 (q.fmt.getD dst.fmt) s0 = .ok (y, s1) ∧ x.rows ≠ 0 ∧ (s1.core 0).vfree ≤ s1.clk.wall ∧ LatchFree s1 0 ∧
      ∀ f : Nat → Nat, ∃ ws, rowsWrs 0 (.g 7) { dst with fmt := q.fmt.getD dst.fmt } x.rows 1 (fun r => if r < x.rows then [.val (f r)] else []) Wr.vbAt Wr.vb (fun _ => []) s1 = .ok (ws, s1) :=
  ⟨_, _, _, _, _, rfl, rfl, rfl, rfl, rfl, rfl, rfl, by decide, by decide, latch_free rfl, fun f => ⟨_, rfl⟩⟩

theorem test_w_vector_compares :
    (∃ dst q p x y z s1 s2, dstM 0 .v (.w 3) false s0 = .ok (dst, s0) ∧ metaM 0 .v (.w 1) false 1 s0 = .ok (q, s0) ∧
      metaM 0 .v (.w 2) false 2 s0 = .ok (p, s0) ∧ gridM 0 vm dst.rows dst.cols s0 = .ok (x, s0) ∧
      q.fits (q.fmt.getD (p.fmt.getD dst.fmt)) x.cols = true ∧ p.fits (q.fmt.getD (p.fmt.getD dst.fmt)) x.cols = true ∧ fmtRaw dst.fmt = true ∧
      fmtBits dst.fmt = fmtBits (q.fmt.getD (p.fmt.getD dst.fmt)) ∧ fmtRaw (q.fmt.getD (p.fmt.getD dst.fmt)) = true ∧
      dstFits 0 (.w 3) x.cols s0 = .ok ((), s0) ∧ itemsM 0 [.w 1, .w 2] s0 = .ok ((), s0) ∧
      rowSrc 0 .v (.w 1) false 1 (q.fmt.getD (p.fmt.getD dst.fmt)) s0 = .ok (y, s1) ∧
      lanesM 0 .v (.w 2) false 2 (q.fmt.getD (p.fmt.getD dst.fmt)) s1 = .ok (z, s2)) ∧
    (∃ dst v ms x y z s1, dstM 0 .v (.w 3) false s0 = .ok (dst, s0) ∧ viewM 0 .v 1 false 1 s0 = .ok (v, s0) ∧ metasM 0 .v 0 2 [.w 1, .w 2] s0 = .ok (ms, s0) ∧
      gridM 0 vm dst.rows dst.cols s0 = .ok (x, s0) ∧ fmtRaw v.fmt = true ∧ (∀ q ∈ ms, q.fits dst.fmt x.cols = true) ∧
      dstFits 0 (.w 3) x.cols s0 = .ok ((), s0) ∧ fmtRaw dst.fmt = true ∧ itemsM 0 [.w 1, .w 2] s0 = .ok ((), s0) ∧
      srcsM 0 .v 0 dst.fmt 2 [.w 1, .w 2] s0 = .ok ([y, z], s1)) := by
  exact ⟨⟨_, _, _, _, _, _, _, _, rfl, rfl, rfl, rfl, rfl, rfl, rfl, rfl, rfl, rfl, rfl, rfl, rfl⟩,
    _, _, _, _, _, _, _, rfl, rfl, rfl, rfl, rfl, List.all_eq_true.mp rfl, rfl, rfl, rfl, rfl⟩

/-- The context with the words of w5 as 0 and 1, for tests that differ. -/
def mixCtx : Ctx := { tc with f := { tc.f with rs := rsPut tc.f.rs (24 * 64) (toBytes 8 1) } }

theorem test_w_vector_tests :
    (∃ q x y s1, metaM 0 .v (.w 5) false 1 s0 = .ok (q, s0) ∧ gridM 0 vm q.rows q.cols s0 = .ok (x, s0) ∧ itemsM 0 [.w 5] s0 = .ok ((), s0) ∧
      rowSrc 0 .v (.w 5) false 1 (q.fmt.getD 0) s0 = .ok (y, s1) ∧ reserveCq 0 s1 = .ok ((), s1) ∧ (s1.core 0).vfree ≤ s1.clk.wall ∧ LatchFree s1 0 ∧
      x.rows = 1 ∧ x.cols = 8 ∧ ∀ k < 8, y.at 0 k = 0) ∧
    (∃ q x y s1, metaM 0 .v (.w 5) false 1 (ts mixCtx) = .ok (q, ts mixCtx) ∧ gridM 0 vm q.rows q.cols (ts mixCtx) = .ok (x, ts mixCtx) ∧
      itemsM 0 [.w 5] (ts mixCtx) = .ok ((), ts mixCtx) ∧ rowSrc 0 .v (.w 5) false 1 (q.fmt.getD 0) (ts mixCtx) = .ok (y, s1) ∧
      reserveCq 0 s1 = .ok ((), s1) ∧ x.en 0 0 = true ∧ x.en 0 1 = true ∧ y.at 0 0 ≠ 0 ∧ y.at 0 1 = 0) := by
  refine ⟨⟨_, _, _, _, rfl, rfl, rfl, rfl, rfl, by decide, latch_free rfl, rfl, rfl, ?_⟩, _, _, _, _, rfl, rfl, rfl, rfl, rfl, rfl, rfl, ?_, ?_⟩ <;> decide +kernel

theorem test_w_vector_moves :
    (∃ dst q x y s1, dstM 0 .v (.w 3) false s0 = .ok (dst, s0) ∧ metaM 0 .v (.w 1) false 1 s0 = .ok (q, s0) ∧ gridM 0 vm dst.rows dst.cols s0 = .ok (x, s0) ∧
      dstFits 0 (.w 3) x.cols s0 = .ok ((), s0) ∧ itemsM 0 [.w 1] s0 = .ok ((), s0) ∧ q.fits dst.fmt x.cols = true ∧ fmtTagged dst.fmt = false ∧
      lanesM 0 .v (.w 1) false 1 dst.fmt s0 = .ok (y, s1) ∧
      ∃ n s1', rdScalar 0 (.g 5) 2 s0 = .ok (n, s1') ∧ q.fmt = some dst.fmt ∧ n.toNat < q.cols ∧ fmtRaw dst.fmt = true ∧
        dstFits 0 (.w 3) x.cols s1' = .ok ((), s1') ∧ itemsM 0 [.w 1] s1' = .ok ((), s1') ∧
        ∃ z s2, rowSrc 0 .v (.w 1) false 1 dst.fmt s1' = .ok (z, s2)) ∧
    (∃ dst q x y v, dstM 0 .v (.w 10) false (ts tcv) = .ok (dst, ts tcv) ∧ metaM 0 .v (.w 11) false 1 (ts tcv) = .ok (q, ts tcv) ∧
      gridM 0 vm dst.rows dst.cols (ts tcv) = .ok (x, ts tcv) ∧ dstFits 0 (.w 10) x.cols (ts tcv) = .ok ((), ts tcv) ∧
      q.fits dst.fmt x.cols = true ∧ fmtTagged dst.fmt = true ∧ dst.view = some v ∧ x.cols % fmtPer dst.fmt = 0 ∧
      grantCols ((ts tcv).ctx 0) % fmtPer dst.fmt = 0 ∧ rowSrc 0 .v (.w 11) false 1 dst.fmt (ts tcv) = .ok (y, ts tcv) ∧ x.rows ≠ 0 ∧ dst.fmt = v.fmt ∧
      y.inside 0 (0 * fmtPer v.fmt) = true ∧ x.en 0 0 = true) ∧
    (∃ dst x y z s1 s2, dstM 0 .v (.w 3) false s0 = .ok (dst, s0) ∧ gridM 0 vm dst.rows dst.cols s0 = .ok (x, s0) ∧ fmtRaw dst.fmt = true ∧
      lanesM 0 .v (.g 5) false 1 dst.fmt s0 = .ok (y, s1) ∧ lanesM 0 .v (.imm 17) false 2 dst.fmt s1 = .ok (z, s2)) :=
  ⟨⟨_, _, _, _, _, rfl, rfl, rfl, rfl, rfl, rfl, rfl, rfl, _, _, rfl, rfl, by decide, rfl, rfl, rfl, _, _, rfl⟩,
    ⟨_, _, _, _, _, rfl, rfl, rfl, rfl, rfl, rfl, rfl, rfl, rfl, rfl, by decide, rfl, rfl, rfl⟩, _, _, _, _, _, _, rfl, rfl, rfl, rfl, rfl⟩

/-- A context with an int32 destination w12 and the FP32 source w13, for `vclass`. -/
def clsCtx : Ctx := { tc with f := { tc.f with vd := [(12, vw 6 1 16 1 32), (13, vw 1 1 16 1 33)] } }

theorem test_w_vector_class :
    ∃ dst q x y s1, dstM 0 .v (.w 12) false (ts clsCtx) = .ok (dst, ts clsCtx) ∧ metaM 0 .v (.w 13) false 1 (ts clsCtx) = .ok (q, ts clsCtx) ∧
      gridM 0 vm dst.rows dst.cols (ts clsCtx) = .ok (x, ts clsCtx) ∧ dstFits 0 (.w 12) x.cols (ts clsCtx) = .ok ((), ts clsCtx) ∧
      itemsM 0 [.w 13] (ts clsCtx) = .ok ((), ts clsCtx) ∧ (q.strict = true → x.cols ≤ q.cols) ∧ fmtInteger dst.fmt = true ∧
      fmtBits dst.fmt = fmtBits (q.fmt.getD 1) ∧ fmtFloat (q.fmt.getD 1) = true ∧ rowSrc 0 .v (.w 13) false 1 (q.fmt.getD 1) (ts clsCtx) = .ok (y, s1) :=
  ⟨_, _, _, _, _, rfl, rfl, rfl, rfl, rfl, fun _ => Nat.le_of_ble_eq_true rfl, rfl, rfl, rfl, rfl⟩

/-- The pattern that leaves every lane of eight bytes where it is. -/
def stayPat : Pattern := { lsz := 3, ent := (List.range 32).map some }

/-- A context that holds it. -/
def xctx : Ctx := { tc with f := { tc.f with xp := [(2, some stayPat)] } }

theorem test_w_crossbar :
    ∃ dst x, dstM 0 .x (.w 3) false (ts xctx) = .ok (dst, ts xctx) ∧ gridM 0 vm dst.rows dst.cols (ts xctx) = .ok (x, ts xctx) ∧
      dstFits 0 (.w 3) x.cols (ts xctx) = .ok ((), ts xctx) ∧ fmtRaw dst.fmt = true ∧ x.rows ≠ 0 ∧
      (∃ q p y z s1 s2, metaM 0 .x (.w 1) false 1 (ts xctx) = .ok (q, ts xctx) ∧ metaM 0 .x (.w 2) false 2 (ts xctx) = .ok (p, ts xctx) ∧
        q.fits dst.fmt x.cols = true ∧ p.fits dst.fmt x.cols = true ∧ itemsM 0 [.w 1, .w 2] (ts xctx) = .ok ((), ts xctx) ∧
        rowSrc 0 .x (.w 1) false 1 dst.fmt (ts xctx) = .ok (y, s1) ∧ rowSrc 0 .x (.w 2) false 2 dst.fmt s1 = .ok (z, s2) ∧
        (s2.core 0).xfree ≤ s2.clk.wall ∧ LatchFree s2 0 ∧
        ∀ f : Nat → Nat → Nat, ∃ ws, rowsWrs 0 (.w 3) dst x.rows x.cols (lanesOf x dst fun r k => (f r k, 0)) Wr.xbAt Wr.xb (fun r => [.xb r]) s1 = .ok (ws, s1)) ∧
      (∃ v, viewM 0 .x 1 false 2 (ts xctx) = .ok (v, ts xctx) ∧ fmtRaw v.fmt = true) ∧
      (∃ q n s1 y s2, metaM 0 .x (.w 1) false 1 (ts xctx) = .ok (q, ts xctx) ∧ rdScalar 0 (.imm 17) 2 (ts xctx) = .ok (n, s1) ∧
        metaM 0 .x (.w 1) false 1 s1 = .ok (q, s1) ∧ n.toNat < q.rows ∧ itemsM 0 [.w 1] s1 = .ok ((), s1) ∧
        rowSrc 0 .x (.w 1) false 1 dst.fmt s1 = .ok (y, s2)) ∧
      (∃ w s1 q y s2, rdScalar 0 (.g 5) 1 (ts xctx) = .ok (w, s1) ∧ metaM 0 .x (.w 1) false 2 s1 = .ok (q, s1) ∧ q.fits dst.fmt x.cols = true ∧
        dstFits 0 (.w 3) x.cols s1 = .ok ((), s1) ∧ itemsM 0 [.w 1] s1 = .ok ((), s1) ∧ rowSrc 0 .x (.w 1) false 2 dst.fmt s1 = .ok (y, s2)) ∧
      mget none ((ts xctx).ctx 0).f.xp 2 = some stayPat :=
  ⟨_, _, rfl, rfl, rfl, rfl, by decide, ⟨_, _, _, _, _, _, rfl, rfl, rfl, rfl, rfl, rfl, rfl, by decide, latch_free rfl, fun f => ⟨_, rfl⟩⟩,
    ⟨_, rfl, rfl⟩, ⟨_, _, _, _, _, rfl, rfl, rfl, by decide, rfl, rfl⟩, ⟨_, _, _, _, _, rfl, rfl, rfl, rfl, rfl, rfl⟩, rfl⟩

theorem test_w_pattern_moves :
    stayPat.lsz ≤ 3 ∧ (List.replicate 256 7#8).length = 256 ∧ stayPat.ent.length * 2 ^ stayPat.lsz = 256 ∧
    (∀ t, some t ∈ stayPat.ent → t < stayPat.ent.length) ∧
    (∀ a b t : Nat, stayPat.ent[a]? = some (some t) → stayPat.ent[b]? = some (some t) → a = b) := by
  refine ⟨by decide, by decide, by decide, fun t h => by simpa [stayPat] using h, fun a b t h k => ?_⟩
  simp only [stayPat, List.getElem?_map, Option.map_eq_some_iff, Option.some.injEq, List.getElem?_eq_some_iff, List.getElem_range] at h k
  obtain ⟨_, ⟨_, rfl⟩, rfl⟩ := h
  obtain ⟨_, ⟨_, rfl⟩, e⟩ := k
  exact e.symm

/-- A context with the tiles of a 16 by 16 product of FP64 in w1 to w3, those of a 32 by 32 product of 8-bit narrow in w4 to w6, indexes of 16
bits in w7, and a box of FP64 rows. -/
def tileCtx : Ctx :=
  { tc with
    f := { tc.f with vd := [(1, vw 0 16 4 1 8), (2, vw 0 4 16 2 24), (3, vw 0 16 16 2 32), (4, vw 16 32 64 1 64), (5, vw 16 32 64 1 96),
                            (6, vw 1 32 32 2 128), (7, vw 9 1 32 1 200)], tag := (List.range 64).map fun k => (64 + k, mkTag 127 0x10) },
    bx := [(0, bxd 0 0 2 0x4000 4 32)] }

theorem test_w_hammer :
    (∃ va vb vc, viewM 0 .h 1 false 0 (ts tileCtx) = .ok (va, ts tileCtx) ∧ va.isTile 16 4 0 = true ∧ viewM 0 .h 2 false 1 (ts tileCtx) = .ok (vb, ts tileCtx) ∧
      vb.isTile 4 16 0 = true ∧ viewM 0 .h 3 false 2 (ts tileCtx) = .ok (vc, ts tileCtx) ∧ vc.isTile 16 16 0 = true ∧
      ((ts tileCtx).ctx 0).accumOk vc = true ∧ (ts tileCtx).hammerFree 0 8 = true ∧ ((ts tileCtx).ctx 0).wc.tl < 63 ∧ LatchFree (ts tileCtx) 0 ∧
      mkeysFrom none (ts tileCtx).ham = true ∧ ((ts tileCtx).ctx 0).accums = []) ∧
    (∃ va vb vc, viewM 0 .h 4 false 0 (ts tileCtx) = .ok (va, ts tileCtx) ∧ va.isTile 32 64 16 = true ∧ viewM 0 .h 5 false 1 (ts tileCtx) = .ok (vb, ts tileCtx) ∧
      vb.isTile 32 64 16 = true ∧ viewM 0 .h 6 false 2 (ts tileCtx) = .ok (vc, ts tileCtx) ∧ vc.isTile 32 32 1 = true ∧
      ((ts tileCtx).ctx 0).accumOk vc = true ∧ (ts tileCtx).hammerFree 0 16 = true ∧
      narrowTagsOk 16 ((List.range 32).map (fun r => ((ts tileCtx).ctx 0).rtag (va.base + va.stride * r)) ++
        (List.range 32).map (fun r => ((ts tileCtx).ctx 0).rtag (vb.base + vb.stride * r))) = true) ∧
    (∃ w t, flagsOk { rsc := 0, rel := 0, asc := 0, acq := 0 } = true ∧ viewM 0 .h 7 false 0 (ts tileCtx) = .ok (w, ts tileCtx) ∧ w.fmt = 9 ∧
      gatherDims (((ts tileCtx).ctx 0).box 0).fmt = some (16, 4) ∧ (((ts tileCtx).ctx 0).box 0).level ≤ 1 ∧ 16 ≤ w.cols ∧
      ((ts tileCtx).ctx 0).task = some t ∧ (∀ n < 16, ((ts tileCtx).ctx 0).elem w 0 n = 0) ∧
      boundsAll (ts tileCtx) ((ts tileCtx).ctx 0) (((ts tileCtx).ctx 0).box 0) { slot := 0, crd := [0, 0, 0, 0], mesh := none } 4 1 false = .ok ()) := by
  refine ⟨⟨_, _, _, rfl, rfl, rfl, rfl, rfl, rfl, rfl, rfl, by decide, latch_free rfl, rfl, rfl⟩,
    ⟨_, _, _, rfl, rfl, rfl, rfl, rfl, rfl, rfl, rfl, ?_⟩, _, _, rfl, rfl, rfl, rfl, by decide, by decide, rfl, ?_, rfl⟩ <;> decide +kernel

/-- R268, R278: a `vany` of KIND 3 decodes, and its KIND fails check 1. -/
theorem test_w_vector_kind :
    decodeSlot .v 0x2200592100001800#64 = .ok (.vanyUni ⟨0, 0⟩ (.w 1) { vm with st := 8 }) ∧
    decodeSlot .v 0x2200592100001000#64 = .ok (.vanyUni ⟨0, 0⟩ (.w 1) vm) ∧
    (8#4).getLsbD 3 = true ∧ vm.st.getLsbD 3 = false ∧
    ∃ q x, metaM 0 .v (.w 5) (flagAt 8 1) 1 s0 = .ok (q, s0) ∧ gridM 0 { vm with st := 8 } q.rows q.cols s0 = .ok (x, s0) :=
  ⟨rfl, rfl, rfl, rfl, _, _, rfl, rfl⟩

/-! The T slot. -/

/-- Four 16-bit fields as a word. -/
def q4 (a b c d : Nat) : Word := atBit a 0 ||| atBit b 16 ||| atBit c 32 ||| atBit d 48

/-- Device memory that holds an image of one task at 0x40000: the task's level, and an inout box of int64 and rank 2 in slot 2. -/
def imgMem (lvl : Nat) : Mem :=
  ((State.reset.mem.write (s0.hbmPlace 0 0x40010 0) (toBytes 8 (2 ^ 32 + 64))).write (s0.hbmPlace 0 0x40040 0) (toBytes 8 lvl)).write (s0.hbmPlace 0 0x40060 0)
    (toBytes 8 ((0x8000 + 2 * 2 ^ 11 + 2 ^ 9 + 7 * 2 ^ 4) * 2 ^ 32))

/-- A context of a level with a frame in w1, which a gang may step along dimension 1, and a box of its level in slot 0. -/
def callCtx (lvl step : Nat) : Ctx :=
  { tc with
    task := some { tk lvl with image := 0x40000, chan := [(0, 1)] },
    f := { tc.f with
      rs := rsPut tc.f.rs (8 * 64) ([atBit 1 16, 0, 0, q4 8 2 1 1, atBit 2 0 ||| atBit 2 8 ||| atBit step 18 ||| atBit (if step = 0 then 0 else 1) 34].flatMap fun w => toBytes 8 w.toNat),
      vd := [(1, vw 11 1 8 1 8)] },
    bx := [(0, bxd lvl 7 2 0x4000 8 4)] }

/-- The state in which it issues. -/
def callSt (lvl step : Nat) : State := { ts (callCtx lvl step) with mem := imgMem (lvl - 1) }

theorem not_converting {s : State} {h : Nat} (p : ∀ t, (s.ctx h).task = some t → (s.dc t.dev t.dctx).place = []) (b : Desc) : NotConverting s h b := by
  intro _ t ht
  unfold State.entry
  rw [p t ht]; exact (by decide : PlEnt.cip PlEnt.zero = false)

theorem ok_of {x : Except Bad Unit} (h : x.toBool = true) : x = .ok () := by cases x <;> first | rfl | cases h

theorem test_w_calls :
    (∃ t k w0 w1 sels, CallRuns (callSt 1 0) 0 t 1 1 1 k w0 w1 sels ∧ t.lvl = 1) ∧
    (∃ t k w0 w1 sels x s1, rdScalar 0 (.imm 18) 2 (callSt 1 2) = .ok (x, s1) ∧ 2 ≤ x.toNat ∧ x.toNat ≤ 64 ∧ CallRuns s1 0 t 1 2 x.toNat k w0 w1 sels ∧ t.lvl = 1) ∧
    (∃ t k w0 w1 sels, CallRuns (callSt 3 0) 0 t 1 3 1 k w0 w1 sels ∧ t.lvl = 3) ∧
    (∃ t k w0 w1 sels x s1, rdScalar 0 (.g 5) 2 (callSt 3 0) = .ok (x, s1) ∧ CallRuns s1 0 t 1 4 1 k w0 w1 sels ∧ t.lvl = 3) := by
  refine ⟨⟨_, 0, _, _, _, ⟨rfl, rfl, ?_, fun x _ _ => not_converting (fun t h => by cases h; rfl) _, by decide, Or.inl rfl, fun j h => absurd h (by omega), latch_free rfl⟩, rfl⟩,
    ⟨_, 0, _, _, _, _, _, rfl, by decide, by decide, ⟨rfl, rfl, ?_, fun x _ _ => not_converting (fun t h => by cases h; rfl) _, by decide, Or.inl rfl, fun j h => absurd h (by omega), latch_free rfl⟩, rfl⟩,
    ⟨_, 0, _, _, _, ⟨rfl, rfl, ?_, fun x _ _ => not_converting (fun t h => by cases h; rfl) _, by decide, Or.inl rfl, fun j h => absurd h (by omega), latch_free rfl⟩, rfl⟩,
    _, 0, _, _, _, _, _, rfl, ⟨rfl, rfl, ?_, fun x _ _ => not_converting (fun t h => by cases h; rfl) _, by decide, Or.inl rfl, fun j h => absurd h (by omega), latch_free rfl⟩, rfl⟩ <;>
    exact ok_of (by decide +kernel)

/-- A full call table. -/
def fullTable : SMap CallEnt := (List.range' 0 256).map fun k => (k, { CallEnt.zero with st := .run })

theorem mfind_range {α : Type} (e : α) (j : Nat) : ∀ n k, k ≤ j → j < k + n → mfind ((List.range' k n).map fun i => (i, e)) j = some e
  | 0, _, h, h' => absurd h' (by omega)
  | n + 1, k, h, h' => by
    simp only [List.range'_succ, List.map_cons, mfind]
    by_cases hk : k = j
    · rw [if_pos hk]
    · rw [if_neg hk, if_neg (by omega)]; exact mfind_range e j n (k + 1) (by omega) (by omega)

theorem test_w_full_call_table :
    let s := { callSt 1 0 with clus := [(0, { Cluster.zero with calls := fullTable })] }
    ∀ j < 256, ∃ e, mfind (s.clu (cluOf 0)).calls j = some e ∧ e.st ≠ .free := by
  intro s j h
  exact ⟨{ CallEnt.zero with st := .run }, mfind_range _ j 256 0 (Nat.zero_le j) (by omega), by decide⟩

/-- A state with one live call, of handle 256, and two records, of which the second names it; its status is `st`. -/
def joinSt (st : Nat) : State :=
  { ts { tc with q := { tc.q with eq := [9#128, BitVec.ofNat 128 (256 + st * 2 ^ 24)] } } with
    clus := [(0, { Cluster.zero with calls := [(0, { CallEnt.zero with st := .done, gen := 1 })] })] }

theorem test_w_joins :
    (∃ w s1 dst, rdScalar 0 (.g 9) 1 { joinSt 0 with hw := [(0, { ((joinSt 0).ctx 0) with f := { tc.f with rs := rsWords 9 [256] [] } })] } = .ok (w, s1) ∧
      recDst 0 .t (.g 7) s1 = .ok (dst, s1) ∧ s1.handleLive 0 w = true ∧ (s1.ctx 0).q.eq = [9#128] ++ 256#128 :: [] ∧ recNames w 256#128 = true ∧
      recNames w 9#128 = false ∧ LatchFree s1 0 ∧ recFault 256#128 = none ∧ recFault (BitVec.ofNat 128 (256 + 3 * 2 ^ 24)) = some 0x0C) ∧
    (∃ w s1, rdScalar 0 (.g 9) 1 (joinSt 0) = .ok (w, s1) ∧ s1.handleLive 0 w = false) ∧
    (let s : State := { joinSt 0 with hw := [(0, { tc with q := { tc.q with eq := [] }, f := { tc.f with rs := rsWords 9 [256] [] } })] }
     ∃ w s1, rdScalar 0 (.g 9) 1 s = .ok (w, s1) ∧ s1.handleLive 0 w = true ∧ (s1.ctx 0).q.eq = []) :=
  ⟨⟨_, _, _, rfl, rfl, rfl, rfl, rfl, rfl, latch_free rfl, rfl, rfl⟩, ⟨_, _, rfl, rfl⟩, _, _, rfl, rfl, rfl⟩

/-- Flags with neither acquire nor release. -/
def nofl : EFlags := { rsc := 0, rel := 0, asc := 0, acq := 0 }

/-- A context with a copy block in w1, of two rows of eight elements from slot 1 to slot 0, with the slots given; w2 holds indexes. -/
def copyCtx (lvl : Nat) (w0 w2 : Word) : Ctx :=
  { tc with
    task := some (tk lvl),
    f := { tc.f with
      rs := rsPut tc.f.rs (8 * 64) ([w0, 0, w2, q4 8 2 1 1, 1, 0, 9].flatMap fun w => toBytes 8 w.toNat),
      vd := [(1, vw 11 1 8 1 8), (2, vw 10 1 16 1 9)] },
    bx := [(0, bxd (if lvl = 3 then 3 else 0) 7 2 0x4000 8 4), (1, bxd (if lvl = 3 then 3 else 0) 7 0 0x6000 8 4), (2, bxd 3 11 2 0x8000 8 4)] }

theorem engine_room {s : State} {t : Task} (a : (s.ctx 0).task = some t) (b : Nat.ble ((s.ctx 0).wc.cp + 1) 63 = true) : EngineRoom s 0 t nofl :=
  ⟨a, Nat.le_of_ble_eq_true b, fun h => absurd h (by decide), fun h => absurd h (by decide)⟩

theorem test_w_copies :
    (∃ k t s1 s2, copyBlk 0 1 false false (ts (copyCtx 1 0x10 0)) = .ok (k, ts (copyCtx 1 0x10 0)) ∧ EngineRoom s2 0 t nofl ∧
      (tc.box 0).fmt = 7 ∧ ((copyCtx 1 0x10 0).box k.dslot).fmt = ((copyCtx 1 0x10 0).box k.sslot).fmt ∧ CopyInto (ts (copyCtx 1 0x10 0)) 0 k.dslot k.dorg k.ext ∧
      slotWindow (ts (copyCtx 1 0x10 0)) ((ts (copyCtx 1 0x10 0)).ctx 0) k.sslot none k.sorg k.ext true = .ok () ∧
      slotAligned (ts (copyCtx 1 0x10 0)) (copyCtx 1 0x10 0) k.dslot none k.dorg k.ext false = true ∧
      slotAligned (ts (copyCtx 1 0x10 0)) (copyCtx 1 0x10 0) k.sslot none k.sorg k.ext true = true ∧
      windowPages 0 ((copyCtx 1 0x10 0).box k.dslot) (rowsOf k.dorg k.ext) (k.ext.getD 0 0) true (ts (copyCtx 1 0x10 0)) = .ok ((), s1) ∧
      windowPages 0 ((copyCtx 1 0x10 0).box k.sslot) (rowsOf k.sorg k.ext) (k.ext.getD 0 0) false s1 = .ok ((), s2) ∧
      ∃ w, viewM 0 .t 2 false 1 (ts (copyCtx 1 0x10 0)) = .ok (w, ts (copyCtx 1 0x10 0)) ∧ w.fmt = 10 ∧ k.ext.getD 1 0 ≤ w.cols ∧ k.ext.getD 2 0 = 1 ∧
        k.ext.getD 3 0 = 1 ∧ 2 ≤ ((copyCtx 1 0x10 0).box k.sslot).rank ∧ (∀ n < 2, ((ts (copyCtx 1 0x10 0)).ctx 0).elem w 0 n = 0) ∧
        pathCheck (ts (copyCtx 1 0x10 0)) ((ts (copyCtx 1 0x10 0)).ctx 0) ((copyCtx 1 0x10 0).box k.sslot) { slot := k.sslot, crd := [], mesh := none } = .ok () ∧
        crdCheck k.sslot ((copyCtx 1 0x10 0).box k.sslot).fmt ((ts (copyCtx 1 0x10 0)).extsFor (copyCtx 1 0x10 0) ((copyCtx 1 0x10 0).box k.sslot) none true) [0, 0, 0, 0] (k.ext.getD 0 0) = .ok ()) := by
  refine ⟨_, _, _, _, rfl, engine_room rfl rfl, rfl, rfl, ⟨rfl, by decide, not_converting (fun t h => by cases h; rfl) _⟩, rfl, rfl, rfl, rfl, rfl, _, rfl, rfl,
    by decide, rfl, rfl, by decide, ?_, rfl, rfl⟩
  decide +kernel

theorem test_w_fills :
    ∃ x s0' k t s1, rdScalar 0 (.g 6) 1 (ts (copyCtx 1 0 0)) = .ok (x, s0') ∧ copyBlk 0 1 false true s0' = .ok (k, s0') ∧ EngineRoom s1 0 t nofl ∧
      fmtRaw ((s0'.ctx 0).box k.dslot).fmt = true ∧ CopyInto s0' 0 k.dslot k.dorg k.ext ∧
      windowPages 0 ((s0'.ctx 0).box k.dslot) (rowsOf k.dorg k.ext) (k.ext.getD 0 0) true s0' = .ok ((), s1) :=
  ⟨_, _, _, _, _, rfl, rfl, engine_room rfl rfl, rfl, ⟨rfl, by decide, not_converting (fun t h => by cases h; rfl) _⟩, rfl⟩

/-- The state of two members for a context, with channel 0 bound to a collective channel over axis 0, and both peers present. -/
def farSt (c : Ctx) : State :=
  { ts c with
    dctx := [(0, { DCtx.zero with live := true, msh := atBit 1 34 ||| atBit 1 22 ||| atBit 1 11 ||| atBit 2 0, mtab := [(1, 5)], place := [(0, { PlEnt.zero with w0 := atBit 0x444 0 })],
                                  chan := [(0, (atBit 1 63 ||| atBit 3 61 ||| atBit 1 32, 0))] })],
    net := { Net.zero with peers := [(0, 1), (5, 1)] } }

theorem test_w_remote_copies :
    ∃ k t s1, copyBlk 0 1 true false (farSt (copyCtx 3 0x210 0)) = .ok (k, farSt (copyCtx 3 0x210 0)) ∧ EngineRoom s1 0 t nofl ∧ t.lvl = 3 ∧
      k.noflag = false ∧
      (let c := (farSt (copyCtx 3 0x210 0)).ctx 0
       (c.box k.dslot).level = 3 ∧ (c.box k.sslot).level = 3 ∧ (c.box k.dslot).fmt = (c.box k.sslot).fmt ∧ (c.box k.fslot).level = 3 ∧
       fmtInteger (c.box k.fslot).fmt = true ∧ 4 ≤ fmtBytes (c.box k.fslot).fmt ∧ (c.box k.fslot).acc ≠ 0 ∧ (c.box k.dslot).acc ≠ 0 ∧
       slotWindow (farSt (copyCtx 3 0x210 0)) c k.fslot (some k.dco) k.forg [1, 1, 1, 1] false = .ok () ∧
       slotWindow (farSt (copyCtx 3 0x210 0)) c k.dslot (some k.dco) k.dorg k.ext false = .ok () ∧
       slotWindow (farSt (copyCtx 3 0x210 0)) c k.sslot none k.sorg k.ext true = .ok () ∧
       slotAligned (farSt (copyCtx 3 0x210 0)) c k.dslot (some k.dco) k.dorg k.ext false = true ∧
       slotAligned (farSt (copyCtx 3 0x210 0)) c k.sslot none k.sorg k.ext true = true ∧ ((farSt (copyCtx 3 0x210 0)).dc 0 0).peerOf k.dco = (5, 0) ∧
       (farSt (copyCtx 3 0x210 0)).peerUp 5 = true ∧
       windowPages 0 (c.box k.sslot) (rowsOf k.sorg k.ext) (k.ext.getD 0 0) false (farSt (copyCtx 3 0x210 0)) = .ok ((), s1)) :=
  ⟨_, _, _, rfl, engine_room rfl rfl, rfl, rfl, rfl, rfl, rfl, rfl, rfl, by decide, by decide, by decide, rfl, rfl, rfl, rfl, rfl, rfl, rfl, rfl⟩

/-- A context with a block of a collective in w1 and its boxes of 16 elements; the counter box stands in slot 2. -/
def collCtx : Ctx :=
  { tc with
    task := some { tk 2 with chan := [(0, 1)] },
    f := { tc.f with rs := rsPut [] (8 * 64) ([atBit 1 12 ||| atBit 2 16, 0, 0, atBit 8 0 ||| atBit 8 32, 0].flatMap fun w => toBytes 8 w.toNat), vd := [(1, vw 11 1 8 1 8)] },
    bx := [(0, bxd 0 7 2 0x4000 16 4), (1, bxd 0 7 2 0x6000 16 4), (2, bxd 0 11 2 0x8000 8 4)] }

theorem test_w_collectives :
    ∃ t ws, ((farSt collCtx).ctx 0).task = some t ∧ 2 ≤ t.lvl ∧ blockWords 0 1 .t 0 5 (farSt collCtx) = .ok (ws, farSt collCtx) ∧
      EngineRoom (farSt collCtx) 0 t nofl ∧ ((farSt collCtx).ctx 0).chan (fld (ws.getD 0 0) 2 0) = some 0 ∧
      ∀ k < 4, ∃ x s1, collOf (farSt collCtx) 0 0 ((farSt collCtx).ctx 0).box k (fun i => ws.getD i 0) 0 = .ok x ∧
        (∀ r ∈ collRuns x (ws.getD 0 0), slotWindow (farSt collCtx) ((farSt collCtx).ctx 0) r.1 none r.2.1 r.2.2.1 (!r.2.2.2) = .ok () ∧
          slotAligned (farSt collCtx) ((farSt collCtx).ctx 0) r.1 none r.2.1 r.2.2.1 (!r.2.2.2) = true ∧ (((farSt collCtx).ctx 0).box r.1).acc ≠ 0) ∧
        (collRuns x (ws.getD 0 0)).forM (fun r => windowPages 0 (((farSt collCtx).ctx 0).box r.1) [rowCrd r.2.1 (0, 0, 0)] (r.2.2.1.getD 0 0) r.2.2.2)
          (farSt collCtx) = .ok ((), s1) := by
  refine ⟨_, _, rfl, by decide, rfl, engine_room rfl rfl, rfl, fun k hk => ?_⟩
  match k with
  | 0 => exact ⟨_, _, rfl, List.forall_mem_cons.mpr ⟨⟨rfl, rfl, by decide⟩, List.forall_mem_cons.mpr ⟨⟨rfl, rfl, by decide⟩, List.forall_mem_cons.mpr ⟨⟨rfl, rfl, by decide⟩, List.forall_mem_nil _⟩⟩⟩, rfl⟩
  | 1 => exact ⟨_, _, rfl, List.forall_mem_cons.mpr ⟨⟨rfl, rfl, by decide⟩, List.forall_mem_cons.mpr ⟨⟨rfl, rfl, by decide⟩, List.forall_mem_cons.mpr ⟨⟨rfl, rfl, by decide⟩, List.forall_mem_nil _⟩⟩⟩, rfl⟩
  | 2 => exact ⟨_, _, rfl, List.forall_mem_cons.mpr ⟨⟨rfl, rfl, by decide⟩, List.forall_mem_cons.mpr ⟨⟨rfl, rfl, by decide⟩, List.forall_mem_cons.mpr ⟨⟨rfl, rfl, by decide⟩, List.forall_mem_nil _⟩⟩⟩, rfl⟩
  | 3 => exact ⟨_, _, rfl, List.forall_mem_cons.mpr ⟨⟨rfl, rfl, by decide⟩, List.forall_mem_cons.mpr ⟨⟨rfl, rfl, by decide⟩, List.forall_mem_cons.mpr ⟨⟨rfl, rfl, by decide⟩, List.forall_mem_nil _⟩⟩⟩, rfl⟩
  | n + 4 => omega

/-- The state of two members in which slot 3 holds a system box, whose placement shards dimension 0 along axis 0 or replicates it; g9 holds a
demand for axis 0: whole, or as a shard. -/
def plSt (cur dem : Nat) : State :=
  let s := farSt { tc3 with f := { tc3.f with rs := rsWords 5 [7, -3, 64, 1, atBit 1 12 ||| atBit dem 0] [] } }
  { s with dctx := [(0, { s.dc 0 0 with place := [(0, { PlEnt.zero with w0 := atBit 1 63 ||| atBit cur 0 })] })] }

theorem test_w_placements :
    (∃ t, ((plSt 0x440 4).ctx 0).task = some t ∧ (((plSt 0x440 4).ctx 0).box 3).level = 3 ∧ LatchFree (plSt 0x440 4) 0 ∧ (((plSt 0x440 4).ctx 0).box 0).level ≠ 3 ∧
      t.lvl = 3 ∧ ((plSt 0x440 4).ctx 0).wc.cp < 63 ∧ (∀ x ∈ ((plSt 0x440 4).dc t.dev t.dctx).timed, x.done = true)) ∧
    (let b := ((plSt 0x440 4).ctx 0).box 3
     fld (0x440 : Word) 63 62 = 0 ∧ fld (0x440 : Word) 60 12 = 0 ∧ ((plSt 0x440 4).entry 0 0 b).cip = false ∧
      ∀ a < 3, let x := axisState (fld (0x440 : Word) 11 0) a
        axisBad x = false ∧ (4 ≤ x ∨ x < b.rank) ∧ (a < fld ((plSt 0x440 4).dc 0 0).msh 35 34 ∨ x = 4) ∧ (fmtTagged b.fmt = true → x ≠ 8)) ∧
    (plSt 0x440 4).priv ((plSt 0x440 4).ctx 0) = true ∧ (∃ s : State, s.priv (s.ctx 0) = false ∧ Issues s ti g0) := by
  refine ⟨⟨_, rfl, rfl, latch_free rfl, by decide, rfl, by decide, fun x h => by cases h⟩, ⟨by decide, by decide, rfl, by decide +kernel⟩, rfl,
    { s0 with dctx := [(0, { DCtx.zero with key := 1 })] }, rfl, rfl, rfl⟩

theorem test_w_demands :
    (∃ b p ps fin s1 full, boxM 0 (pth 3) (plSt 0x440 4) = .ok ((b, p), plSt 0x440 4) ∧
      demandCheck ((plSt 0x440 4).dc 0 0).msh b ((plSt 0x440 4).entry 0 0 b) (((plSt 0x440 4).ctx 0).g 9) (ownMesh (plSt 0x440 4) ((plSt 0x440 4).ctx 0) p) = .ok full ∧
      pathCheck (plSt 0x440 4) ((plSt 0x440 4).ctx 0) b p = .ok () ∧
      crdCheck p.slot b.fmt (shardExts ((plSt 0x440 4).dc 0 0).msh ((plSt 0x440 4).dc 0 0).mco b full) p.crd 1 = .ok () ∧
      (plSt 0x440 4).membersUp ((plSt 0x440 4).dc 0 0) ((plSt 0x440 4).entry 0 0 b) (fld (((plSt 0x440 4).ctx 0).g 9) 14 12) full = true ∧
      codePieces 0 9 b p (plSt 0x440 4) = .ok ((ps, fin), s1) ∧ LoadRoom s1 0 ∧ full ≠ ((plSt 0x440 4).entry 0 0 b).cur) ∧
    (∃ b p full, boxM 0 (pth 3) (plSt 0x440 0) = .ok ((b, p), plSt 0x440 0) ∧
      demandCheck ((plSt 0x440 0).dc 0 0).msh b ((plSt 0x440 0).entry 0 0 b) (((plSt 0x440 0).ctx 0).g 9) (ownMesh (plSt 0x440 0) ((plSt 0x440 0).ctx 0) p) = .ok full ∧
      full = ((plSt 0x440 0).entry 0 0 b).cur ∧ ((plSt 0x440 0).entry 0 0 b).cip = false) :=
  ⟨⟨_, _, _, _, _, _, rfl, rfl, rfl, rfl, rfl, rfl, load_room rfl rfl rfl, by decide +kernel⟩, _, _, _, rfl, rfl, rfl, rfl⟩

theorem test_w_shard_stores :
    (∃ x b p l s2, rdScalar 0 (.g 6) 0 (plSt 0x444 4) = .ok (x, plSt 0x444 4) ∧ boxM 0 (pth 3) (plSt 0x444 4) = .ok ((b, p), plSt 0x444 4) ∧ p.mesh = none ∧
      fmtRaw b.fmt = true ∧ b.level = 3 ∧ (placed (plSt 0x444 4) 0 b).valid = true ∧ accessM 0 b p 1 1 true true (plSt 0x444 4) = .ok (l, s2) ∧ StoreRoom s2 0 ∧
      replicaPeers s2 0 b = [(5, 0)] ∧ s2.peerUp 5 = true ∧ (s2.ctx 0).q.sq = []) ∧
    (∃ v b p l s2, noGrant ((plSt 0x440 4).ctx 0) = false ∧ viewM 0 .m 1 false 0 (plSt 0x440 4) = .ok (v, plSt 0x440 4) ∧ boxM 0 (pth 4) (plSt 0x440 4) = .ok ((b, p), plSt 0x440 4) ∧
      p.mesh = none ∧ v.fmt = b.fmt ∧ b.level = 3 ∧ (placed (plSt 0x440 4) 0 b).valid = true ∧
      accessM 0 b p (grantOf ((plSt 0x440 4).ctx 0) v).1 (grantOf ((plSt 0x440 4).ctx 0) v).2 true
        (blockAligned b.fmt (p.crd.getD 0 0) (grantOf ((plSt 0x440 4).ctx 0) v).1) (plSt 0x440 4) = .ok (l, s2) ∧ StoreRoom s2 0 ∧ replicaPeers s2 0 b = []) :=
  ⟨⟨_, _, _, _, _, rfl, rfl, rfl, rfl, rfl, rfl, rfl, store_room rfl rfl, rfl, rfl, rfl⟩, _, _, _, _, _, rfl, rfl, rfl, rfl, rfl, rfl, rfl, rfl, store_room rfl rfl, rfl⟩

/-! Calls, copies and ends of tasks. -/

/-- The inout selection of rows 0 and 1 of slot 0 that the frame of the calling context makes. -/
def selA : Sel := { pslot := 0, cslot := 2, acc := 2, org := [0, 0, 0, 0], ext := [8, 2, 1, 1], fmt := 0, rank := 1, gdim := 0, gstep := 0 }

/-- A call of context 0 in a state. -/
def callE (st : CallSt) (nmem : Nat) : CallEnt :=
  { CallEnt.zero with st := st, gen := 1, kind := 1, sels := [selA], nmem := nmem, order := 5, cores := [1], bases := [0], size := 128, cycles := 77 }

/-- A state with that call in entry 0 of cluster 0, and another in entry 1. -/
def callsSt (c : Ctx) (e f : CallEnt) : State :=
  { ts c with mem := imgMem 0, clus := [(0, { Cluster.zero with calls := [(0, e), (1, f)] })] }

theorem test_w_calls_wait :
    let s := callsSt (callCtx 1 0) (callE .wait 1) CallEnt.zero
    let e := s.call 0 0
    e.dead = false ∧ e.st = .wait ∧ (s.ctx e.parent).halt = false ∧ (∀ hd ∈ e.after, s.afterOk 0 e.parent hd = true) ∧
    (∃ cores pool bases, s.findStore 0 e ((e.sels.map fun x => childBytes x (selParent (s.ctx e.parent) x)).foldl (· + ·) 0) = some (cores, pool, bases)) ∧
    (∃ s : State, (s.call 0 0).st = .wait ∧ (s.ctx (s.call 0 0).parent).halt = true) := by
  refine ⟨rfl, rfl, rfl, (fun hd h => by cases h), ?_, callsSt { callCtx 1 0 with halt := true } (callE .wait 1) CallEnt.zero, rfl, rfl⟩
  obtain ⟨⟨a, b, c⟩, h⟩ := Option.isSome_iff_exists.mp (by decide +kernel : ((callsSt (callCtx 1 0) (callE .wait 1) CallEnt.zero).findStore 0
    ((callsSt (callCtx 1 0) (callE .wait 1) CallEnt.zero).call 0 0) ((((callsSt (callCtx 1 0) (callE .wait 1) CallEnt.zero).call 0 0).sels.map fun x =>
      childBytes x (selParent ((callsSt (callCtx 1 0) (callE .wait 1) CallEnt.zero).ctx ((callsSt (callCtx 1 0) (callE .wait 1) CallEnt.zero).call 0 0).parent) x)).foldl (· + ·) 0)).isSome = true)
  exact ⟨a, b, c, h⟩

theorem test_w_calls_stages :
    (∀ st n, ((callsSt (callCtx 1 0) (callE st n) CallEnt.zero).call 0 0).st = st ∧ ((callsSt (callCtx 1 0) (callE st n) CallEnt.zero).call 0 0).dead = false ∧
      ((callsSt (callCtx 1 0) (callE st n) CallEnt.zero).call 0 0).nmem = n ∧ ((callsSt (callCtx 1 0) (callE st n) CallEnt.zero).call 0 0).start = none) ∧
    (let s := callsSt (callCtx 1 0) (callE .ready 1) CallEnt.zero
     ∃ k, (s.ctx 0).task = some k ∧ (s.taskWords k.dev k.dctx k.image k.key 0).isSome = true ∧ s.childCtxs (s.call 0 0) = some [4] ∧
       (∀ x ∈ s.table 0, x.1 ≠ 0 → x.2.st = .free)) ∧
    (callsSt (callCtx 1 0) (callE .copyOut 1) CallEnt.zero).orderHeld 0 ((callsSt (callCtx 1 0) (callE .copyOut 1) CallEnt.zero).call 0 0) = false ∧
    (let s := callsSt { callCtx 1 0 with sys := { (callCtx 1 0).sys with cgm := 1 } } (callE .copyOut 1) { CallEnt.zero with st := .run, order := 2 }
     s.orderHeld 0 (s.call 0 0) = true) ∧
    (let s := callsSt (callCtx 1 0) (callE .record 1) CallEnt.zero
     (s.ctx 0).q.eq.length < 32 ∧ (s.call 0 0).gen < 256 ∧ (s.call 0 0).kind < 256 ∧ (s.call 0 0).status < 256) ∧
    (let s := callsSt { callCtx 1 0 with q := { (callCtx 1 0).q with eq := List.replicate 32 0 } } (callE .record 1) CallEnt.zero
     32 ≤ (s.ctx 0).q.eq.length) := by
  refine ⟨fun st n => ⟨rfl, rfl, rfl, rfl⟩, ⟨_, rfl, ?_, ?_, ?_⟩, ?_, ?_, ⟨?_, ?_, ?_, ?_⟩, ?_⟩ <;> decide +kernel

/-- A command of a kind. -/
def cmdOf (k : CmdKind) : Cmd :=
  { kind := k, rows := [], got := [], flag := none, wait := 0, acq := none, rel := none, susp := none, deny := false, dev := 0, dctx := 0, mem := 0, place := (0, 0) }

/-- A state with that command. -/
def cmdSt (c : Cmd) : State := { s0 with cmds := [(9, c)] }

theorem test_w_commands :
    mfind s0.cmds 9 = none ∧ (∀ c, mfind (cmdSt c).cmds 9 = some c) ∧ (cmdOf (.copy 0)).flag = none ∧ (cmdOf (.copy 0)).rel ≠ some 4 ∧
    ({ cmdOf (.copy 0) with rel := some 4, wait := 1 } : Cmd).wait ≠ 0 ∧ ((cmdSt (cmdOf (.copy 0))).net.egress (pairKey 0 0 5 0)).opens = true ∧
    (cmdOf (.gather 0 3 1)).kind = .gather 0 3 1 ∧ (∃ c : Cmd, c.kind = .inward 0 0 ∧ c.susp = none ∧ c.deny = true) ∧
    (∃ c : Cmd, c.kind = .outward 0 0 ∧ c.susp = none ∧ c.deny = true) ∧ (∃ c : Cmd, c.susp = some 0x1000 ∧ c.deny = false) ∧
    (∀ k, { cmdSt (cmdOf k) with cmds := mdel (cmdSt (cmdOf k)).cmds 9 }.moreOf k = false) ∧ (∃ x ∈ (cmdSt (cmdOf (.inward 0 0))).cmds, x.2.kind = .inward 0 0) ∧
    (∃ x ∈ (cmdSt (cmdOf (.outward 0 0))).cmds, x.2.kind = .outward 0 0) ∧ (s0.ctx 0).dbg.due = 0 :=
  ⟨rfl, fun _ => rfl, rfl, by decide, by decide, rfl, rfl, ⟨{ cmdOf (.inward 0 0) with deny := true }, rfl, rfl, rfl⟩,
    ⟨{ cmdOf (.outward 0 0) with deny := true }, rfl, rfl, rfl⟩, ⟨{ cmdOf (.copy 0) with susp := some 0x1000 }, rfl, rfl⟩, fun _ => rfl, ⟨_, .head _, rfl⟩, ⟨_, .head _, rfl⟩, rfl⟩

/-- A state in which context 0 runs the one member left of the call of context 4, and has issued `done`. -/
def endSt : State :=
  let s := callsSt { tc with fin := some 0, task := some { tk 0 with parent := some (0, 0) } } { callE .run 1 with parent := 4, alive := 1 } CallEnt.zero
  { s with hw := s.hw ++ [(4, callCtx 1 0)] }

theorem test_w_task_ends :
    (s0.ctx 0).fin = none ∧
    (∃ k, (endSt.ctx 0).fin = some 0 ∧ (endSt.ctx 0).task = some k ∧ (endSt.ctx 0).trp.fq = [] ∧ endSt.callsOf 0 = [] ∧ (endSt.ctx 0).lats = [] ∧
      (endSt.ctx 0).trp.aside = none ∧ endSt.stillOut 0 (endSt.ctx 0) = false ∧ k.parent = some (0, 0) ∧ (endSt.call 0 0).alive = 1 ∧
      (endSt.call 0 0).dead = false ∧ (endSt.call 0 0).status = 0) ∧
    (let s := callsSt { callCtx 1 0 with fin := some 0 } (callE .run 1) CallEnt.zero
     (s.ctx 0).fin = some 0 ∧ (s.ctx 0).trp.fq = [] ∧ (0, 0) ∈ s.callsOf 0 ∧ (s.call 0 0).st ≠ .done) := by
  refine ⟨rfl, ⟨_, rfl, rfl, rfl, ?_, rfl, rfl, ?_, rfl, rfl, rfl, rfl⟩, rfl, rfl, ?_, ?_⟩ <;> decide +kernel

/-! The fabric. -/

/-- A packet of peer 5 that reaches eight bytes. -/
def pk : Pkt := { Pkt.zero with src := 5, va := 0x100, len := 8, data := toBytes 8 7, seq := 3, id := 9 }

/-- A state in which peer 5 is present and its numbers below `c` have been committed, with fences that wait. -/
def netSt (c : Nat) (fs : List Pkt) : State :=
  { s0 with net := { Net.zero with peers := [(5, 1)], ing := [(pairKey 0 0 5 0, { c := c, above := [], fences := fs })] } }

/-- The conversion of a tensor that the packet reaches. -/
def cvPk : Conv := { mask := 1, tgt := 0x444, seq := 1, desc := bxd 3 7 2 0x100 8 4, firsts := [], wait := [], going := false, parts := [], susp := none, refused := false, hit := [] }

/-- That state with the tensor converting. -/
def convSt : State :=
  { netSt 0 [] with dctx := [(0, { DCtx.zero with live := true, place := [(0, { w0 := atBit 3 62, w1 := 0, conv := some cvPk })] })] }

theorem test_w_absent_peers : s0.peerUp pk.src = false := rfl

theorem test_w_packets :
    (netSt 0 []).peerUp pk.src = true ∧ pk.op ≠ 1 ∧ pk.op ≠ 3 ∧ (netSt 0 []).seen pk = false ∧ (netSt 9 []).seen pk = true ∧
    (∃ x ps, (netSt 0 []).target pk 8 true = some (x :: ps) ∧ (netSt 0 []).targetConverts pk 8 = false ∧
      ((netSt 0 []).mirroredAll (layPlaces (x :: ps) pk.data ((cutGran pk.va 8 2).zipIdx.map fun x => pk.tags.getD x.2 none))).1 = true ∧ mkeysFrom none ((netSt 0 []).clu (homeClu x.1)).crq = true) ∧
    (∃ ps, (netSt 0 []).target pk 8 false = some ps) ∧ (netSt 0 []).target { pk with va := 2 ^ 50 } 8 true = none ∧
    (∃ ps, convSt.target pk 8 true = some ps) ∧ convSt.targetConverts pk 8 = true ∧ convSt.seen pk = false ∧ convSt.peerUp 5 = true := by
  refine ⟨rfl, by decide, by decide, rfl, rfl, ⟨_, _, rfl, ?_, ?_, rfl⟩, ⟨_, rfl⟩, rfl, ⟨_, rfl⟩, ?_, rfl, rfl⟩ <;> decide +kernel

theorem test_w_fences :
    (let s := netSt 3 [pk]
     firstFence (s.net.ingress (pairKey 0 0 5 0)).fences = some pk ∧ pk.seq ≤ (s.net.ingress (pairKey 0 0 5 0)).c ∧ (∃ ps, s.target pk 8 true = some ps ∧ (s.mirroredAll (layPlaces ps pk.data [])).1 = true) ∧
       s.targetConverts pk 8 = false) ∧
    (let s := netSt 0 [pk]
     firstFence (s.net.ingress (pairKey 0 0 5 0)).fences = some pk ∧ (s.net.ingress (pairKey 0 0 5 0)).c < pk.seq) ∧
    ((netSt 0 []).net.ingress (pairKey 0 0 5 0)).fences = [] :=
  ⟨⟨rfl, by decide, ⟨_, rfl, by decide +kernel⟩, by decide +kernel⟩, ⟨rfl, by decide⟩, rfl⟩

/-- A packet of this device in flight, with the back-offs made. -/
def farR (n : Nat) : Far := { pkt := { Pkt.zero with ty := 1, dst := 5, seq := 4 }, h := some 0, tok := 3, seq := 8, part := 0, cmd := none, tries := n, conv := false, place := 0 }

/-- A state with it. -/
def farS (n : Nat) : State := { netSt 0 [] with net := { (netSt 0 []).net with far := [(9, farR n)], mir := [(0x100, 9, false)] }, cmds := [(7, cmdOf (.copy 0))] }

theorem test_w_answers :
    (farS 2).peerUp pk.src = true ∧ mfind (netSt 0 []).net.far pk.id = none ∧ mfind (farS 2).net.far pk.id = some (farR 2) ∧ (farR 2).tries < 11 ∧
    (farR 2).pkt.ty ≠ 2 ∧ (farR 2).h = some 0 ∧ pk.op ≠ 1 ∧ (0x100, pk.id, false) ∈ (farS 2).net.mir ∧ mfind (farS 2).cmds 7 = some (cmdOf (.copy 0)) ∧
    mfind (farS 12).net.far 9 = some (farR 12) ∧ 11 < (farR 12).tries ∧ (farR 12).cmd = none ∧ (farR 12).pkt.ty = 1 ∧ ((farS 12).ctx 0).st ≠ .free ∧
    ((farS 12).ctx 0).fin = none ∧ ((farS 12).ctx 0).trp.fq.length < 8 ∧ (farR 11).tries ≤ 11 ∧
    (s0.ctx 0).stores.find? (fun a => a.tok == 3 && !a.isAlign) = none := by
  refine ⟨rfl, rfl, rfl, by decide, by decide, rfl, by decide, List.mem_singleton.mpr rfl, rfl, rfl, by decide, rfl, rfl, ?_, rfl, ?_, by decide, rfl⟩ <;> decide +kernel

/-- A context with a remote write held at the egress. -/
def heldCtx : Ctx :=
  { tc with q := { tc.q with seq := 9, sq := [{ tok := 3, seq := 8, kind := .remote [{ Pkt.zero with ty := 1, dst := 5 }] 0 true, acq := none, rel := none, conv := none, ps := [] }] } }

theorem test_w_egress :
    (∃ a q, ((ts heldCtx).ctx 0).stores.find? (fun a => a.tok == 3 && !a.isAlign) = some a ∧ a.kind = .remote [q] 0 true ∧ heldCtx.halt = false ∧
      (ts heldCtx).mayDepart 0 heldCtx a q = true ∧
      ((ts heldCtx).net.egress (pairKey q.ssub q.ctx q.dst q.dsub)).opens = true) ∧
    (let s := { ts heldCtx with net := { Net.zero with eg := [(pairKey 0 0 5 0, { next := 5000, pend := [0] })] } }
     (s.net.egress (pairKey 0 0 5 0)).opens = false) :=
  ⟨⟨_, _, rfl, rfl, rfl, rfl, rfl⟩, by decide +kernel⟩

/-- A state with a receive end in channel 1, at element 3, and a send end in channel 2. -/
def chSt : State :=
  { netSt 0 [] with dctx := [(0, { DCtx.zero with live := true, chan := [(1, (atBit 5 61 ||| atBit 0x123 0, 3)), (2, (atBit 1 63, 0))] })] }

theorem test_w_channels :
    mfind (chSt.dc 0 0).chan 1 = some (atBit 5 61 ||| atBit 0x123 0, 3) ∧ (chSt.dc 0 0).live = true ∧ fld (atBit 5 61 ||| atBit 0x123 0) 63 61 = 5 ∧
    fld (atBit 5 61 ||| atBit 0x123 0) 14 0 = 0x123 ∧ fld (3 : Word) 15 0 = 3 ∧ (mfind (chSt.dc 0 0).chbuf 1).getD [] = [] ∧ chSt.peerUp 5 = true ∧
    mfind (chSt.dc 0 0).chan 2 = some (atBit 1 63, 0) ∧ fld (atBit 1 63) 62 61 = 0 := by
  refine ⟨rfl, rfl, ?_, ?_, ?_, rfl, rfl, rfl, ?_⟩ <;> decide +kernel

/-! The flux engine. -/

/-- The list that an answer holds. -/
def okL {ε α : Type} : Except ε (List α) → List α
  | .ok l => l
  | .error _ => []

theorem ok_okL {ε α : Type} {x : Except ε (List α)} (h : x.isOk = true) : x = .ok (okL x) := by
  cases x
  · cases h
  · rfl

theorem pair_eq {α β : Type} (x : α × β) : x = (x.1, x.2) := rfl

theorem pair_true {α : Type} {x : Bool × α} (h : x.1 = true) : x = (true, x.2) := by
  cases x; cases h; rfl

/-- The first packet of a member of the conversion, which demands that the tensor be whole everywhere. -/
def first1 (cur : Nat) : First := { seq := 1, place := 0, mask := 1, tgt := 0x444, cur := cur, ord := 0 }

/-- That conversion, with first packets and shards received. -/
def conv1 (going : Bool) (firsts : SMap First) (parts : SMap (List (Nat × Tag))) : Conv :=
  { mask := 1, tgt := 0x444, seq := 1, desc := bxd 3 7 2 0x4000 8 4, firsts := firsts, wait := [], going := going, parts := parts, susp := none, refused := false, hit := [] }

/-- The placement entry that is in a state and converts. -/
def entry1 (cur : Nat) (k : Conv) : PlEnt := { w0 := atBit 3 62 ||| atBit 0x444 48 ||| atBit cur 0, w1 := 0, conv := some k }

/-- The state of two members with a conversion in progress and a collective. -/
def fluxSt (ents : SMap PlEnt) (colls : SMap Coll) : State :=
  { farSt tc with
    dctx := [(0, { (farSt tc).dc 0 0 with place := ents, seqc := [(1, 1)] })], colls := colls }

/-- A step of member 1 with a number. -/
def stepPk (k : FluxMsg) (seq : Nat) : Pkt := { pk with seq := seq, flux := k }

/-- A collective of 16 elements in chunks of eight. -/
def coll1 (kind : Nat) (going : Bool) (firsts : SMap (List Nat)) (parts : SMap (List (Nat × Tag))) : Coll :=
  { h := some 0, q := none, dev := 0, dctx := 0, chan := 0, k := kind, n := 8, chunk := 4, ord := 0, count := 1, me := 0, g := 2,
    src := bxd 0 7 2 0x4000 16 4, sorg := [0, 0, 0, 0], dst := bxd 0 7 2 0x6000 16 4, dorg := [0, 0, 0, 0],
    ctr := bxd 0 11 2 0x8000 8 4, corg := [0, 0, 0, 0], peers := [(0, 0), (5, 0)], acq := none, firsts := firsts, parts := parts,
    susp := none, refused := false, final := 0, going := going }

/-- Elements of a shard. -/
def shard (n : Nat) : List (Nat × Tag) := (List.range n).map fun i => (i, 0)

theorem test_w_flux_steps :
    let s := fluxSt [(0, entry1 0x440 (conv1 false [] []))] [(3, coll1 0 false [] [])]
    let d := s.dc 0 0
    s.peerUp 5 = true ∧ d.live = true ∧ d.convOf 1 1 = some (0, entry1 0x440 (conv1 false [] []), conv1 false [] []) ∧
    Converts s 0 0 0 (entry1 0x440 (conv1 false [] [])) (conv1 false [] []) ∧
    (d.convOf 1 2 = none ∧ seqAhead 2 (mget 0 d.seqc 1) = true) ∧ (d.convOf 1 0 = none ∧ seqAhead 0 (mget 0 d.seqc 1) = false) ∧
    s.collNo 0 0 0 1 = some (3, coll1 0 false [] []) ∧ s.collNo 0 0 0 2 = none ∧ seqAhead 2 ((mfind d.chan 0).getD (0, 0)).2.toNat = true ∧
    d.crossed 0 1 (5, 0) = none ∧ d.convOf 2 1 = none ∧ seqAhead 1 (mget 0 d.seqc 2) = true ∧ convTraffic 0x440 1 0x444 = true ∧
    d.indexOf 1 (5, 0) = 1 ∧ 1 < (d.groupPeers (maskAxes 1)).length :=
  ⟨rfl, rfl, rfl, ⟨rfl, rfl⟩, ⟨rfl, rfl⟩, ⟨rfl, rfl⟩, rfl, rfl, rfl, rfl, rfl, rfl, rfl, rfl, by decide⟩

theorem test_w_no_conversion : ∀ e, mfind ((fluxSt [] []).refeed 0 0 |>.dc 0 0).place 3 = some e → e.conv = none :=
  fun e h => by cases h

theorem test_w_conversion_differs :
    let k := conv1 false [(0, first1 0x440), (1, first1 0x448)] []
    let r := (fluxSt [(0, entry1 0x440 k)] []).refeed 0 0
    Converts r 0 0 0 (entry1 0x440 k) k ∧ (r.dc 0 0).mismatch k (convTraffic 0x440 1 0x444) = some (1, 6) :=
  ⟨⟨rfl, rfl⟩, by decide +kernel⟩

theorem test_w_conversion_waits :
    let k := conv1 false [(0, first1 0x440)] []
    let r := (fluxSt [(0, entry1 0x440 k)] []).refeed 0 0
    Converts r 0 0 0 (entry1 0x440 k) k ∧ (r.dc 0 0).mismatch k (convTraffic 0x440 1 0x444) = none ∧ convTraffic 0x440 1 0x444 = true ∧
      ∃ i < ((r.dc 0 0).groupPeers (maskAxes 1)).length, mfind k.firsts i = none :=
  ⟨⟨rfl, rfl⟩, by decide +kernel, rfl, 1, by decide +kernel, rfl⟩

theorem test_w_conversion_starts :
    let k := conv1 false [(0, first1 0x440), (1, first1 0x440)] []
    let r := (fluxSt [(0, entry1 0x440 k)] []).refeed 0 0
    let x := r.dc 0 0
    Converts r 0 0 0 (entry1 0x440 k) k ∧ x.mismatch k (convTraffic 0x440 1 0x444) = none ∧
      (∀ i < (x.groupPeers (maskAxes 1)).length, mfind k.firsts i ≠ none) ∧ r.convReady 0 0 (r.footprint 0 0 k.desc) k.wait = true ∧
      (∃ ps qs es u, r.granPlaces 0 0 k.desc false (k.desc.winGrans (shardExts x.msh x.mco k.desc 0x440)) = .ok ps ∧
        r.granPlaces 0 0 k.desc true (k.desc.winGrans (shardExts x.msh x.mco k.desc 0x444)) = .ok qs ∧ r.readElems k.desc.fmt ps = (es, u)) :=
  ⟨⟨rfl, rfl⟩, by decide +kernel, by decide +kernel, by decide +kernel, _, _, _, _, ok_okL (by decide +kernel), ok_okL (by decide +kernel), pair_eq _⟩

theorem test_w_conversion_ends (cur : Nat) (h : cur = 0x440 ∨ cur = 0x448) :
    let k := conv1 true [] [(0, shard 32), (1, shard 32)]
    let r := (fluxSt [(0, entry1 cur k)] []).refeed 0 0
    let x := r.dc 0 0
    Converts r 0 0 0 (entry1 cur k) k ∧ (∀ i < (x.groupPeers (maskAxes 1)).length, mfind k.parts i ≠ none) ∧ r.convReady 0 0 [] k.wait = true ∧ k.tgt < 4096 ∧
      ∃ ps ws s0 s1, r.granPlaces 0 0 k.desc true (k.desc.winGrans (shardExts x.msh x.mco k.desc 0x444)) = .ok ps ∧
        r.granWrites k.desc.fmt (convSums cur k) ps
          ((windowRows (shardExts x.msh x.mco k.desc 0x444)).flatMap fun w => (List.range ((shardExts x.msh x.mco k.desc 0x444).getD 0 0)).map fun a =>
            convElem (groupKey (x.groupPeers (maskAxes 1)) 0 (k.mask * 1024)) x (entry1 cur k) k
              [(shardOrg x.msh x.mco k.desc 0x444).getD 0 0 + a, (shardOrg x.msh x.mco k.desc 0x444).getD 1 0 + w.1,
               (shardOrg x.msh x.mco k.desc 0x444).getD 2 0 + w.2.1, (shardOrg x.msh x.mco k.desc 0x444).getD 3 0 + w.2.2]) = (ws, s0) ∧
        s0.mirroredAll ws = (true, s1) := by
  rcases h with rfl | rfl <;>
    exact ⟨⟨rfl, rfl⟩, by decide +kernel, by decide +kernel, by decide, _, _, _, _, ok_okL (by decide +kernel), pair_eq _, pair_true (by decide +kernel)⟩

theorem test_w_conversion_waits_for_shards :
    let k := conv1 true [] [(0, shard 32)]
    let r := (fluxSt [(0, entry1 0x440 k)] []).refeed 0 0
    Converts r 0 0 0 (entry1 0x440 k) k ∧ ∃ i < ((r.dc 0 0).groupPeers (maskAxes 1)).length, mfind k.parts i = none :=
  ⟨⟨rfl, rfl⟩, 1, by decide +kernel, rfl⟩

theorem test_w_collective_absent : mfind (fluxSt [] []).colls 3 = none := rfl

theorem test_w_collective_starts :
    (let x := coll1 0 false [(1, [1, 8, 4])] []
     let r := (fluxSt [] [(3, x)]).refeed 0 0
     mfind r.colls 3 = some x ∧ collDiffers (r.dc 0 0) x = some (1, 5)) ∧
    (let x := coll1 0 false [] []
     let r := (fluxSt [] [(3, x)]).refeed 0 0
     mfind r.colls 3 = some x ∧ collDiffers (r.dc 0 0) x = none ∧ ∃ i < x.g, i ≠ x.me ∧ mfind x.firsts i = none) ∧
    (let x := coll1 0 false [(1, [0, 8, 4])] []
     let r := (fluxSt [] [(3, x)]).refeed 0 0
     mfind r.colls 3 = some x ∧ collDiffers (r.dc 0 0) x = none ∧ x.acq = none ∧ (∀ i < x.g, i ≠ x.me → mfind x.firsts i ≠ none) ∧
      ∃ ps es u, r.granPlaces 0 0 x.src false (x.src.runGrans x.sorg x.n) = .ok ps ∧ r.readElems x.src.fmt ps = (es, u)) :=
  ⟨⟨rfl, by decide +kernel⟩, ⟨rfl, by decide +kernel, 1, by decide, by decide, rfl⟩, rfl, by decide +kernel, rfl, by decide, _, _, _, ok_okL (by decide +kernel), pair_eq _⟩

theorem test_w_collective_chunks (j : Nat) (hj : j < 2) :
    (let x := coll1 0 true [] [(0, shard 8)]
     mfind (fluxSt [] [(3, x)]).colls 3 = some x ∧ ∃ i < x.g, mfind x.parts i = none) ∧
    (let x := coll1 0 true [] [(0, shard 8), (1, shard 8)]
     let s := fluxSt [] [(3, x)]
     (∀ i < x.g, mfind x.parts i ≠ none) ∧ (j = 0 → j * x.chunk + 4 < 8) ∧ (j = 1 → 8 ≤ j * x.chunk + 4) ∧
     ∃ ps cs ws vs s0 s1 s2, s.granPlaces 0 0 x.dst true (x.dst.runGrans (moveD0 x.dorg (j * x.chunk)) (min x.chunk (8 - j * x.chunk))) = .ok ps ∧
       s.granPlaces 0 0 x.ctr true (x.ctr.runGrans (moveD0 x.corg j) 1) = .ok cs ∧
       s.granWrites x.dst.fmt (decide (x.k = 0 ∨ x.k = 2)) ps
         ((List.range (min x.chunk (8 - j * x.chunk))).map fun i => collElem x (groupKey x.peers 0 (2 ^ 19)) (j * x.chunk + i)) = (ws, s0) ∧
       s0.granWrites 11 false cs [some (x.count % 2 ^ 64, 0)] = (vs, s1) ∧ s1.mirroredAll (ws ++ vs) = (true, s2)) := by
  match j with
  | 0 => exact ⟨⟨rfl, 1, by decide, rfl⟩, by decide, by decide, by decide, _, _, _, _, _, _, _, ok_okL (by decide +kernel), ok_okL (by decide +kernel),
      pair_eq _, pair_eq _, pair_true (by decide +kernel)⟩
  | 1 => exact ⟨⟨rfl, 1, by decide, rfl⟩, by decide, by decide, by decide, _, _, _, _, _, _, _, ok_okL (by decide +kernel), ok_okL (by decide +kernel),
      pair_eq _, pair_eq _, pair_true (by decide +kernel)⟩
  | n + 2 => omega

/-! Swaps, timed events and the timebase. -/

/-- A state whose device 0 has a pre-emption, with context 2 that has an image. -/
def swapSt (p : Part) : State := { s0 with part := [(0, p)], images := [(2, { Image.zero with hw := [(7, tc)] })] }

theorem test_w_swaps :
    (let p : Part := { Part.zero with asked := true }
     (0, p) ∈ (swapSt p).part ∧ p.asked = true ∧ p.halt = false) ∧ s0.part = [] ∧ (s0.partOf 0).halt = false ∧
    (let s := swapSt { asked := true, halt := true, next := 3, num := 0 }
     (s.partOf 0).halt = true ∧ s.quiet 0 = true ∧ (s.partOf 0).next = 2 + 1 ∧ (s.partOf 0).num = 0 ∧ s.resident 0 = some 0 ∧
      mkeysFrom none s.images = true ∧ mkeysFrom none s.res = true ∧ mkeysFrom none ((mfind s.images 2).getD Image.zero).hw = true ∧
      mfind ((mfind s.images 2).getD Image.zero).hw 7 = some tc ∧ s.devOf 7 = 0) ∧
    (let s := { swapSt { asked := true, halt := true, next := 3, num := 0 } with bel := { Bel.zero with tasks := [0] } }
     (s.partOf 0).halt = true ∧ s.quiet 0 = false) ∧ s0.mem.wf = true ∧ mkeysFrom none s0.hw = true := by
  refine ⟨⟨List.mem_singleton.mpr rfl, rfl, rfl⟩, rfl, rfl, ⟨rfl, ?_, rfl, rfl, rfl, rfl, rfl, rfl, rfl, rfl⟩, ⟨rfl, ?_⟩, rfl, rfl⟩ <;> decide +kernel

/-- A state in which nothing is resident, and queue 0 of device context 1 holds an entry to take. -/
def candSt : State :=
  { State.reset with
    dctx := [(1, { DCtx.zero with live := true, msh := atBit 1 22 ||| atBit 1 11 ||| atBit 1 0 })],
    bel := { Bel.zero with qs := [(0, { Queue.zero with cfg := atBit 1 0 ||| atBit 1 32 ||| atBit 4 40, tail := 1 })] } }

theorem test_w_priorities :
    (∀ e < 8, State.reset.resident e = none ∧ State.reset.candidate e none = none) ∧
    (∀ e < 8, candSt.resident e = none ∧ (e ≠ 0 → candSt.candidate e none = none)) ∧ candSt.candidate 0 none = some 1 ∧
      (candSt.partOf 0).asked = false ∧ (candSt.dc 0 1).members.length ≤ 1 := by
  refine ⟨?_, ?_, ?_, ?_, ?_⟩ <;> decide +kernel

/-- A state with a timed event of a kind, and a reserved context for a timed launch. -/
def timedSt (e : Timed) (tb : Timebase) (spol : Nat) : State :=
  { s0 with
    dctx := [(0, { s0.dc 0 0 with timed := [e], spol := spol })], tbs := [(0, tb)], net := { Net.zero with peers := [(0, 1), (5, 1)] },
    clk := { s0.clk with now := 3000000000 } }

theorem test_w_timed_halts (k : Nat) (hk : k = 2 ∨ k = 3) :
    (s0.dc 0 0).timed.find? (fun e => e.num == 4 && (e.kind == 2 || e.kind == 3) && !e.done) = none ∧
    (let e := Timed.new k 4000000000 4
     let s := timedSt e Timebase.zero 0
     (s.dc 0 0).timed.find? (fun e => e.num == 4 && (e.kind == 2 || e.kind == 3) && !e.done) = some e ∧ (s.now 0).toNat < e.t.toNat) ∧
    (let e := Timed.new k 2000000000 4
     let s := timedSt e Timebase.zero 0
     (s.dc 0 0).timed.find? (fun e => e.num == 4 && (e.kind == 2 || e.kind == 3) && !e.done) = some e ∧ e.t.toNat ≤ (s.now 0).toNat ∧ s.acts 0 0 e = true ∧
      s.resident 0 = some 0) ∧
    (let e := Timed.new k 2000000000 4
     let s := { timedSt e { Timebase.zero with mode := 2 } 0 with net := { Net.zero with fpeer := 9 } }
     (s.dc 0 0).timed.find? (fun e => e.num == 4 && (e.kind == 2 || e.kind == 3) && !e.done) = some e ∧ e.t.toNat ≤ (s.now 0).toNat ∧ s.acts 0 0 e = false) := by
  rcases hk with rfl | rfl <;>
    exact ⟨rfl, ⟨rfl, by decide⟩, ⟨rfl, by decide, by decide +kernel, rfl⟩, rfl, by decide, by decide +kernel⟩

theorem test_w_timed_starts (k : Nat) (hk : k = 1 ∨ k = 4) :
    (s0.dc 0 0).timed.find? (fun e => e.num == 4 && (e.kind == 1 || e.kind == 4) && !e.done) = none ∧
    (let e := Timed.new k 4000000000 4
     let s := timedSt e Timebase.zero 0
     (s.dc 0 0).timed.find? (fun e => e.num == 4 && (e.kind == 1 || e.kind == 4) && !e.done) = some e ∧ (s.now 0).toNat < e.t.toNat) ∧
    (let e := Timed.new k 2000000000 4
     let s := timedSt e Timebase.zero 0
     (s.dc 0 0).timed.find? (fun e => e.num == 4 && (e.kind == 1 || e.kind == 4) && !e.done) = some e ∧ e.t.toNat ≤ (s.now 0).toNat ∧ s.acts 0 0 e = true ∧
      s.resident 0 = some 0 ∧ (s.partOf 0).halt = false ∧ e.ent = none) := by
  rcases hk with rfl | rfl <;>
    exact ⟨rfl, ⟨rfl, by decide⟩, rfl, by decide, by decide +kernel, rfl, rfl, rfl⟩

theorem test_w_tokens :
    (let p : Pkt := { pk with flux := .arm 2 77 5 }
     (timedSt (Timed.new 2 88 4) Timebase.zero 0).peerUp p.src = true ∧ ((timedSt (Timed.new 2 88 4) Timebase.zero 0).dc p.dsub p.ctx).live = true ∧
      (timedSt (Timed.new 2 88 4) Timebase.zero 0).findTimed p.dsub p.ctx 2 77 = none) ∧
    (let p : Pkt := { pk with flux := .token 2 88 }
     let s := timedSt (Timed.new 2 88 4) { Timebase.zero with mode := 2 } 0
     s.peerUp p.src = true ∧ (s.dc p.dsub p.ctx).live = true ∧ s.findTimed p.dsub p.ctx 2 88 = some (Timed.new 2 88 4) ∧ (s.tb 0).mode = 2 ∧
      (Timed.new 2 88 4).done = false ∧ s.resident p.dsub = some p.ctx) ∧
    (let s := timedSt (Timed.new 2 88 4) Timebase.zero 0
     s.findTimed 0 0 2 88 = some (Timed.new 2 88 4) ∧ (s.tb 0).mode ≠ 2) :=
  ⟨⟨rfl, rfl, rfl⟩, ⟨rfl, rfl, rfl, rfl, rfl, rfl⟩, rfl, by decide⟩

theorem test_w_stragglers :
    s0.latecomers 0 20000 = [] ∧ s0.latecomers 1 1019998 = [] ∧
    (let e := Timed.new 2 2000000000 4
     ∀ spol < 2, (timedSt e Timebase.zero spol).latecomers 0 20000 = [(0, 0, e)] ∧ ((timedSt e Timebase.zero spol).dc 0 0).allAcked e = false ∧
       ((timedSt e Timebase.zero spol).dc 0 0).spol = spol) ∧
    (let e := { Timed.new 2 2000000000 4 with strag := 1 }
     (timedSt e Timebase.zero 0).latecomers 1 1019998 = [(0, 0, e)] ∧ ((timedSt e Timebase.zero 0).dc 0 0).allAcked e = false) := by
  refine ⟨?_, ?_, ?_, ?_, ?_⟩ <;> decide +kernel

theorem test_w_timebase :
    (let p : Pkt := { pk with flux := .time 30 2500 }
     (netSt 0 []).peerUp p.src = true ∧ p.flux = .time 30 2500 ∧ 2000 < 2500) ∧
    (∀ x ∈ s0.devices, (s0.now x).toNat < (s0.tb x).last.toNat + 1999999990) ∧
    (let s := timedSt (Timed.new 2 88 4) Timebase.zero 0
     0 ∈ s.devices ∧ (s.tb 0).last.toNat + 1999999990 ≤ (s.now 0).toNat) ∧ (∀ x ∈ s0.devices, (s0.tb x).below = none) ∧
    (let s := timedSt (Timed.new 2 88 4) { Timebase.zero with mode := 2, below := some 5 } 0
     0 ∈ s.devices ∧ (s.tb 0).below = some 5 ∧ (s.tb 0).mode = 2 ∧ (5 : Word).toNat + 1000000000 ≤ (s.now 0).toNat) ∧
    (let s := timedSt (Timed.new 2 88 4) { Timebase.zero with below := some 5 } 0
     (s.tb 0).below = some 5 ∧ (s.tb 0).mode ≠ 2) :=
  ⟨⟨rfl, rfl, by decide⟩, by decide, ⟨by decide, by decide⟩, by decide, ⟨by decide, rfl, rfl, by decide⟩, rfl, by decide⟩

/-! The bellows. -/

theorem some_pair {α β : Type} {x : Option α × β} (d : α) (h : x.1.isSome = true) : x = (some (x.1.getD d), x.2) := by
  obtain ⟨a, b⟩ := x
  cases a
  · cases h
  · rfl

theorem none_pair {α β : Type} {x : Option α × β} (h : x.1.isNone = true) : x = (none, x.2) := by
  obtain ⟨a, b⟩ := x
  cases a
  · rfl
  · cases h

theorem some_true {α : Type} {x : Option (Bool × α)} (d : α) (h : x.map (·.1) = some true) : x = some (true, (x.map (·.2)).getD d) := by
  cases x with
  | none => cases h
  | some y => obtain ⟨a, b⟩ := y; cases h; rfl

theorem ok_pair {ε α β : Type} {x : Except ε α × β} (h : x.1.isOk = true) : ∃ a, x = (.ok a, x.2) := by
  obtain ⟨a, b⟩ := x
  cases a
  · cases h
  · exact ⟨_, rfl⟩

/-- An entry of a type with its words after the header. -/
def entE (ty : Nat) (ws : List Word) : QEnt :=
  { id := 7, pos := 0, ws := atBit ty 56 :: ws, started := false, ctxs := [], checks := [], ends := [], clk := 0, since := none, stage := 0, num := 0, fin := none }

/-- Queue 0 of a device context with entries taken. -/
def belQ (c : Nat) (es : List QEnt) : Queue := { Queue.zero with cfg := atBit 1 0 ||| atBit c 32 ||| atBit 4 40, base := atBit 0x80 0, head := 1, tail := 1, ents := es }

/-- A state in which device contexts 0 and 1 are alive on a mesh of one member, one of them is resident, and queue 0 is as given. -/
def belRes (c : Nat) (k : Queue) : State :=
  let d : DCtx := { DCtx.zero with live := true, msh := atBit 1 34 ||| atBit 1 22 ||| atBit 1 11 ||| atBit 1 0,
                                   chan := [(1, (atBit 1 63 ||| atBit 3 61 ||| atBit 1 32, 0))], place := [(0, { PlEnt.zero with w0 := atBit 1 63 ||| atBit 0x444 0 })] }
  { s0 with
    iss := none, hw := [], dctx := [(0, d), (1, { d with susp := [(3, .cmd 9)] })], res := [(0, c + 1)],
    bel := { Bel.zero with qs := [(0, k)] }, net := { Net.zero with peers := [(0, 1), (5, 1)] }, keys := [(1, { key := 5, grant := false, maker := none })],
    cmds := [(9, { cmdOf (.copy 0) with susp := some 5 })] }
def belSt (k : Queue) : State := belRes 1 k

/-- The first page of device memory with bytes from its first on, which stand at their own addresses for context 0. -/
def pageMem (bs : List Byte) : Mem := { State.reset.mem with hbm := minss [] 0 bs, hbmKey := (List.range 32).map fun g => (g, 1) }

/-- A state whose resident context is 0, with bytes in memory. -/
def belMem (k : Queue) (bs : List Byte) : State := { belRes 0 k with mem := pageMem bs }

/-- The first page of a device's memory holds bytes from its first on, readable under key 0. -/
def Page (s : State) (bs : List Byte) : Prop :=
  (∀ va < 2048, s.mem.keyOf va = 1) ∧ (∀ va < bs.length, mfind s.mem.hbm va = bs[va]?) ∧ s.dieMode = 0 ∧ mfind s.keys 0 = none ∧ bs.length ≤ 2048

theorem page_place {s : State} (hd : s.dieMode = 0) (hk : mfind s.keys 0 = none) (va : Nat) (h : va < 2048) : s.hbmPlace 0 va 0 = .hbm va 0 := by
  have : va / 2048 = 0 := by omega
  simp [State.hbmPlace, State.hbmAddr, State.seal, State.stacks, hd, hk, this]; omega

theorem page_xlate {s : State} (hd : s.dieMode = 0) (va : Nat) (h : va < 2048) : s.xlate 0 0 va 0 false = .ok va := by
  have hs : s.physSpace = 549755813888 := by simp [State.physSpace, State.stacks, hd]
  have : ¬ 549755813888 ≤ va := by omega
  simp [State.xlate, hs, this]

theorem page_of {s : State} {bs : List Byte} (hm : s.mem = pageMem bs) (hd : s.dieMode = 0) (hk : mfind s.keys 0 = none) (hl : bs.length ≤ 2048) :
    Page s bs := by
  refine ⟨fun va h => ?_, fun va h => ?_, hd, hk, hl⟩
  · rw [hm]
    show mget 0 ((List.range 32).map fun g => (g, 1)) (va / 64) = 1
    exact (by decide +kernel : ∀ g < 32, mget 0 ((List.range 32).map fun g => (g, 1)) g = 1) (va / 64) (by omega)
  · rw [hm]
    show mfind (minss [] 0 bs) va = bs[va]?
    rw [mfind_minss, if_pos (by omega)]; rfl

theorem page_byte {s : State} {bs : List Byte} {b : Byte} (hp : Page s bs) (va : Nat) (hb : bs[va]? = some b) :
    s.readBytes (s.hbmPlace 0 va 0) 1 = ([b], s) := by
  obtain ⟨hlt, _⟩ := List.getElem?_eq_some_iff.mp hb
  have h : va < 2048 := Nat.lt_of_lt_of_le hlt hp.2.2.2.2
  rw [page_place hp.2.2.1 hp.2.2.2.1 va h]
  have : s.mem.byte (.hbm va 0) = some b := by
    simp only [Mem.byte, hp.1 va h]
    show mfind s.mem.hbm va = some b
    rw [hp.2.1 va hlt, hb]
  simp [State.readBytes, this]

/-- What stands in a page of memory is read: bytes, words, and an argument block. -/
theorem virt_step {s s1 : State} {dev dctx va key n pa : Nat} {b l : List Byte} (hx : s.xlate dev dctx va key false = .ok pa)
    (hb : s.readBytes (s.hbmPlace dev pa key) 1 = (b, s1)) (hr : s1.virtRead dev dctx (va + 1) key n = (some l, s1)) :
    s.virtRead dev dctx va key (n + 1) = (some (b ++ l), s1) := by
  rw [State.virtRead]
  simp only [hx, hb, hr]

theorem page_read {s : State} {bs : List Byte} (hp : Page s bs) (n : Nat) :
    ∀ va, va + n ≤ bs.length → s.virtRead 0 0 va 0 n = (some ((bs.drop va).take n), s) := by
  induction n with
  | zero => intro va _; rw [List.take_zero, State.virtRead]
  | succ n ih =>
    intro va h
    have hv : va < bs.length := by omega
    have hl := hp.2.2.2.2
    rw [virt_step (page_xlate hp.2.2.1 va (by omega)) (page_byte hp va (List.getElem?_eq_getElem hv)) (ih (va + 1) (by omega)), List.drop_eq_getElem_cons hv, List.take_succ_cons, List.singleton_append]

theorem bell_read {s : State} {bs : List Byte} (hp : Page s bs) (hk : (s.dc 0 0).key = 0)
    {va n : Nat} (h : va + 8 * n ≤ bs.length) : s.bellRead 0 0 va n = (some (wordsOf ((bs.drop va).take (8 * n)) n), s) := by
  unfold State.bellRead
  rw [hk, page_read hp _ _ h]

/-- The descriptors that words hold. -/
def descsOf (ws : List Word) : List Desc :=
  (List.range 16).map fun n => { w0 := ws.getD (4 * n) 0, w1 := ws.getD (4 * n + 1) 0, w2 := ws.getD (4 * n + 2) 0, w3 := ws.getD (4 * n + 3) 0 }

theorem args_read {s : State} {bs : List Byte} (hp : Page s bs) (hk : (s.dc 0 0).key = 0)
    {va : Nat} (h : va + 8 * 65 ≤ bs.length) {ws : List Word} (e : wordsOf ((bs.drop va).take (8 * 65)) 65 = ws) :
    s.argsAt 0 0 va = (some (descsOf ws, ws.getD 64 0), s) := by
  rw [State.argsAt, bell_read hp hk h, e]
  rfl

theorem mem_read (k : Queue) (bs : List Byte) (hl : bs.length ≤ 2048) {va n : Nat} (h : va + 8 * n ≤ bs.length) {ws : List Word}
    (e : wordsOf ((bs.drop va).take (8 * n)) n = ws) :
    (belMem k bs).bellRead 0 0 va n = (some ws, belMem k bs) ∧ (serving (belMem k bs) 0).bellRead 0 0 va n = (some ws, serving (belMem k bs) 0) := by
  subst e
  exact ⟨bell_read (s := belMem k bs) (page_of rfl rfl rfl hl) rfl h, bell_read (s := serving (belMem k bs) 0) (page_of rfl rfl rfl hl) rfl h⟩

theorem test_w_entry_take :
    (belSt Queue.zero).queue 0 = Queue.zero ∧ Queue.zero.en = false ∧
    (let k := { belQ 0 [] with tail := 40 }
     let s := belSt k
     s.queue 0 = k ∧ k.en = true ∧ (s.dc 0 0).live = true ∧ 2 ^ k.size < (k.tail + 2 ^ 32 - k.head) % 2 ^ 32) ∧
    (let k := { belQ 0 [] with tail := 2, base := atBit 1 47 }
     let s := belSt k
     s.queue 0 = k ∧ k.en = true ∧ (s.dc 0 0).live = true ∧ (s.dc 0 0).ending = false ∧ (k.tail + 2 ^ 32 - k.head) % 2 ^ 32 ≤ 2 ^ k.size ∧ k.takeable = true ∧ k.ctx = 0 ∧
       ∃ s1, s.bellRead 0 0 (k.addr + 128 * (k.head % 2 ^ k.size)) 16 = (none, s1)) ∧
    (belSt { belQ 0 [] with tail := 2 }).queue 0 = { belQ 0 [] with tail := 2 } ∧
    (let k := { belQ 0 [] with tail := 2 }
     let s := { belSt k with dctx := [] }
     s.queue 0 = k ∧ k.en = true ∧ (s.dc 0 0).live = false ∧ (k.tail + 2 ^ 32 - k.head) % 2 ^ 32 ≤ 2 ^ k.size) := by
  exact ⟨rfl, rfl, ⟨rfl, by decide, rfl, by decide⟩, ⟨rfl, by decide, rfl, rfl, by decide, by decide, rfl, _, none_pair (by decide +kernel)⟩, rfl, rfl, by decide, rfl, by decide⟩

/-- A state whose queue has an entry of a type to take. -/
def takeMem (ty : Nat) : List Byte := wordBytes (List.replicate 32 0 ++ atBit ty 56 :: List.replicate 15 0)
def takeSt (ty : Nat) : State := belMem { belQ 0 [] with tail := 2 } (takeMem ty)

theorem test_w_entry_read (ty : Nat) (h : ty = 12 ∨ ty = 13) :
    let k := (takeSt ty).queue 0
    k.en = true ∧ ((takeSt ty).dc 0 0).live = true ∧ ((takeSt ty).dc 0 0).ending = false ∧ (k.tail + 2 ^ 32 - k.head) % 2 ^ 32 ≤ 2 ^ k.size ∧ k.takeable = true ∧ k.ctx = 0 ∧
      k.addr + 128 * (k.head % 2 ^ k.size) = 256 ∧ (takeSt ty).bellRead 0 0 256 16 = (some (atBit ty 56 :: List.replicate 15 0), takeSt ty) ∧
      fld ((atBit ty 56 : Word) :: List.replicate 15 0 |>.getD 0 0) 63 56 = ty ∧ (entryEvent ty = none ↔ ty = 13) ∧ QueuesApart (takeSt ty) ∧
      ∀ x ∈ (takeSt ty).bel.qs, ∀ y ∈ x.2.ents, y.id < (takeSt ty).clk.tick := by
  have r (n : Nat) (hl : (takeMem n).length ≤ 2048) (h : 256 + 8 * 16 ≤ (takeMem n).length)
      (e : wordsOf (((takeMem n).drop 256).take (8 * 16)) 16 = atBit n 56 :: List.replicate 15 0) :=
    (mem_read { belQ 0 [] with tail := 2 } (takeMem n) hl h e).1
  rcases h with rfl | rfl
  · exact ⟨by decide, rfl, rfl, by decide, by decide, rfl, by decide, r 12 (by decide +kernel) (by decide +kernel) (by decide +kernel), by decide, by decide,
      by unfold QueuesApart; decide +kernel, by decide +kernel⟩
  · exact ⟨by decide, rfl, rfl, by decide, by decide, rfl, by decide, r 13 (by decide +kernel) (by decide +kernel) (by decide +kernel), by decide, by decide,
      by unfold QueuesApart; decide +kernel, by decide +kernel⟩

theorem test_w_entry_start_and_end :
    (let s := { belSt (belQ 0 [entE 0 []]) with bel := { Bel.zero with qs := [(0, belQ 0 [entE 0 []])], starts := [(0, 7)] } }
     s.bel.starts = [(0, 7)]) ∧
    (let e := { entE 0 [] with started := true, fin := some (0, 0) }
     let k := belQ 0 [e]
     let s := { belSt k with bel := { Bel.zero with qs := [(0, k)], dones := [(0, 7)] } }
     s.reviewEnds = s ∧ s.bel.dones = [(0, 7)] ∧ s.queue 0 = k ∧ k.ents.find? (fun x => x.id == 7) = some e ∧ e.fin = some (0, 0) ∧
       ∃ u, { s with bel := { s.bel with dones := [] } }.bellWrite 0 k.ctx (k.addr + 128 * (e.pos % 2 ^ k.size) + 120) (toBytes 8 (atBit 1 63 : Word).toNat) =
         some (true, u)) :=
  ⟨rfl, rfl, rfl, rfl, rfl, rfl, _, some_true s0 (by decide +kernel)⟩

theorem test_w_nop : Serves (belSt (belQ 0 [entE 0 []])) 0 0 (entE 0 []) [] := by unfold Serves Waits QueuesApart; decide +kernel

theorem test_w_signal :
    (let e := entE 7 [0x301, 5]
     Serves (belSt (belQ 0 [e])) 7 0 e [(1, wAll), (2, wAll)] ∧ (belSt (belQ 0 [e])).alone 0 e = true ∧ (0x301 : Word).toNat % 8 ≠ 0) ∧
    (let e := entE 7 [0x800000000000, 5]
     let s := belSt (belQ 0 [e])
     Serves s 7 0 e [(1, wAll), (2, wAll)] ∧ s.alone 0 e = true ∧ (serving s 0).bellWrite 0 0 0x800000000000 (toBytes 8 5) = none) ∧
    (let e := entE 7 [0x300, 5]
     let s := belSt (belQ 0 [e])
     Serves s 7 0 e [(1, wAll), (2, wAll)] ∧ s.alone 0 e = true ∧ ∃ u, (serving s 0).bellWrite 0 0 0x300 (toBytes 8 5) = some (true, u) ∧ u.bel = (serving s 0).bel) ∧
    (let e := { entE 7 [0x300, 5] with id := 8 }
     let s := belSt (belQ 0 [{ entE 0 [] with started := true }, e])
     Waits s 7 0 e [(1, wAll), (2, wAll)] ∧ s.alone 0 e = false) := by
  refine ⟨⟨?_, by decide +kernel, by decide⟩, ⟨?_, by decide +kernel, ?_⟩, ⟨?_, by decide +kernel, _, some_true s0 (by decide +kernel), by decide +kernel⟩,
    by unfold Waits QueuesApart; decide +kernel, by decide +kernel⟩
  · unfold Serves Waits QueuesApart; decide +kernel
  · unfold Serves Waits QueuesApart; decide +kernel
  · exact Option.isNone_iff_eq_none.mp (by decide +kernel)
  · unfold Serves Waits QueuesApart; decide +kernel

/-- A WAITVAL of 5 at 0x300, where a word stands. -/
def valE : QEnt := entE 8 [0x300, 5, 0]
def valMem (v : Word) : List Byte := wordBytes (List.replicate 96 0 ++ [v])

/-- The one entry that waits, where it is ready, is the one served. -/
theorem first_of {s : State} {q : Nat} {e : QEnt} (a : s.allWaiting = [(q, e)]) (r : s.ready q e = true) : s.first q e = true := by
  simp [State.first, a, r, State.nextServed]

theorem ready_val {s s1 : State} {q va : Nat} {e : QEnt} {x : List Word} (m : s.mayStart q e = true) (t : e.ty = 8) (hv : s.queueDev q = 0)
    (hq : (s.queue q).ctx = 0) (ha : (e.ws.getD 1 0).toNat = va) (h : s.bellRead 0 0 va 1 = (some x, s1))
    (c : waitvCond (fld (e.ws.getD 3 0) 2 0) (x.getD 0 0) (e.ws.getD 2 0) = true) : s.ready q e = true := by
  subst ha
  rw [State.ready, State.typeReady, m, if_neg (by simp [t]), if_neg (by simp [t]), if_pos t, hv, hq, h]
  simp only [c, Bool.or_true, Bool.and_true]

theorem test_w_waitval (v : Word) (hv : v = 5 ∨ v = 6) :
    let s := belMem (belQ 0 [valE]) (valMem v)
    Waits s 8 0 valE [(1, wAll), (2, wAll), (3, wLow 3)] ∧ (0x300 : Word).toNat % 8 = 0 ∧ fld (0 : Word) 2 0 < 6 ∧
      s.bellRead 0 0 0x300 1 = (some [v], s) ∧ (waitvCond 0 v 5 = true ↔ v = 5) ∧ (v = 5 → s.first 0 valE = true) := by
  have r (v : Word) (h : (valMem v).length ≤ 2048) (z : 0x300 + 8 * 1 ≤ (valMem v).length) (e : wordsOf (((valMem v).drop 0x300).take (8 * 1)) 1 = [v]) :=
    (mem_read (belQ 0 [valE]) (valMem v) h z e).1
  rcases hv with rfl | rfl
  · have h := r 5 (by decide +kernel) (by decide +kernel) (by decide +kernel)
    refine ⟨by unfold Waits QueuesApart; decide +kernel, by decide, by decide, h, by decide, fun _ => first_of (by decide +kernel) ?_⟩
    exact ready_val (va := 0x300) (by decide +kernel) rfl rfl rfl (by decide) h (by decide)
  · exact ⟨by unfold Waits QueuesApart; decide +kernel, by decide, by decide, r 6 (by decide +kernel) (by decide +kernel) (by decide +kernel), by decide,
      fun h => absurd h (by decide)⟩

theorem test_w_tinval (n : Nat) (hn : n < 2) :
    let e := entE 9 [0x300, 0x1000, atBit n 0]
    let s := belSt (belQ 0 [e])
    Serves s 9 0 e [(1, wAll), (2, wAll), (3, wLow 4)] ∧ (s.queue 0).ctx = 0 ∧ fld (atBit n 0) 3 0 = n ∧ (s.dc 0 n).live = true ∧
      s.accessIn 0 n (fun _ => true) = false := by
  obtain rfl | rfl : n = 0 ∨ n = 1 := by omega
  all_goals
    refine ⟨?_, by decide +kernel, by decide, by decide +kernel, by decide +kernel⟩
    unfold Serves Waits QueuesApart; decide +kernel

/-- A translation of the first page of context 1 in a cluster's cache, and an atomic that waits at a crucible for a byte of that page. -/
def usedS (e : QEnt) : State :=
  { belSt (belQ 0 [e]) with
    clus := [(0, { Cluster.zero with
      tlb := [{ dev := 0, dctx := 1, va := 0, size := 4096, ent := 3 }]
      crq := [(2, [{ h := none, rem := none, pl := .hbm 0 0, op := 0, fmt := 8, v := 5, cmp := 0 }])] })] }

theorem test_w_tinval_waits :
    let e := entE 9 [0x300, 0x1000, 1]
    let s := usedS e
    let hit (z : TlbEnt) : Bool := z.dev == 0 && z.dctx == 1 && z.va < 0x300 + 0x1000 && 0x300 < z.va + z.size
    let used := (s.clus.flatMap fun x => (x.2.tlb ++ x.2.old).filter hit) ++ s.host.apTlb.flatMap fun x => x.2.filter hit
    Serves s 9 0 e [(1, wAll), (2, wAll), (3, wLow 4)] ∧ (s.queue 0).ctx = 0 ∧ (s.dc 0 1).live = true ∧
      s.accessIn 0 1 (fun p => used.any fun z => s.inPage 0 z p) = true := by
  refine ⟨?_, by decide +kernel, by decide +kernel, by decide +kernel⟩
  unfold Serves Waits QueuesApart; decide +kernel

theorem test_w_faultreply (fid : Nat) (h : fid = 3 ∨ fid = 4) :
    let e := entE 10 [atBit fid 0, 1, 1]
    let s := belSt (belQ 0 [e])
    Serves s 10 0 e [(1, wLow 32), (2, wLow 1), (3, wLow 4)] ∧ (s.queue 0).ctx = 0 ∧ (s.dc 0 1).live = true ∧ fld (atBit fid 0) 31 0 = fid ∧
      (mfind (s.dc 0 1).susp 4 = none ∧ mfind (s.dc 0 1).susp 3 = some (.cmd 9)) ∧ s.resident 0 = some 1 ∧
      mfind s.cmds 9 = some { cmdOf (.copy 0) with susp := some 5 } := by
  rcases h with rfl | rfl
  all_goals
    refine ⟨?_, by decide +kernel, by decide +kernel, by decide, ⟨rfl, rfl⟩, by decide +kernel, rfl⟩
    unfold Serves Waits QueuesApart; decide +kernel

theorem test_w_timed_entries (ty n : Nat) (h : ty = 11 ∨ ty = 12) (hn : n < 2) :
    let e := entE ty [5000, atBit n 0]
    let s := belSt (belQ 0 [e])
    Serves s ty 0 e [(1, wAll), (2, wLow 4)] ∧ (s.queue 0).ctx = 0 ∧ fld (atBit n 0) 3 0 = n ∧ (s.dc 0 n).live = true := by
  obtain rfl | rfl : n = 0 ∨ n = 1 := by omega
  all_goals
    rcases h with rfl | rfl
    all_goals
      refine ⟨?_, by decide +kernel, by decide, by decide +kernel⟩
      unfold Serves Waits QueuesApart; decide +kernel

theorem test_w_entries_of_management :
    ∀ x ∈ [(1, [(1, wAll), (2, wLow 4)]), (2, [(2, wLow 4)]), (9, [(1, wAll), (2, wAll), (3, wLow 4)]), (10, [(1, wLow 32), (2, wLow 1), (3, wLow 4)]),
        (11, [(1, wAll), (2, wLow 4)]), (12, [(1, wAll), (2, wLow 4)])],
      Serves (belSt (belQ 1 [entE x.1 []])) x.1 0 (entE x.1 []) x.2 ∧ ((belSt (belQ 1 [entE x.1 []])).queue 0).ctx ≠ 0 := by
  unfold Serves Waits QueuesApart; decide +kernel

/-- A creation record: one axis of one member, key 1, PSPLIT 1, and the mesh table at 0x500. -/
def record (key : Nat) : List Word :=
  [atBit 1 0 ||| atBit key 48 ||| atBit 1 36, atBit 1 34 ||| atBit 5 42, 0x10000, 0x500, 0x6000, 0x7000] ++ List.replicate 10 0

/-- A state with a CREATE of context 2 and a record at 0x300. -/
def createMem (r : List Word) : List Byte := wordBytes (List.replicate 96 0 ++ r ++ List.replicate 48 0 ++ [0])
/-- A block of zeros. -/
def blank : List Byte := List.replicate 2048 0

theorem blank_get (j : Nat) (h : j < 2048) : blank[j]? = some 0 := by rw [blank, List.getElem?_replicate, if_pos h]
theorem blank_length : blank.length = 2048 := by rw [blank, List.length_replicate]

/-- The keys of that page, and of the two blocks from 0x10000 on. -/
def topKeys : SMap Nat :=
  ((List.range 32).map fun g => (g, 1)) ++ ((List.range 32).map fun g => (128 + g, 256 * 32 + 1)) ++
    (List.range 32).map fun g => (2 ^ 30 + 128 + g, 256 * 33 + 1)

/-- Such a page, and a page table at 0x10000 that has no valid entry. -/
def topMem (bs : List Byte) : Mem :=
  { pageMem bs with hbm := minss (minss (minss [] 0 bs) 8192 blank) (2 ^ 36 + 8192) blank, hbmKey := topKeys }
def createSt (r : List Word) : State := { belMem (belQ 0 [entE 1 [0x300, 2]]) [] with mem := topMem (createMem r) }

theorem top_key (b g k : Nat) (h : (b, k) ∈ [(0, 1), (128, 256 * 32 + 1), (2 ^ 30 + 128, 256 * 33 + 1)]) (hg : g < 32) :
    mget 0 topKeys (b + g) = k :=
  (by decide +kernel : ∀ x ∈ [(0, 1), (128, 256 * 32 + 1), (2 ^ 30 + 128, 256 * 33 + 1)], ∀ g < 32, mget 0 topKeys (x.1 + g) = x.2) (b, k) h g hg

theorem top_page {s : State} {bs : List Byte} (hm : s.mem = topMem bs) (hd : s.dieMode = 0) (hk : mfind s.keys 0 = none) (hl : bs.length ≤ 2048) :
    Page s bs := by
  refine ⟨fun va h => ?_, fun va h => ?_, hd, hk, hl⟩
  · rw [hm, Mem.keyOf, topMem]
    have := top_key 0 (va / 64) 1 (by decide) (by omega)
    rwa [Nat.zero_add] at this
  · rw [hm, topMem]
    simp only
    rw [mfind_minss, if_neg (by omega), mfind_minss, if_neg (by omega), mfind_minss, if_pos (by omega), Nat.sub_zero]

theorem top_byte {s : State} {bs : List Byte} (hm : s.mem = topMem bs) (hd : s.dieMode = 0) (hk : mfind s.keys 0 = none) (j : Nat) (h : j < 4096)
    (hl : bs.length ≤ 2048) : s.mem.byte (s.hbmPlace 0 (0x10000 + j) 0) = some 0 := by
  by_cases hj : j < 2048
  · have e : s.hbmPlace 0 (0x10000 + j) 0 = .hbm (8192 + j) (256 * 32) := by
      have : (0x10000 + j) / 2048 = 32 := by omega
      simp [State.hbmPlace, State.hbmAddr, State.seal, State.stacks, hd, hk, this]; omega
    have g := top_key 128 (j / 64) (256 * 32 + 1) (by decide) (by omega)
    have v : (8192 + j) / 64 = 128 + j / 64 := by omega
    rw [e, hm, Mem.byte, Mem.keyOf, topMem]
    simp only
    rw [v, g, if_pos rfl, mfind_minss, if_neg (by omega), mfind_minss, if_pos (by rw [blank_length]; omega), show 8192 + j - 8192 = j by omega,
      blank_get j hj]
  · have e : s.hbmPlace 0 (0x10000 + j) 0 = .hbm (2 ^ 36 + 8192 + (j - 2048)) (256 * 33) := by
      have : (0x10000 + j) / 2048 = 33 := by omega
      simp [State.hbmPlace, State.hbmAddr, State.seal, State.stacks, hd, hk, this]; omega
    have g := top_key (2 ^ 30 + 128) ((j - 2048) / 64) (256 * 33 + 1) (by decide) (by omega)
    have v : (2 ^ 36 + 8192 + (j - 2048)) / 64 = 2 ^ 30 + 128 + (j - 2048) / 64 := by omega
    rw [e, hm, Mem.byte, Mem.keyOf, topMem]
    simp only
    rw [v, g, if_pos rfl, mfind_minss, if_pos (by rw [blank_length]; omega), Nat.add_sub_cancel_left, blank_get _ (by omega)]

theorem top_clear {s : State} {bs : List Byte} (hm : s.mem = topMem bs) (hd : s.dieMode = 0) (hk : mfind s.keys 0 = none) (hl : bs.length ≤ 2048) :
    s.topBad 0 0x10000 = false := by
  rw [State.topBad, List.any_eq_false]
  intro k hk'
  have hk' : k < 512 := by simpa using hk'
  have : s.pteAt 0 (0x10000 + 8 * k) = 0 := by
    have h (i : Nat) (hi : i ∈ List.range 8) : (s.mem.byte (s.hbmPlace 0 (0x10000 + 8 * k + i) 0)).getD
        (Config.freePte (s.hbmAddr 0 (0x10000 + 8 * k + i)) s.clk.frees) = 0 := by
      have hi : i < 8 := by simpa using hi
      rw [Nat.add_assoc, top_byte hm hd hk (8 * k + i) (by omega) hl]; rfl
    unfold State.pteAt
    rw [List.map_congr_left h]
    decide
  simp [this, bitOf]

theorem test_w_create_record (r : List Word) (h : r = (record 1).set 6 1 ∨ r = record 9 ∨ r = record 1) :
    Serves (createSt r) 1 0 (entE 1 [0x300, 2]) [(1, wAll), (2, wLow 4)] ∧ ((createSt r).queue 0).ctx = 0 ∧
      (serving (createSt r) 0).bellRead 0 0 0x300 16 = (some r, serving (createSt r) 0) ∧ (recordReserved r = true ↔ r = (record 1).set 6 1) ∧
      ((serving (createSt r) 0).recordBad 0 2 r = true ↔ r = record 9) := by
  have q (ws : List Word) (p : (createMem ws).length ≤ 2048) (z : 0x300 + 8 * 16 ≤ (createMem ws).length)
      (e : wordsOf (((createMem ws).drop 0x300).take (8 * 16)) 16 = ws) : (serving (createSt ws) 0).bellRead 0 0 0x300 16 = (some ws, serving (createSt ws) 0) := by
    rw [bell_read (s := serving (createSt ws) 0) (top_page rfl rfl rfl p) rfl z, e]
  have f (ws : List Word) (p : (createMem ws).length ≤ 2048) (h : (ws.getD 2 0).toNat = 0x10000) : (serving (createSt ws) 0).topBad 0 (ws.getD 2 0).toNat = false := by
    rw [h]; exact top_clear (s := serving (createSt ws) 0) (bs := createMem ws) rfl rfl rfl p
  rcases h with rfl | rfl | rfl
  · exact ⟨by unfold Serves Waits QueuesApart; decide +kernel, rfl, q _ (by decide +kernel) (by decide +kernel) (by decide +kernel), by decide +kernel,
      by rw [State.recordBad, f _ (by decide +kernel) (by decide)]; decide +kernel⟩
  · exact ⟨by unfold Serves Waits QueuesApart; decide +kernel, rfl, q _ (by decide +kernel) (by decide +kernel) (by decide +kernel), by decide +kernel,
      by rw [State.recordBad, f _ (by decide +kernel) (by decide)]; decide +kernel⟩
  · exact ⟨by unfold Serves Waits QueuesApart; decide +kernel, rfl, q _ (by decide +kernel) (by decide +kernel) (by decide +kernel), by decide +kernel,
      by rw [State.recordBad, f _ (by decide +kernel) (by decide)]; decide +kernel⟩

theorem test_w_create_mesh :
    recordSizes ((record 1).getD 0 0) (fld ((record 1).getD 1 0) 35 34) = some [1, 1, 1] ∧
      ∃ bs, (serving (createSt (record 1)) 0).virtRead 0 0 ((record 1).getD 3 0).toNat 0 2 = (some bs, serving (createSt (record 1)) 0) ∧
      (∀ x ∈ (chunksOf 2 bs 2).map ofBytes, x < 2 ^ 14) ∧ twice ((chunksOf 2 bs 2).map ofBytes) = false ∧
      0 * 2048 + (createSt (record 1)).net.fpeer ∈ (chunksOf 2 bs 2).map ofBytes :=
  ⟨by decide, _, page_read (bs := createMem (record 1)) (top_page rfl rfl rfl (by decide +kernel)) 2 0x500 (by decide +kernel), by decide +kernel, by decide +kernel, by decide +kernel⟩

theorem test_w_create_unmapped :
    let e := entE 1 [0x800000000000, 2]
    let s := belSt (belQ 0 [e])
    Serves s 1 0 e [(1, wAll), (2, wLow 4)] ∧ (s.queue 0).ctx = 0 ∧ ∃ u, (serving s 0).bellRead 0 0 0x800000000000 16 = (none, u) :=
  ⟨by unfold Serves Waits QueuesApart; decide +kernel, by decide +kernel, _, none_pair (by decide +kernel)⟩

theorem test_w_destroy :
    (let e := entE 2 [0, 0]
     Serves (belSt (belQ 0 [e])) 2 0 e [(2, wLow 4)]) ∧
    (let e := entE 2 [0, 1]
     let s := { belSt (belQ 0 [e]) with res := [] }
     Serves s 2 0 e [(2, wLow 4)] ∧ (s.dc 0 1).live = true ∧ s.resident 0 ≠ some 1 ∧ ∀ x ∈ s.queuesOf 0 1, x.2.ents = []) := by
  unfold Serves Waits QueuesApart; decide +kernel

/-- A descriptor whose rows stand four granules apart. -/
def bxw (lvl fmt acc base e0 : Nat) : Desc :=
  { bxd lvl fmt acc base e0 2 with w2 := atBit 4 0, w3 := atBit acc 43 ||| atBit lvl 41 ||| atBit 1 39 ||| atBit fmt 34 ||| atBit 1 33 }

/-- The words of an argument block with boxes 0 to 2, and the last a counter. -/
def argBlock : List Word :=
  ([bxw 3 7 2 0x4000 16, bxw 3 7 2 0x6000 16, bxw 3 11 2 0x8000 8].flatMap fun b => [b.w0, b.w1, b.w2, b.w3]) ++ List.replicate 53 0

/-- Memory with an argument block at 0x300. -/
def argMem : List Byte := wordBytes (List.replicate 96 0 ++ argBlock)
def argDescs : List Desc := descsOf argBlock

theorem args_here {s : State} (hp : Page s argMem) (hk : (s.dc 0 0).key = 0) : s.argsAt 0 0 0x300 = (some (argDescs, 0), s) := by
  rw [args_read (ws := argBlock) hp hk (by decide +kernel) (by decide +kernel)]
  rfl

/-- A state with a CONV of a demand. -/
def convE (dem : Word) : QEnt := entE 6 [0, 0, 0x300, dem]
def convS (dem : Word) : State := belMem (belQ 0 [convE dem]) argMem
def convBox : Desc := argDescs.getD 0 Desc.none

theorem test_w_conv (dem : Word) (h : dem = atBit 1 15 ∨ dem = atBit 1 12 ||| atBit 4 0 ∨ dem = atBit 1 12 ||| atBit 0 0) :
    let u := serving (convS dem) 0
    let p := u.entry 0 0 convBox
    Serves (convS dem) 6 0 (convE dem) [(2, wLow 4), (3, wAll), (4, wAll)] ∧ ((convS dem).queue 0).ctx = 0 ∧
      u.argsAt 0 0 0x300 = (some (argDescs, 0), u) ∧ u.boxOk 0 0 convBox = true ∧ (u.dc 0 0).mirrorRoom argDescs = true ∧ (0x300 : Word).toNat % 8 = 0 ∧ p.cip = false ∧ p.cur = 0x444 ∧
      (dem = atBit 1 15 → ∃ x, demandCheck (u.dc 0 0).msh convBox p dem true = .error x) ∧
      (dem = atBit 1 12 ||| atBit 4 0 → demandCheck (u.dc 0 0).msh convBox p dem true = .ok p.cur) ∧
      (dem = atBit 1 12 ||| atBit 0 0 → demandCheck (u.dc 0 0).msh convBox p dem true = .ok 0x440) ∧ u.membersUp (u.dc 0 0) p 1 0x440 = true := by
  have hb : convBox = bxw 3 7 2 0x4000 16 := by decide +kernel
  rw [hb]
  rcases h with rfl | rfl | rfl
  all_goals
    refine ⟨by unfold Serves Waits QueuesApart; decide +kernel, rfl, args_here (page_of rfl rfl rfl (by decide +kernel)) rfl, by decide +kernel, by decide +kernel, by decide, by decide +kernel, by decide +kernel, ?_, ?_, ?_, by decide +kernel⟩
    · intro h; first | exact ⟨_, rfl⟩ | exact absurd h (by decide)
    · intro h; first | rfl | exact absurd h (by decide)
    · intro h; first | rfl | exact absurd h (by decide)

theorem test_w_conv_without_box :
    let l := argDescs.set 0 (bxw 0 7 2 0x4000 16)
    let u := serving (convS 0) 0
    l.length = 16 ∧ u.boxOk 0 0 (l.getD 1 Desc.none) = true ∧ u.boxOk 0 0 Desc.none = false := by decide +kernel

theorem test_w_conv_misaligned :
    let e := entE 6 [0, 0, 0x301]
    Serves (belSt (belQ 1 [e])) 6 0 e [(2, wLow 4), (3, wAll), (4, wAll)] ∧ (0x301 : Word).toNat % 8 ≠ 0 := by
  unfold Serves Waits QueuesApart; decide +kernel

/-- A state with a COLL over channel 1 of the context. -/
def collE : QEnt := entE 5 [0, 0, 0x300, 0, atBit 129 0, 0, 0, atBit 1 12 ||| atBit 2 16, 0, 0, atBit 8 0 ||| atBit 8 32, 0]
def collS : State := belMem (belQ 0 [collE]) argMem
def collX : Except Bad Coll := collOf (serving collS 0) 0 0 (argsCtx 0 0 argDescs).box 0 (fun n => collE.ws.getD (8 + n) 0) 1

theorem test_w_coll :
    Serves collS 5 0 collE ([(2, wLow 10), (3, wAll), (5, wAll)] ++ (List.range 5).map fun k => (8 + k, wAll)) ∧ (collS.queue 0).ctx = 0 ∧
      (serving collS 0).argsAt 0 0 0x300 = (some (argDescs, 0), serving collS 0) ∧ chanByte (atBit 129 0) 0 = some 1 ∧
      ∃ x, collX = .ok x ∧ (serving collS 0).collRunsBad x (argsCtx 0 0 argDescs) (atBit 1 12 ||| atBit 2 16) = none ∧
        ((serving collS 0).dc 0 0).mirrorRoom argDescs = true := by
  refine ⟨by unfold Serves Waits QueuesApart; decide +kernel, rfl, args_here (page_of rfl rfl rfl (by decide +kernel)) rfl, by decide, ?_⟩
  have h : (match collX with
    | .ok x => (serving collS 0).collRunsBad x (argsCtx 0 0 argDescs) (atBit 1 12 ||| atBit 2 16) == none
    | .error _ => false) = true := by decide +kernel
  cases e : collX with
  | error _ => rw [e] at h; cases h
  | ok x => rw [e] at h; exact ⟨x, rfl, by simpa using h, by decide +kernel⟩

theorem test_w_coll_misaligned :
    let e := entE 5 [0, 0, 0x301]
    Serves (belSt (belQ 1 [e])) 5 0 e ([(2, wLow 10), (3, wAll), (5, wAll)] ++ (List.range 5).map fun k => (8 + k, wAll)) ∧ (0x301 : Word).toNat % 8 ≠ 0 := by
  unfold Serves Waits QueuesApart; decide +kernel

/-- An image at 0x100 whose first task has level 2 and no boxes, and an argument block of zeros at 0x300. -/
def imgHead : List Word := [0x31495654, atBit 1 48 ||| atBit 1 40 ||| atBit 2 0, atBit 0x28 0 ||| atBit 1 32, atBit 0x800 0 ||| atBit 64 32, 0]
def imgTask : List Word := 2 :: List.replicate 41 0
def launchMem : List Byte := wordBytes (List.replicate 32 0 ++ imgHead ++ imgTask ++ List.replicate 17 0 ++ List.replicate 65 0)

/-- The words of a launch of it, and of one whose image is not there. -/
def launchW (ty img : Nat) : List Word := [atBit ty 56, BitVec.ofNat 64 img, 0, 0x300] ++ List.replicate 12 0
def launchE (ty img : Nat) : QEnt := entE ty ([BitVec.ofNat 64 img, 0, 0x300] ++ List.replicate 12 0)

/-- What it names. -/
def launchI : LaunchInfo := { lvl := 2, tws := imgTask, boxes := List.replicate 16 Desc.none, cbase := 0x900, csize := 64, chan := [] }

/-- A launch whose reads come out as given, for a task without boxes to zero, passes. -/
theorem launch_ok {s : State} {ws hd tws : List Word} {raw bx : List Desc} {reloc : Word} {i : LaunchInfo}
    (a : s.bellRead 0 0 (ws.getD 1 0).toNat 5 = (some hd, s)) (m : ¬ (hd.getD 0 0 ≠ 0x31495654 ∨ fld (ws.getD 2 0) 15 0 ≥ fld (hd.getD 2 0) 63 32))
    (b : s.bellRead 0 0 ((ws.getD 1 0).toNat + fld (hd.getD 2 0) 31 0 + 336 * fld (ws.getD 2 0) 15 0) 42 = (some tws, s))
    (l : ¬ (fld (tws.getD 0 0) 1 0 < 2 ∨ (ws.getD 3 0).toNat % 8 ≠ 0)) (c : s.argsAt 0 0 (ws.getD 3 0).toNat = (some (raw, reloc), s))
    (e : raw.zipIdx.map (fun x => relocated (ws.getD 1 0) (fld (hd.getD 4 0) 31 0) reloc x.1 x.2) = bx)
    (n : ¬ (fld reloc 63 16 ≠ 0 ∨ (!(List.range 16).all fun n => s.slotOk 0 0 tws (fld (tws.getD 0 0) 1 0) (raw.getD n Desc.none) (bx.getD n Desc.none) reloc n) = true ∨
      (!stampOk (hd.getD 1 0) (s.dc 0 0).hmr) = true ∨ (!(List.range 8).all (chanOk (s.dc 0 0) tws (ws.getD 5 0))) = true ∨
      (ws.getD 6 0 &&& ~~~(sregMask 0x020)) ≠ 0 ∨ (!(s.dc 0 0).mirrorRoom bx) = true))
    (z : zeroed bx = [])
    (h : i = LaunchInfo.mk (fld (tws.getD 0 0) 1 0) tws bx (ws.getD 1 0 + BitVec.ofNat 64 (fld (hd.getD 3 0) 31 0)) (fld (hd.getD 3 0) 63 32)
      ((List.range 8).foldl (fun m k => if (chanDecl tws k).isSome then mput 0 m k (fld (ws.getD 5 0) (8 * k + 5) (8 * k) + 1) else m) [])) :
    s.launchInfo 0 0 ws = (.ok i, s) := by
  rw [State.launchInfo]
  simp only [a, if_neg m, b, if_neg l, c, e]
  rw [if_neg n, if_neg (by rw [z]; simp), h]

theorem launch_here {s : State} (hp : Page s launchMem) (hk : (s.dc 0 0).key = 0) (hr : (s.dc 0 0).mirror = [])
    {ws : List Word} (h1 : ws.getD 1 0 = 0x100) (h2 : ws.getD 2 0 = 0) (h3 : ws.getD 3 0 = 0x300) (h5 : ws.getD 5 0 = 0) (h6 : ws.getD 6 0 = 0) :
    s.launchInfo 0 0 ws = (.ok launchI, s) ∧ s.launchLevel 0 0 ws = (some 2, s) := by
  have a : s.bellRead 0 0 (0x100 : Word).toNat 5 = (some imgHead, s) := by
    rw [bell_read hp hk (by decide +kernel), show wordsOf ((launchMem.drop (0x100 : Word).toNat).take (8 * 5)) 5 = imgHead by decide +kernel]
  have b : s.bellRead 0 0 ((0x100 : Word).toNat + fld (imgHead.getD 2 0) 31 0 + 336 * fld (0 : Word) 15 0) 42 = (some imgTask, s) := by
    rw [bell_read hp hk (by decide +kernel),
      show wordsOf ((launchMem.drop ((0x100 : Word).toNat + fld (imgHead.getD 2 0) 31 0 + 336 * fld (0 : Word) 15 0)).take (8 * 42)) 42 = imgTask by decide +kernel]
  have b1 : s.bellRead 0 0 ((0x100 : Word).toNat + fld (imgHead.getD 2 0) 31 0 + 336 * fld (0 : Word) 15 0) 1 = (some [2], s) := by
    rw [bell_read hp hk (by decide +kernel),
      show wordsOf ((launchMem.drop ((0x100 : Word).toNat + fld (imgHead.getD 2 0) 31 0 + 336 * fld (0 : Word) 15 0)).take (8 * 1)) 1 = [2] by decide +kernel]
  have c : s.argsAt 0 0 (0x300 : Word).toNat = (some (List.replicate 16 Desc.none, 0), s) :=
    (args_read (ws := List.replicate 65 0) hp hk (by decide +kernel) (by decide +kernel)).trans (by rw [show descsOf (List.replicate 65 0) = List.replicate 16 Desc.none by decide]; rfl)
  have m : ¬ (imgHead.getD 0 0 ≠ 0x31495654 ∨ fld (0 : Word) 15 0 ≥ fld (imgHead.getD 2 0) 63 32) := by decide
  constructor
  · have y : ∀ d : DCtx, (List.range 8).all (chanOk d imgTask 0) = true := fun d => rfl
    have x : ∀ d : DCtx, newMirrors d (List.replicate 16 Desc.none) = [] := fun d => rfl
    have w : ∀ h : Word, stampOk (imgHead.getD 1 0) h = true := fun h => rfl
    have v : ((List.range 16).all fun n => s.slotOk 0 0 imgTask (fld (imgTask.getD 0 0) 1 0) ((List.replicate 16 Desc.none).getD n Desc.none)
        ((List.replicate 16 Desc.none).getD n Desc.none) 0 n) = true := by
      have d : ∀ n < 16, boxDecl imgTask n = none ∧ ((List.replicate 16 Desc.none).getD n Desc.none == Desc.none && !bitOf 0 n) = true := by decide +kernel
      rw [List.all_eq_true]
      intro n hn
      obtain ⟨h1, h2⟩ := d n (List.mem_range.mp hn)
      rw [State.slotOk, h1]
      exact h2
    refine launch_ok (ws := ws) (hd := imgHead) (tws := imgTask) (raw := List.replicate 16 Desc.none) (bx := List.replicate 16 Desc.none) (reloc := 0)
      (by rw [h1]; exact a) (by rw [h2]; exact m) (by rw [h1, h2]; exact b) (by rw [h3]; decide) (by rw [h3]; exact c) (by rw [h1]; decide) ?_ rfl ?_
    · rw [h5, h6, v, w, y, DCtx.mirrorRoom, x, hr]; decide
    · rw [h1, h5]
      rw [show fld (imgTask.getD 0 0) 1 0 = 2 by decide, show (0x100 : Word) + BitVec.ofNat 64 (fld (imgHead.getD 3 0) 31 0) = 0x900 by decide,
        show fld (imgHead.getD 3 0) 63 32 = 64 by decide,
        show (List.range 8).foldl (fun (m : SMap Nat) k => if (chanDecl imgTask k).isSome then mput 0 m k (fld (0 : Word) (8 * k + 5) (8 * k) + 1) else m) [] = [] by decide +kernel]
      rfl
  · rw [State.launchLevel, h1, h2, a]
    show (if imgHead.getD 0 0 ≠ 0x31495654 ∨ fld (0 : Word) 15 0 ≥ fld (imgHead.getD 2 0) 63 32 then _ else _) = _
    rw [if_neg m, b1]
    rfl

/-- A state with a launch of a type. -/
def launchS (ty img : Nat) : State := belMem (belQ 0 [launchE ty img]) launchMem

theorem launch_bad {s : State} (hp : Page s launchMem) (hk : (s.dc 0 0).key = 0) {ws : List Word} (h1 : ws.getD 1 0 = 0) :
    s.launchInfo 0 0 ws = (.error 1, s) ∧ s.launchLevel 0 0 ws = (none, s) := by
  have a : s.bellRead 0 0 (ws.getD 1 0).toNat 5 = (some (List.replicate 5 0), s) := by
    rw [h1, bell_read hp hk (by decide +kernel), show wordsOf ((launchMem.drop (0 : Word).toNat).take (8 * 5)) 5 = List.replicate 5 0 by decide +kernel]
  have m : (List.replicate 5 (0 : Word)).getD 0 0 ≠ 0x31495654 ∨ fld (ws.getD 2 0) 15 0 ≥ fld ((List.replicate 5 (0 : Word)).getD 2 0) 63 32 := Or.inl (by decide)
  constructor
  · rw [State.launchInfo]; simp only [a]; rw [if_pos m]
  · rw [State.launchLevel, a]
    show (if (List.replicate 5 (0 : Word)).getD 0 0 ≠ 0x31495654 ∨ fld (ws.getD 2 0) 15 0 ≥ fld ((List.replicate 5 (0 : Word)).getD 2 0) 63 32 then _ else _) = _
    rw [if_pos m]

theorem launch_ready (ty img : Nat) {e : QEnt} {x : Except Nat LaunchInfo} (hs : e.stage / 8 % 2 = 0) (hc : (launchS ty img).childDue = false)
    (hi : (launchS ty img).launchInfo 0 0 e.ws = (x, launchS ty img)) (hp : ((launchS ty img).placeTask 0 ((launchS ty img).queue 0).nextDie).isSome = true)
    (hq : ((launchS ty img).queue 0).ctx = 0) (hv : (launchS ty img).queueDev 0 = 0) : (launchS ty img).launchReady 0 e = true := by
  rw [State.launchReady, if_neg (by simp [hs, hc])]
  simp only [hv, hq, hi]
  cases x
  · rfl
  · simp only [hp, Bool.or_true]

theorem ready_launch {s : State} {q : Nat} {e : QEnt} (m : s.mayStart q e = true) (t : e.ty = 3 ∨ e.ty = 4) (r : s.launchReady q e = true) :
    s.ready q e = true := by
  rw [State.ready, State.typeReady, m, if_pos t, r, Bool.or_true, Bool.and_true]

theorem launch_page (s : State) (hm : s.mem = pageMem launchMem) (hd : s.dieMode = 0) (hk : mfind s.keys 0 = none) : Page s launchMem :=
  page_of hm hd hk (by decide +kernel)

theorem test_w_launches :
    ∀ y ∈ launches,
      (Serves (launchS y.1 0x100) y.1 0 (launchE y.1 0x100) (launchUse y.2.2) ∧
        (serving (launchS y.1 0x100) 0).launchLevel 0 0 (launchE y.1 0x100).ws = (some 2, serving (launchS y.1 0x100) 0) ∧
        (serving (launchS y.1 0x100) 0).launchInfo 0 0 (launchE y.1 0x100).ws = (.ok launchI, serving (launchS y.1 0x100) 0) ∧
        ∃ h, (serving (launchS y.1 0x100) 0).placeTask 0 ((launchS y.1 0x100).queue 0).nextDie = some h) ∧
      (Serves (launchS y.1 0) y.1 0 (launchE y.1 0) (launchUse y.2.2) ∧
        (serving (launchS y.1 0) 0).launchLevel 0 0 (launchE y.1 0).ws = (none, serving (launchS y.1 0) 0) ∧
        (serving (launchS y.1 0) 0).launchInfo 0 0 (launchE y.1 0).ws = (.error 1, serving (launchS y.1 0) 0)) ∧
      ((launchAt (launchE y.1 0x100).ws).isSome = true ↔ y.1 = 4) := by
  have ok (s : State) (ty : Nat) (hp : Page s launchMem) (hk : (s.dc 0 0).key = 0) (hr : (s.dc 0 0).mirror = []) :=
    launch_here hp hk hr (ws := (launchE ty 0x100).ws) rfl rfl rfl rfl rfl
  have no (s : State) (ty : Nat) (hp : Page s launchMem) (hk : (s.dc 0 0).key = 0) := launch_bad hp hk (ws := (launchE ty 0).ws) rfl
  refine List.forall_mem_cons.mpr ⟨?_, List.forall_mem_cons.mpr ⟨?_, List.forall_mem_nil _⟩⟩
  all_goals
    refine ⟨⟨⟨by unfold Waits QueuesApart; decide +kernel, first_of (by decide +kernel) (ready_launch (by decide +kernel) (by decide)
        (launch_ready _ _ rfl (by decide +kernel) (ok _ _ (launch_page _ rfl rfl rfl) rfl rfl).1 (by decide +kernel) rfl rfl))⟩,
      (ok _ _ (launch_page _ rfl rfl rfl) rfl rfl).2, (ok _ _ (launch_page _ rfl rfl rfl) rfl rfl).1, Option.isSome_iff_exists.mp (by decide +kernel)⟩,
      ⟨⟨by unfold Waits QueuesApart; decide +kernel, first_of (by decide +kernel) (ready_launch (by decide +kernel) (by decide)
        (launch_ready _ _ rfl (by decide +kernel) (no _ _ (launch_page _ rfl rfl rfl) rfl).1 (by decide +kernel) rfl rfl))⟩,
      (no _ _ (launch_page _ rfl rfl rfl) rfl).2, (no _ _ (launch_page _ rfl rfl rfl) rfl).1⟩, by decide⟩

/-- The messages of a launch: to check, to reserve, and the reports of a member. -/
def goPk (go img : Nat) : Pkt := { pk with flux := .launch go 7 0 3 true (launchW 3 img) }

theorem test_w_launch_messages :
    (launchS 3 0x100).peerUp 5 = true ∧ ((launchS 3 0x100).dc 0 0).live = true ∧
    (∃ i u, (launchS 3 0x100).launchInfo 0 0 (launchW 3 0x100) = (.ok i, u)) ∧ (∃ st u, (launchS 3 0x100).launchInfo 0 0 (launchW 3 0) = (.error st, u)) ∧
    (goPk 1 0x100).src ≠ (launchS 3 0x100).net.fpeer ∧ (launchS 3 0x100).resident 0 = some 0 ∧ ((launchS 3 0x100).partOf 0).asked = false ∧
    (∃ h, (launchS 3 0x100).placeTask 0 ((launchS 3 0x100).peerDie (goPk 1 0x100) 0 true) = some h) :=
  ⟨by decide +kernel, by decide +kernel, ⟨_, _, (launch_here (s := launchS 3 0x100) (launch_page _ rfl rfl rfl) rfl rfl rfl rfl rfl rfl rfl).1⟩,
    ⟨_, _, (launch_bad (s := launchS 3 0x100) (launch_page _ rfl rfl rfl) rfl rfl).1⟩, by decide +kernel, by decide +kernel, by decide +kernel, Option.isSome_iff_exists.mp (by decide +kernel)⟩

/-- A state whose context 0 has member 0 of peer 5 as its only member. -/
def awayS : State := (belSt (belQ 0 [entE 3 []])).modDc 0 0 fun d => { d with mtab := [(0, 5)] }

theorem test_w_member_reports :
    (let p : Pkt := { pk with flux := .report 7 1 2 9 }
     awayS.peerUp p.src = true ∧ p.flux = .report 7 1 2 9) ∧
    (let p : Pkt := { pk with flux := .report 7 0 2 9 }
     awayS.peerUp p.src = true ∧ QueuesApart awayS ∧ mfind awayS.bel.qs 0 = some (belQ 0 [entE 3 []]) ∧ (entE 3 []).started = false ∧ (entE 3 []).fin = none ∧
      (entE 3 []).checks = [] ∧ (0, 7) ∉ awayS.bel.starts ∧ (awayS.dc 0 0).members = [(p.src, p.ssub)]) := by
  refine ⟨⟨by decide +kernel, rfl⟩, by decide +kernel, ?_, rfl, rfl, rfl, rfl, by decide +kernel, by decide +kernel⟩
  unfold QueuesApart; decide +kernel

/-- A state in which the task of a launch is to start on context 4. -/
def startV : Resv := { ent := 7, lead := 0, dev := 0, dctx := 0, ws := launchW 3 0x100, at' := none }
def startS : State := { launchS 3 0x100 with bel := { (launchS 3 0x100).bel with tasks := [4], launch := [(4, startV)] } }

theorem test_w_task_start :
    s0.bel.tasks = [] ∧ startS.bel.tasks = [4] ∧ mfind startS.bel.launch 4 = some startV ∧ startS.resident startV.dev = some startV.dctx ∧
      (startS.partOf startV.dev).halt = false ∧ startS.launchInfo startV.dev startV.dctx startV.ws = (.ok launchI, startS) ∧
      (zeroed launchI.boxes).map (startS.zeroWrites startV.dev startV.dctx) = ([] : List (List (Place × List Byte × Option Tag))).map some ∧
      startS.mirroredAll [] = (true, startS) ∧ launchI.boxes.length = 16 :=
  ⟨rfl, rfl, rfl, by decide +kernel, by decide +kernel, (launch_here (s := startS) (launch_page _ rfl rfl rfl) rfl rfl rfl rfl rfl rfl rfl).1, rfl, rfl, rfl⟩

/-- A started launch whose clock has run for a time of 3 µs, and its queue with limits of 1, 2 and 3 µs. -/
def lateE : QEnt := { entE 3 [] with started := true, clk := 4000, since := some 900 }
def lateS (two : Bool) : State :=
  let k := { belQ 1 [lateE] with lim := atBit 1 0 ||| atBit 2 32, lim3 := atBit 3 0 }
  let s := { belSt k with hw := [(0, { tc with task := some { tk 2 with dctx := 1, queue := some 7 } })] }
  if two then s.modDc 0 1 fun d => { d with msh := atBit 1 34 ||| atBit 1 22 ||| atBit 1 11 ||| atBit 2 0, mtab := [(1, 5)] } else s

theorem test_w_quench :
    ((belSt Queue.zero).queue 0).clocked = none ∧
    (∀ two, (((lateS two).queue 0).clocked = some lateE ∧ lateE.since = some 900 ∧ lateE.checks = []) ∧
      (∀ n < 3, ((lateS two).queue 0).limits.getD n 0 ≠ 0 ∧ ((lateS two).queue 0).limits.getD n 0 * 1100 + 1 ≤ lateE.clk + ((lateS two).clk.wall - 900) ∧ lateE.stage / 2 ^ n % 2 = 0) ∧
      ((lateS two).partOf 0).asked = false ∧ (1 < ((lateS two).dc 0 ((lateS two).queue 0).ctx).members.length ↔ two = true) ∧
      0 ∈ (lateS two).runners 0 0 lateE.id ∧ ((lateS two).ctx 0).fin = none ∧ (lateS two).mem.wf = true) ∧
    ({ lateS false with hw := [] } : State).runners 0 0 lateE.id = [] := by
  refine ⟨rfl, fun two => ?_, by decide +kernel⟩
  cases two <;> exact ⟨by decide +kernel, by decide +kernel, by decide +kernel, by decide +kernel, by decide +kernel, by decide +kernel, by decide +kernel⟩

/-- R376: the clock of R324 stops while the task's context is stopped for debug, and counts on from there once it is released. -/
def stoppedS : State := (lateS false).modCtx 0 fun c => { c with dbg := { c.dbg with stop := true } }

theorem test_quench_clock_stops :
    (((stoppedS.paceQuench).queue 0).ents.map fun e => (e.clk, e.since)) = [(4000 + (stoppedS.clk.wall - 900), none)] ∧
    ((((stoppedS.paceQuench).modCtx 0 fun c => { c with dbg := { c.dbg with stop := false } }).paceQuench.queue 0).ents.map fun e => (e.clk, e.since)) =
      [(4000 + (stoppedS.clk.wall - 900), some stoppedS.clk.wall)] ∧
    (lateS false).paceQuench = lateS false := by decide +kernel

/-! The host interface. -/

/-- A host interface whose port 0 carries requests; function 0 has the management registers, function 1 does not, and both serve device 0. -/
def hostF (x : Fn) : HostSt :=
  { fns := [(0, { x with fctl := 0x88 }), (1, { Fn.zero with fctl := 0x08 })], ports := [(0, { up := true, fail := false, flit := true, width := 16, rate := 6 })], apTlb := [] }

/-- A state with it, and with queue 1 as given; the tables of context 1 map its first page. -/
def hostS (x : Fn) (k : Queue) : State :=
  { s0 with
    host := hostF x, bel := { Bel.zero with qs := [(1, k)] },
    mem := ((State.reset.mem.write (s0.hbmPlace 0 0 0) (toBytes 8 0x1001)).write (s0.hbmPlace 0 0x1000 0) (toBytes 8 0x2001)).write (s0.hbmPlace 0 0x2000 0) (toBytes 8 7),
    dctx := [(0, s0.dc 0 0), (1, { DCtx.zero with live := true, chan := [(1, (atBit 1 63, 0))] })] }

/-- A write of eight bytes to a register. -/
def wrR (fn off : Nat) (v : Word) : RegWr := { port := 0, fn := fn, off := off, n := 8, val := v, id := 1 }

theorem test_w_register_halves : { wrR 0 0x44 5 with n := 4 }.n = 4 ∧ { wrR 0 0x44 5 with n := 4 }.off % 8 ≠ 0 ∧ (wrR 0 0x40 5).n = 8 := by decide

theorem test_w_queue_registers :
    (hostS Fn.zero Queue.zero).regQueue (wrR 0 0x2000 5) = none ∧ (hostS Fn.zero Queue.zero).regQueue (wrR 1 0x40 5) = some 1 ∧
    ((hostS Fn.zero Queue.zero).fnMgt (regFn (wrR 1 0x40 5)) = false ∧ ((hostS Fn.zero Queue.zero).queue 1).ctx = 0) ∧
    (hostS Fn.zero (belQ 1 [])).regQueue (wrR 0 0x40 5) = some 1 ∧
    ((hostS Fn.zero (belQ 1 [])).fnMgt (regFn (wrR 0 0x40 5)) = true ∧ ((hostS Fn.zero (belQ 1 [])).queue 1).en = true) ∧
    (∀ n ∈ [3, 4, 16, 17], let w := wrR 0 0x40 (atBit 1 0 ||| atBit n 40)
      (hostS Fn.zero Queue.zero).regQueue w = some 1 ∧ (hostS Fn.zero Queue.zero).fnMgt (regFn w) = true ∧ ((hostS Fn.zero Queue.zero).queue 1).en = false ∧
        bitOf ((hostS Fn.zero Queue.zero).regNew w) 0 = true ∧ fld ((hostS Fn.zero Queue.zero).regNew w) 47 40 = n) ∧
    (∀ o ∈ [8, 32, 40], (hostS Fn.zero Queue.zero).regQueue (wrR 0 (0x40 + o) 5) = some 1 ∧ regOff (wrR 0 (0x40 + o) 5) % 64 = o) := by
  decide +kernel

theorem test_w_window_registers :
    (∀ n ∈ [15, 16, 31], let w := wrR 0 0x1108 (atBit 1 0 ||| atBit n 1 ||| atBit 1 36 ||| atBit 9 48)
      let s := hostS Fn.zero Queue.zero
      regFn w < 8 ∧ (regOff w - 0x1100) / 8 = 1 ∧ mkeysFrom none (s.fn (regFn w)).apw = true ∧ fld (s.regNew w) 5 1 = n ∧ fld (s.regNew w) 39 36 = 1 ∧
        (s.fnDc (regFn w) 1).live = true) ∧
    bitOf (regMerge 0 (wrR 0 0x1018 (atBit 1 63))) 63 = true ∧ bitOf (regMerge 0 (wrR 0 0x1018 5)) 63 = false := by
  decide +kernel

theorem test_w_channel_registers :
    (let w := wrR 0 0x20410 (atBit 1 63)
     let s := hostS Fn.zero Queue.zero
     s.fnDev (regFn w) = some 0 ∧ s.fnMgt (regFn w) = true ∧ (regOff w - 0x20000) / 1024 = 1 ∧ regOff w % 1024 / 16 = 1 ∧ regOff w % 16 = 0 ∧
       s.chanBound 0 1 1 = false ∧ bitOf (s.regNew w) 63 = true ∧ fld (s.regNew w) 62 61 = 0) ∧
    (let s := { hostS Fn.zero Queue.zero with res := [(0, 2)], hw := [(0, { tc with task := some { tk 2 with dctx := 1, chan := [(0, 2)] } })] }
     s.chanBound 0 1 1 = true) := by
  decide +kernel

theorem test_w_vector_registers :
    (∀ b < 2, let w := wrR 0 0x2018 (atBit b 32)
      let s := hostS { Fn.zero with pend := [(1, true)] } Queue.zero
      regFn w < 8 ∧ (regOff w - 0x2000) / 16 = 1 ∧ (bitOf (s.regNew w) 32 = true ↔ b = 1) ∧ mget false (s.fn (regFn w)).pend 1 = true ∧
        mkeysFrom none (s.fn (regFn w)).unmask = true ∧ mkeysFrom none (s.fn (regFn w)).pend = true) ∧
    (let w := wrR 0 0x18308 0
     (hostS Fn.zero Queue.zero).fnMgt (regFn w) = true ∧ (regOff w - 0x18300) / 8 = 1 ∧ mkeysFrom none (hostS Fn.zero Queue.zero).mgt.errs = true ∧ w.val = 0) ∧
    (wrR 0 0x18308 5).val ≠ 0 := by
  decide +kernel

theorem test_w_other_registers :
    (∀ o ∈ [0x1000, 0x1008, 0x1010, 0x40000], regFn (wrR 0 o 5) < 8 ∧ regOff (wrR 0 o 5) = o ∧ (hostS Fn.zero Queue.zero).fnMgt (regFn (wrR 0 o 5)) = true) ∧
    (regFn (wrR 1 0x40000 5) < 8 ∧ (hostS Fn.zero Queue.zero).fnMgt (regFn (wrR 1 0x40000 5)) = false ∧ 0x10000 ≤ regOff (wrR 1 0x40000 5)) ∧
    (∀ o ∈ [0x10010, 0x10018, 0x10020, 0x10028, 0x18400], regOff (wrR 0 o (atBit 6 56)) = o ∧ (wrR 0 o (atBit 6 56)).n = 8 ∧
      (hostS Fn.zero Queue.zero).fnMgt (regFn (wrR 0 o (atBit 6 56))) = true) ∧ dbgEvent (fld ((hostS Fn.zero Queue.zero).regNew (wrR 0 0x18400 (atBit 6 56))) 63 56) = some .dbgChk := by
  refine ⟨?_, ?_, ?_, ?_⟩ <;> decide +kernel

/-- A request of a function. -/
def reqR (fn bar off len : Nat) (data : List Byte) : Req := { port := 0, fn := fn, bar := bar, off := off, len := len, data := data, ro := false, bad := false, aop := false }

/-- A posted write of pieces, of which all or none have left, and one of a register that has. -/
def postedP (n : Nat) (sent : Bool) : Posted :=
  { id := 3, req := reqR 0 4 0 8 (toBytes 8 7), ps := (List.range n).map fun k => (k, { pl := .hbm (64 * k) 0, n := 8, hl := 4, lvl := 0, stamp := 0, data := toBytes 8 7, tag := none }),
    regs := false, sent := sent }

/-- The registers of an aperture window of context 1, 64 KiB long. -/
def apS (err : Word) (posted : List Posted) : State := hostS { Fn.zero with apw := [(1, atBit 1 0 ||| atBit 16 1 ||| atBit 1 36)], aperr := err, posted := posted } Queue.zero

theorem test_w_requests_stopped :
    s0.carries (reqR 0 0 0 8 []).port = false ∧ 4096 < (reqR 0 2 0 0 (List.replicate 4097 0)).data.length ∧ 4096 < (reqR 0 2 0 4097 []).len ∧
    ((apS 0 []).carries ({ reqR 0 2 0 8 [] with aop := true }).port = true) ∧
    (let s := { hostS Fn.zero Queue.zero with mgt := { Mgt.zero with state := 2 } }
     s.mgt.state = 2 ∧ s.carries 0 = true ∧ reqFn (reqR 0 0 0x10000 8 []) = 0 ∧ (reqR 0 0 0x10000 8 []).bar = 0 ∧ (reqR 0 0 0x10000 8 []).off = 0x10000 ∧ (reqR 0 2 0 8 []).bar ≠ 0) := by
  decide +kernel

theorem test_w_posted_writes :
    (let s := apS 0 [postedP 512 true]
     let r := reqR 0 0 0x1010 8 (toBytes 8 7)
     s.carries 0 = true ∧ s.mgt.state ≠ 2 ∧ r.data ≠ [] ∧ r.data.length ≤ 4096 ∧ 512 < (s.fn 0).pieces + s.piecesFor r) ∧
    (let s := apS 0 []
     let r := reqR 0 0 0x1010 8 (toBytes 8 7)
     s.carries 0 = true ∧ s.mgt.state ≠ 2 ∧ r.data ≠ [] ∧ (s.fn 0).pieces + s.piecesFor r ≤ 512 ∧ s.fnDev 0 = some 0 ∧ r.data.length = 8 ∧ r.off % 8 = 0 ∧ r.bad = false ∧ (s.fn 0).posted = []) ∧
    (let s := apS 0 [postedP 1 true]
     (s.fn 0).pieces + s.piecesFor (reqR 0 0 0x1010 8 (toBytes 8 7)) ≤ 512 ∧ s.fnDev 0 = some 0 ∧ ∃ p l, (s.fn 0).posted = p :: l ∧ p.sent = true) ∧
    (∀ b < 2, let s := apS (atBit b 63) []
     let r := reqR 0 2 0x20000 8 (toBytes 8 7)
     s.carries 0 = true ∧ (s.fn 0).pieces + s.piecesFor { r with len := 8 } ≤ 512 ∧ s.fnDev 0 = some 0 ∧ (match (s.apPlaces 0 (s.fn 0).apw { r with len := r.data.length } true).1 with | .error k => k == 1 | .ok _ => false) = true ∧
       (bitOf (s.fn 0).aperr 63 = true ↔ b = 1)) ∧
    (let s := apS 0 []
     let r := reqR 0 2 0x100 8 (toBytes 8 7)
     (match (s.apPlaces 0 (s.fn 0).apw { r with len := r.data.length } true).1 with | .ok ps => !ps.isEmpty | .error _ => false) = true ∧ (s.fn 0).posted = []) ∧
    ((apS 0 []).fnMgt 1 = false ∧ (apS 0 []).fnDev 1 = some 0 ∧ (reqR 1 4 0 8 (toBytes 8 7)).bar = 4) := by
  refine ⟨by decide +kernel, by decide +kernel, ⟨by decide +kernel, by decide +kernel, _, _, rfl, rfl⟩, by decide +kernel, by decide +kernel, by decide +kernel⟩

theorem no_place {m : SMap DCtx} (h : m.all (fun x => x.2.place.isEmpty) = true) (k : Nat) : ((mfind m k).getD DCtx.zero).place = [] := by
  induction m with
  | nil => rfl
  | cons x l ih =>
    rw [List.all_cons, Bool.and_eq_true] at h
    unfold mfind
    split
    · exact List.isEmpty_iff.mp h.1
    · first | exact ih h.2 | (split <;> first | exact ih h.2 | rfl)

theorem no_conv {s : State} (h : s.dctx.all (fun x => x.2.place.isEmpty) = true) : ∀ d c, ∀ e ∈ (s.dc d c).place, e.2.conv = none := by
  intro d c e he
  rw [State.dc, no_place h] at he
  cases he

theorem test_w_pieces_and_reads :
    (let s := apS 0 [postedP 1 true]
     (s.fn 0).posted.find? (fun p => p.id == 3 && p.sent) = some (postedP 1 true) ∧
       ∃ pc s1, (postedP 1 true).ps.find? (fun y => y.1 == 0) = some (0, pc) ∧ s.mirroredAll (granParts pc) = (true, s1) ∧
         ∀ d c, ∀ e ∈ (s1.dc d c).place, e.2.conv = none) ∧
    (let r := reqR 0 0 0x1018 8 []
     let s := hostS { Fn.zero with reads := [(5, r, [])] } Queue.zero
     (s.fn 0).posted = [] ∧ (s.fn 0).reads = [(5, r, [])] ∧ s.fnDev 0 = some 0 ∧ r.bar = 0 ∧ r.len = 8 ∧ r.off % r.len = 0) :=
  ⟨⟨by decide +kernel, _, _, rfl, pair_true (by decide +kernel), no_conv (by decide +kernel)⟩, rfl, rfl, rfl, rfl, rfl, rfl⟩

/-! Links. -/

/-- A link that is up, and the flits that have come on it. -/
def upL (rx : List (Flit × Bool)) : Link := { Link.zero with gen := 1, lanes := 8, up := true, sess := true, rkeys := [(0, 5)], keys := [(0, 5)], rx := rx, rxseq := 4 }
def flit (seq key : Nat) (last : Bool) : Flit := { seq := seq, epoch := false, key := key, nonce := 0, pkt := { pk with dst := 0, ty := 1 }, last := last, int := 0, hops := 0, ack := 0, nak := none }
def linkS (l : Link) : State := { s0 with links := [(3, l)] }

theorem test_w_links :
    (linkS (upL [])).link 3 = upL [] ∧ (upL []).up = true ∧ (upL []).rx = [] ∧ (upL []).lanes = 8 ∧ ({ upL [] with lanes := 4 } : Link).lanes ≠ 8 ∧ Link.zero.up = false ∧
    (∀ y ∈ (upL []).replay, y.epoch = (upL []).epoch) ∧ (∃ y ∈ ({ upL [] with replay := [{ flit 1 5 true with epoch := true }] } : Link).replay, y.epoch ≠ false) ∧
    (∀ b, let l := upL [(flit 4 5 b, true)]
      (linkS l).link 3 = l ∧ l.up = true ∧ mfind l.rkeys 0 = some 5 ∧ (flit 4 5 b).seq = l.rxseq ∧ (flit 4 5 b).last = b ∧ (flit 4 5 b).pkt.dst = (linkS l).net.fpeer ∧
        (pktEvent (flit 4 5 b).pkt).isSome = true) ∧
    (let l := upL [(flit 5 5 true, true)]
     l.up = true ∧ (flit 5 5 true).seq ≠ l.rxseq) ∧ mfind (upL [(flit 4 6 true, true)]).rkeys 0 ≠ some (flit 4 6 true).key ∧
    (linkS (upL [])).peerUp 5 = false ∧ ({ linkS (upL []) with net := { Net.zero with peers := [(5, 1)] } } : State).peerUp 5 = true ∧
    mfind (upL []).rkeys (slotIx (!(upL []).repoch)) = none ∧ mfind ({ upL [] with rkeys := [(0, 5), (1, 6)] } : Link).rkeys (slotIx (!false)) ≠ none ∧
    (upL []).wait = [] ∧ (flit 4 5 false).ack = (upL []).txseq ∧
    (∃ a y b, ({ upL [] with replay := [flit 1 5 true, flit 0 5 true], txseq := 2 } : Link).replay = a ++ y :: b ∧ y.seq = (flit 4 5 false).ack ∧ (flit 4 5 false).ack ≠ 2 ∧
      ∀ z ∈ a, z.seq ≠ (flit 4 5 false).ack) := by
  refine ⟨rfl, rfl, rfl, rfl, by decide, rfl, by decide, by decide, fun b => ⟨rfl, rfl, rfl, rfl, rfl, rfl, ?_⟩, by decide, by decide, by decide, by decide,
    by decide, by decide, rfl, rfl, [flit 1 5 true], _, [], rfl, rfl, by decide, by decide⟩
  cases b <;> decide +kernel

theorem test_w_package_links :
    pkgLink 0 0 = false ∧ pkgLink 0 1 = true ∧ mget 0 s0.pkg (pkgKey 0 1) ≠ 8 ∧ mkeysFrom none s0.pkg = true ∧
    mget 0 ({ s0 with pkg := [(pkgKey 0 1, 8)] } : State).pkg (pkgKey 0 1) = 8 := by decide +kernel

/-! Failure, checkpoints, rollback and takeover. -/

/-- A complete checkpoint with number 3. -/
def ckpt3 : Ckpt := { num := 3, t := 100, img := { Image.zero with hw := [(0, tc)] }, dc := (farSt tc).dc 0 0, qs := [(0, Queue.zero)], eg := [], ing := [], slot := 0, full := true }

/-- The state of two members with its device context changed, which this device coordinates where it is peer 0, and checkpoints. -/
def spanS (f : DCtx → DCtx) (l : List Ckpt) : State :=
  { farSt tc with dctx := [(0, f ((farSt tc).dc 0 0))], ckpts := [(0, l)], mgt := { Mgt.zero with state := 3, beats := true } }

/-- The copy of a ward with one write of its journal still to be applied. -/
def ward7 : Ward := { copy := [], tags := [], log := [(0x100, 0, toBytes 8 7, none)], num := 2, t := 0, image := [] }

/-- Both slots of the checkpoint area named, and a period of 5 ms. -/
def area (d : DCtx) : DCtx := { d with ckcfg := [(0, 0x1000), (1, 0x2000), (2, atBit 5 32)] }

/-- That state, with a standby, or as one that another device coordinates. -/
def withStandby (s : State) : State := { s with net := { s.net with peers := [(0, 1), (5, 1), (7, 3)] } }
def asOther (s : State) : State := { s with net := { s.net with fpeer := 5 } }

theorem only_one {s : State} {d c : Nat} {idle : Nat → Nat → Prop} (a : mkeysFrom none s.dctx = true) (b : s.dctxs = [(d, c)]) : OnlyOne s d c idle :=
  ⟨a, by rw [b]; exact List.mem_singleton.mpr rfl, fun x hx hn => absurd (List.mem_singleton.mp (b ▸ hx)) hn⟩

theorem all_idle {s : State} {d c : Nat} {idle : Nat → Nat → Prop} (b : s.dctxs = [(d, c)]) (h : idle d c) : AllIdle s idle := by
  intro x hx
  rw [b] at hx
  cases List.mem_singleton.mp hx
  exact h

theorem test_w_heartbeats :
    (DCtx.zero.live = false) ∧
    (∀ n ∈ [0, 10], let s := spanS (fun d => { d with misses := [(memberKey 5 0, n)] }) []
      (s.dc 0 0).live = true ∧ s.mgt.beats = true ∧ 1 < (s.dc 0 0).members.length ∧ s.coordinates 0 0 = true ∧ (s.dc 0 0).members = [(s.net.fpeer, 0), (5, 0)] ∧
        5 ≠ s.net.fpeer ∧ mkeysFrom none (s.dc 0 0).misses = true ∧ mget 0 (s.dc 0 0).misses (memberKey 5 0) = n) ∧
    (let s := asOther (spanS id [])
     (s.dc 0 0).live = true ∧ s.mgt.beats = true ∧ 1 < (s.dc 0 0).members.length ∧ s.coordinates 0 0 = false) ∧
    mget 0 (spanS id []).net.peers 5 = 1 ∧ (let s := spanS id []
      mget 0 ({ s with net := { s.net with peers := [(0, 1)] } } : State).net.peers 5 ≠ 1) := by
  decide +kernel

theorem test_w_losses :
    (AllIdle (spanS id []) fun d c => (spanS id []).coordinates d c = false ∨ (∀ m ∈ ((spanS id []).dc d c).members, m.1 ≠ 9) ∨
      ((spanS id []).dc d c).lost = some 9 ∨ 9 ∈ ((spanS id []).dc d c).gone) ∧
    (let s := spanS id []
     let idle (d c : Nat) : Prop := s.coordinates d c = false ∨ (∀ m ∈ (s.dc d c).members, m.1 ≠ 5) ∨ (s.dc d c).lost = some 5 ∨ 5 ∈ (s.dc d c).gone
     OnlyOne s 0 0 idle ∧ ¬ idle 0 0 ∧ s.standby = none) ∧
    (∀ l ∈ [none, some 9], let s := withStandby (spanS (fun d => { area d with lost := l }) [ckpt3])
     let idle (d c : Nat) : Prop := s.coordinates d c = false ∨ (∀ m ∈ (s.dc d c).members, m.1 ≠ 5) ∨ (s.dc d c).lost = some 5 ∨ 5 ∈ (s.dc d c).gone
     OnlyOne s 0 0 idle ∧ ¬ idle 0 0 ∧ s.standby ≠ none ∧ s.hasCkpt 0 0 = true ∧ 5 ∉ (s.dc 0 0).buddiesOf 5 ∧ 5 ∉ (s.dc 0 0).risk ∧ (s.dc 0 0).lost = l) := by
  refine ⟨all_idle (d := 0) (c := 0) (by decide +kernel) (Or.inr (Or.inl (by decide +kernel))), ⟨only_one (by decide +kernel) (by decide +kernel), ?_, by decide +kernel⟩, fun l hl => ?_⟩
  · decide +kernel
  · simp only [List.mem_cons, List.not_mem_nil, or_false] at hl
    rcases hl with rfl | rfl <;> exact ⟨only_one (by decide +kernel) (by decide +kernel), by decide +kernel⟩

/-- R368: the loss of the buddy of a lost device cannot be recovered, nor that of a device that is its own buddy. -/
theorem test_losses_beyond_recovery :
    (let s := withStandby (spanS (fun d => { area d with buddies := [(memberKey 5 0, 7), (memberKey 9 0, 5)] }) [ckpt3])
     (match execDeviceLost 5 s with | .next t => ((t.dc 0 0).risk, t.unrecoverable 0 0 7, t.unrecoverable 0 0 9) | _ => ([], false, false)) = ([7, 9], true, true)) ∧
    (withStandby (spanS (fun d => { area d with buddies := [(memberKey 5 0, 5)] }) [ckpt3])).unrecoverable 0 0 5 = true := by decide +kernel

theorem test_w_errors :
    ((spanS area [ckpt3]).ownersOf 0 = [(0, 0)] ∧ (spanS area [ckpt3]).coordinates 0 0 = true ∧ (spanS area [ckpt3]).hasCkpt 0 0 = true) ∧
    ((spanS id []).ownersOf 0 = [(0, 0)] ∧ (spanS id []).hasCkpt 0 0 = false) ∧
    ((asOther (spanS area [ckpt3])).ownersOf 0 = [(0, 0)] ∧ (asOther (spanS area [ckpt3])).coordinates 0 0 = false ∧ (asOther (spanS area [ckpt3])).hasCkpt 0 0 = true) ∧
    (let e := { entE 3 [] with started := true }
     let s := { spanS id [] with bel := { Bel.zero with qs := [(0, belQ 0 [e])] } }
     mwf 0 s.mgt.rcv = true ∧ mkeysFrom none s.bel.qs = true ∧ s.resident 0 = some 0 ∧ s.devOf 0 = 0 ∧ (∃ y ∈ s.hw, y.1 = 0 ∧ y.2.task ≠ none) ∧ (s.ctx 0).fin = none ∧
       mfind s.bel.qs 0 = some (belQ 0 [e]) ∧ s.queueDev 0 = 0 ∧ (belQ 0 [e]).ctx = 0 ∧ e ∈ (belQ 0 [e]).ents ∧ e.started = true ∧ e.fin = none) := by
  decide +kernel

/-- A timed checkpoint with number 4 at which the span has halted. -/
def ckE (kind : Nat) (who : List Nat) : Timed := { Timed.new kind 200 4 with done := true, who := who }

theorem test_w_checkpoint_period :
    (AllIdle (spanS id []) fun d c => fld (mget 0 ((spanS id []).dc d c).ckcfg 2) 63 32 = 0 ∨ (spanS id []).coordinates d c = false ∨
      ((spanS id []).now d).toNat < ((spanS id []).dc d c).ckNext.toNat) ∧
    (let s := spanS area []
     let idle (d c : Nat) : Prop := fld (mget 0 (s.dc d c).ckcfg 2) 63 32 = 0 ∨ s.coordinates d c = false ∨ (s.now d).toNat < (s.dc d c).ckNext.toNat
     OnlyOne s 0 0 idle ∧ ¬ idle 0 0 ∧ (s.dc 0 0).ckptArea = true) ∧
    (let s := spanS (fun d => { area d with ckcfg := [(2, atBit 5 32)] }) []
     let idle (d c : Nat) : Prop := fld (mget 0 (s.dc d c).ckcfg 2) 63 32 = 0 ∨ s.coordinates d c = false ∨ (s.now d).toNat < (s.dc d c).ckNext.toNat
     OnlyOne s 0 0 idle ∧ ¬ idle 0 0 ∧ (s.dc 0 0).ckptArea = false) := by
  refine ⟨all_idle (d := 0) (c := 0) (by decide +kernel) (Or.inl (by decide +kernel)), ⟨only_one (by decide +kernel) (by decide +kernel), ?_, by decide +kernel⟩,
    only_one (by decide +kernel) (by decide +kernel), ?_, by decide +kernel⟩ <;> decide +kernel

theorem test_w_checkpoint_halt :
    (spanS id []).toTake = [] ∧
    (let s := spanS (fun d => { d with timed := [ckE 3 [0]] }) []
     s.toTake = [(0, 0, ckE 3 [0])] ∧ s.resident 0 = some 0 ∧ s.quiet 0 = true) ∧
    (let s := { spanS (fun d => { d with timed := [ckE 3 [0]] }) [] with bel := { Bel.zero with tasks := [0] } }
     s.toTake = [(0, 0, ckE 3 [0])] ∧ s.resident 0 = some 0 ∧ s.quiet 0 = false) ∧
    (let s := { spanS (fun d => { d with timed := [ckE 3 [0]] }) [] with res := [(0, 2)] }
     s.toTake = [(0, 0, ckE 3 [0])] ∧ s.resident 0 ≠ some 0) := by
  decide +kernel

theorem test_w_checkpoint_complete :
    ((spanS id []).dc 0 0).timed.find? (fun e => e.num == 4 && (e.kind == 3 || e.kind == 6)) = none ∧
    (∀ k ∈ [3, 6], let s := spanS (fun d => { d with timed := [ckE k [0]] }) [{ ckpt3 with num := 4, full := false }]
      (s.dc 0 0).timed.find? (fun e => e.num == 4 && (e.kind == 3 || e.kind == 6)) = some (ckE k [0]) ∧ (ckE k [0]).kind = k ∧ (ckE k [0]).who = [0] ∧
        s.resident 0 = some 0 ∧ (s.ctx 0).q.eq.length < 32 ∧ ∃ x ∈ s.ckptsOf 0 0, x.num = 4) ∧
    (let s := { spanS (fun d => { d with timed := [ckE 3 [0]] }) [] with hw := [(0, { tc with q := { tc.q with eq := List.replicate 32 0 } })] }
     (s.dc 0 0).timed.find? (fun e => e.num == 4 && (e.kind == 3 || e.kind == 6)) = some (ckE 3 [0]) ∧ 0 ∈ (ckE 3 [0]).who ∧ 32 ≤ (s.ctx 0).q.eq.length) := by
  decide +kernel

theorem test_w_rollback :
    (AllIdle (spanS id []) fun d c => ((spanS id []).dc d c).back = none) ∧
    (let s := spanS (fun d => { d with back := some (3, 5000, 0) }) []
     OnlyOne s 0 0 (fun d c => (s.dc d c).back = none) ∧ (s.dc 0 0).back = some (3, 5000, 0) ∧ (s.ckptsOf 0 0).find? (fun k => k.num == 3 && k.full) = none) ∧
    (let s := spanS (fun d => { d with back := some (3, 5000, 0) }) [ckpt3]
     OnlyOne s 0 0 (fun d c => (s.dc d c).back = none) ∧ (s.dc 0 0).back = some (3, 5000, 0) ∧ (s.ckptsOf 0 0).find? (fun k => k.num == 3 && k.full) = some ckpt3 ∧
       mwf 0 s.mgt.rcv = true ∧ mkeysFrom none ckpt3.qs = true ∧ mfind ckpt3.qs 0 = some Queue.zero ∧ s.resident 0 = some 0 ∧ mkeysFrom none ckpt3.img.hw = true ∧
       mfind ckpt3.img.hw 0 = some tc ∧ s.devOf 0 = 0) ∧
    ({ spanS (fun d => { d with back := some (3, 5000, 0) }) [ckpt3] with res := [] } : State).resident 0 ≠ some 0 := by
  refine ⟨all_idle (d := 0) (c := 0) (by decide +kernel) (by decide +kernel), ⟨only_one (by decide +kernel) (by decide +kernel), by decide +kernel, by decide +kernel⟩,
    ⟨only_one (by decide +kernel) (by decide +kernel), by decide +kernel, by decide +kernel, by decide +kernel, by decide +kernel, by decide +kernel, by decide +kernel,
      by decide +kernel, by decide +kernel, by decide +kernel⟩, by decide +kernel⟩

theorem test_w_takeover :
    (AllIdle (spanS id []) fun d c => ((spanS id []).dc d c).lost = none) ∧
    (let s := spanS (fun d => { d with lost := some 5 }) []
     OnlyOne s 0 0 (fun d c => (s.dc d c).lost = none) ∧ (s.dc 0 0).lost = some 5 ∧ s.resident 0 = some 0 ∧ (s.partOf 0).halt = false) ∧
    (let s := { spanS (fun d => { d with lost := some 5 }) [] with part := [(0, { Part.zero with halt := true })] }
     OnlyOne s 0 0 (fun d c => (s.dc d c).lost = none) ∧ (s.dc 0 0).lost = some 5 ∧ (s.partOf 0).halt = true ∧ (∃ m ∈ (s.dc 0 0).members, m.1 = 5) ∧ s.standby = none) ∧
    (let s := withStandby { spanS (fun d => { d with lost := some 5 }) [] with part := [(0, { Part.zero with halt := true })] }
     OnlyOne s 0 0 (fun d c => (s.dc d c).lost = none) ∧ (s.dc 0 0).lost = some 5 ∧ (s.partOf 0).halt = true ∧ (∃ m ∈ (s.dc 0 0).members, m.1 = 5) ∧ s.standby = some 7 ∧
       (mkeysFrom none s.net.peers = true ∧ mkeysFrom none s.net.route = true) ∧ mfind ({ s with ward := [(wardKey 5 0 0, ward7)] } : State).ward (wardKey 5 0 0) = some ward7) ∧
    (let s := spanS (fun d => { d with lost := some 9 }) []
     OnlyOne s 0 0 (fun d c => (s.dc d c).lost = none) ∧ (s.dc 0 0).lost = some 9 ∧ ∀ m ∈ (s.dc 0 0).members, m.1 ≠ 9) := by
  refine ⟨all_idle (d := 0) (c := 0) (by decide +kernel) (by decide +kernel), ⟨only_one (by decide +kernel) (by decide +kernel), by decide +kernel, by decide +kernel, by decide +kernel⟩,
    ⟨only_one (by decide +kernel) (by decide +kernel), by decide +kernel, by decide +kernel, by decide +kernel, by decide +kernel⟩,
    ⟨only_one (by decide +kernel) (by decide +kernel), by decide +kernel, by decide +kernel, by decide +kernel, by decide +kernel, by decide +kernel, by decide +kernel⟩,
    only_one (by decide +kernel) (by decide +kernel), by decide +kernel, by decide +kernel⟩

theorem test_w_span_messages :
    (∀ m ∈ [FluxMsg.beat 5, .struck, .ended 3 5, .back 3 5000 0, .stream 3 100, .image 3 100, .quench 2 7, .restore, .ack 11 200, .ack 3 200, .askCkpt], ∃ p : Pkt, p.flux = m ∧ p.src = 5 ∧ (spanS id []).peerUp p.src = true) ∧
    mkeysFrom none ((spanS id []).dc 0 0).misses = true ∧ mkeysFrom none ((spanS id []).dc 0 0).buddies = true ∧
    (let s := { spanS id [] with ward := [(wardKey 5 0 0, ward7)] }
     (s.wardOf (wardKey 5 0 0)).log = [(0x100, 0, toBytes 8 7, none)]) ∧
    (spanS (fun d => { d with timed := [ckE 3 []] }) []).findTimed 0 0 3 200 = some (ckE 3 []) ∧ (spanS id []).findTimed 0 0 3 200 = none ∧
    (∀ e ∈ ((spanS id []).dc 0 0).timed, e.kind = 3 → e.done = true) ∧
    (∃ e ∈ ((spanS (fun d => { d with timed := [Timed.new 3 200 4] }) []).dc 0 0).timed, e.kind = 3 ∧ e.done = false) ∧
    (spanS id []).resident 0 = some 0 ∧ (let s := { spanS id [] with res := [(0, 2)], images := [(0, Image.zero)] }
     s.resident 0 ≠ some 0 ∧ mfind s.images (0 * 16 + 0) ≠ none) := by
  refine ⟨fun m _ => ⟨{ pk with flux := m }, rfl, rfl, show (spanS id []).peerUp 5 = true by decide +kernel⟩, by decide +kernel, by decide +kernel, by decide +kernel, by decide +kernel, by decide +kernel, by decide +kernel, by decide +kernel, by decide +kernel, by decide +kernel⟩

/-! Bring-up and power. -/

/-- A device that holds an image with its digest of a key and its version, under fuses 7 and a rollback counter of 3. -/
def bootS (digest : Nat) (sv : Word) (state due : Nat) : State :=
  { State.reset with mgt := { Mgt.zero with image := { digest := digest, sigOk := true, sv := sv }, fuse := 7, roll := 3, state := state, due := due } }

theorem test_w_bring_up :
    (let m := (bootS 7 5 0 0).mgt
     m.image.sigOk = true ∧ m.image.digest = m.fuse ∧ m.roll.toNat ≤ m.image.sv.toNat ∧ ¬ (m.state = 1 ∨ m.state = 4)) ∧
    (let m := (bootS 8 5 0 0).mgt
     ¬ (m.image.sigOk = true ∧ m.image.digest = m.fuse ∧ m.roll.toNat ≤ m.image.sv.toNat) ∧ ¬ (m.state = 1 ∨ m.state = 4)) ∧
    (let s := bootS 7 5 1 0
     (s.mgt.state = 1 ∨ s.mgt.state = 4) ∧ s.mgt.due = s.clk.wall ∧ s.mgt.retry = false ∧ mkeysFrom none s.res = true ∧
       mkeysFrom none s.mgt.peers = true ∧ mkeysFrom none s.mgt.route = true ∧ s.mem.wf = true ∧ 0 ∈ s.devices) := by
  decide +kernel

/-! Debug commands, attestation and owner keys. -/

/-- A state with a word in DBGCTL, and context 0 stopped or not. -/
def dbgS (w : Word) (stop : Bool) : State :=
  { ts { tc with dbg := { tc.dbg with stop := stop } } with mgt := { Mgt.zero with state := 3, dbgctl := w } }

theorem test_w_debug :
    (∀ n ∈ [1, 2, 3, 4, 5, 6], ∀ b, let s := dbgS (atBit n 56) b
      mkeysFrom none s.hw = true ∧ fld s.mgt.dbgctl 63 56 = n ∧ s.dbgGranted = true ∧ s.dbgTargets = [0] ∧ ((s.ctx 0).dbg.stop = true ↔ b = true) ∧ (s.ctx 0).dbg.due = 0 ∧ (s.ctx 0).st ≠ .blocked ∧
        fld s.mgt.dbgctl 34 32 = 0 ∧ mkeysFrom none (s.ctx 0).dbg.bp = true) ∧
    (dbgS (atBit 1 56 ||| atBit 1 52) false).dbgGranted = false ∧ fld (atBit 7 56 : Word) 63 56 ≠ 1 ∧ fld (atBit 4 56 ||| atBit 3 32 : Word) 34 32 = 3 := by
  decide +kernel

/-- A state in which a request stands at the head of the inbox of port 0, or of the management bus in the recovery state. -/
def askS (rom : Bool) (x : Spdm) (code : Nat) (a : List Nat) : State :=
  { withStandby (spanS (fun d => { d with key := 5, buddy := 5 }) []) with
    spdm := [(if rom then 2 else 0, { x with inbox := [(code, a)] })],
    keys := [(3, { key := 8, grant := true, maker := some 6 }), (5, { key := 9, grant := true, maker := some 4 })],
    mgt := { Mgt.zero with state := if rom then 2 else 3, image := { digest := 7, sigOk := true, sv := 5 }, fuse := 7, roll := 3 } }

/-- A responder whose negotiation has gone so far, with a session of number 6. -/
def respX (stage sess : Nat) : Spdm := { inbox := [], stage := stage, sess := sess, num := 6, upd := 0 }

theorem asks {s : State} {b code : Nat} {a : List Nat} (h1 : b < 3) (h2 : s.busOn b = true) (h3 : (s.bus b).inbox = [(code, a)])
    (h4 : ∀ j < 3, j ≠ b → s.busOn j = true → (s.bus j).inbox = []) (h5 : Known s code) : Asks s b code a [] := ⟨⟨h1, h2, h3, h4⟩, h5⟩

theorem test_w_nobody_asks : ∀ j < 3, s0.busOn j = true → (s0.bus j).inbox = [] := by decide +kernel

theorem test_w_unknown : AsksAny (askS false (respX 3 0) 0x99 []) 0 0x99 [] [] ∧ ¬ Known (askS false (respX 3 0) 0x99 []) 0x99 := by
  refine ⟨⟨by decide, by decide +kernel, by decide +kernel, by decide +kernel⟩, ?_⟩
  unfold Known; decide +kernel

theorem test_w_requests :
    ∀ y ∈ requests, y.2.1 ≠ 0xFE05 → ∀ st ∈ [0, 1, 2, 3], ∀ v ∈ [0, 1, 2],
      let s := askS false (respX st 2) y.2.1 [v]
      Asks s 0 y.2.1 [v] [] ∧ (s.bus 0).stage = st ∧ (s.bus 0).sess = 2 := by
  unfold Asks AsksAny Known; decide +kernel

theorem test_w_requests_in_the_recovery_state :
    ∀ code ∈ [0x81, 0x82, 0x83, 0x84, 0xE0, 0xE1, 0xE3, 0xE4, 0xE5, 0xEC, 0xFE05], ∀ d ∈ [7, 8],
      let s := askS true (respX 3 2) code [1, d, 1, 5]
      Asks s 2 code [1, d, 1, 5] [] ∧ (s.bus 2).sess = 2 ∧ s.mgt.state = 2 ∧ (d = s.mgt.fuse ↔ d = 7) ∧ s.mgt.roll.toNat ≤ 5 := by
  unfold Asks AsksAny Known; decide +kernel

theorem test_w_sessions :
    (let s := askS false (respX 3 1) 0xE5 []
     (s.bus 0).sess = 1) ∧
    (let s := askS false (respX 3 2) 0xFE01 [1, 4]
     Asks s 0 0xFE01 [1, 4] [] ∧ (s.bus 0).sess = 2 ∧ mfind s.keys 4 = none ∧ mfind s.keys 5 ≠ none ∧ mkeysFrom none s.keys = true ∧
       mfind s.keys 3 = some { key := 8, grant := true, maker := some (s.bus 0).num } ∧
       (∀ y, mfind s.keys 5 = some y → y.maker ≠ some (s.bus 0).num) ∧ (∃ y ∈ s.dctx, y.2.live = true ∧ y.2.key = 5) ∧
       (∀ y ∈ s.dctx, y.2.live = true → y.2.key ≠ 3) ∧ s.mayHave 5 5 = true ∧ s.mayHave 5 6 = false) := by
  refine ⟨by decide +kernel, ⟨⟨by decide, by decide +kernel, by decide +kernel, by decide +kernel⟩, ?_⟩, by decide +kernel, by decide +kernel, by decide +kernel, by decide +kernel,
    by decide +kernel, ?_, by decide +kernel, by decide +kernel, by decide +kernel, by decide +kernel⟩
  · unfold Known; decide +kernel
  · intro y hy
    cases hy
    decide +kernel

/-! Well-formedness: one term for each check, which the check refuses. -/

/-- A path with a coordinate that is no scalar. -/
def badPath : Path := { pth 0 with c1 := .w 3 }

/-- Engine flags that release at a scope that is not assigned. -/
def badFlags : EFlags := { rsc := 5, rel := 1, asc := 0, acq := 0 }

theorem test_wf_refuses :
    ∀ i ∈ ([.add g0 (.w 1) (.g 1) (.g 2), .add g0 (.g 1) (.w 1) (.g 2), .jmpi g0 (.w 1), .evwait g0 .eq, .agset g0 (.g 1) 3, .cmp g0 0 (.val .eq) (.g 1) (.g 2),
        .setp g0 1 0 (.val (.w 1)) (.g 1), .view g0 1 (.rp 0), .ld g0 1 badPath, .ldAcq g0 5 1 (pth 0), .st g0 (.w 1) (pth 0), .ldr g0 0 .eq (pth 0),
        .str g0 0 .cq (pth 0), .fence g0 6, .ldp g0 0 (pth 0), .waitv g0 6 (.g 1) (pth 0), .waitvAcq g0 7 0 (.g 1) (pth 0), .atomAdd g0 0 1 2 (pth 0),
        .atomAdd g0 1 5 2 (pth 0), .atomCas g0 0 0 3 (pth 0), .atomCas g0 0 0 0 (pth 0), .atomrCas g0 0 3 (pth 0), .callGang g0 1 0 (.w 1), .join g0 .cq (.g 1),
        .cpy g0 1 badFlags, .fill g0 1 .eq nofl, .vadd g0 0 (.g 3) (.w 1) (.w 2) { vm with st := 1 }, .vadd g0 0 (.rp 0) (.w 1) (.w 2) vm,
        .vadd g0 0 (.w 1) .eq (.w 2) vm, .vcmp g0 6 (.w 1) (.w 2) (.w 3) vm, .vsum g0 0 (.g 1) (.g 2) vm, .xrot g0 (.g 1) (.imm 1) (.w 1) 0,
        .xrot g0 (.w 1) (.w 2) (.w 1) 0, .xunzip g0 (.w 1) (.w 2) (.g 3) 0, .xperm g0 2 (.w 1) (.w 2) 4, .hmma g0 0 (.g 1) 1 2 0 0 0, .hmmn g0 3 (.w 1) 1 2 0 0 0,
        .hgat g0 1 5 1 0 0 0 0, .idle 2 0, .idleHold 3 0] : List Instr), i.wf = false := by
  decide

/-! Words written out from the spec's encodings, a slot at a time (R22, R163, R164, R170, R185 to R191). -/

theorem test_word_b_done : decodeSlot .b 0x1400000000000000 = .ok (.done g0) := rfl

/-- `(p3) add g5, g5, 1` and its negation (R170). -/
theorem test_word_s_add : decodeSlot .s 0x0030050571000000 = .ok (.add ⟨3, 0⟩ (.g 5) (.g 5) (.imm 17)) ∧
    decodeSlot .s 0x0038050571000000 = .ok (.add ⟨3, 1⟩ (.g 5) (.g 5) (.imm 17)) := ⟨rfl, rfl⟩

/-- `(p2) ldv w1, bx0[g4]` (R191); a load of `bx3[g4, 2]` (R22). -/
theorem test_word_m_ldv : decodeSlot .m 0x0420210400000000 = .ok (.ldv ⟨2, 0⟩ 1 { pth 0 with c0 := .g 4 }) ∧
    decodeSlot .m 0x0000010472300000 = .ok (.ld g0 1 { pth 3 with c0 := .g 4, c1 := .imm 18 }) := ⟨rfl, rfl⟩

/-- `atom.add.rel.clu` (R187). -/
theorem test_word_m_atom : decodeSlot .m 0x4201050000000000 = .ok (.atomAdd g0 2 1 5 (pth 0)) := rfl

theorem test_word_t_join : decodeSlot .t 0x0200040500000000 = .ok (.join g0 (.g 4) (.g 5)) := rfl

/-- `vadd w2+, w1, w3` (R191) and `vmul.ru w4, w5, w6` (R189). -/
theorem test_word_v : decodeSlot .v 0x0000222123000001 = .ok (.vadd g0 0 (.w 2) (.w 1) (.w 3) { vm with st := 1 }) ∧
    decodeSlot .v 0x0202242526000000 = .ok (.vmul g0 2 (.w 4) (.w 5) (.w 6) vm) := ⟨rfl, rfl⟩

/-- `xrot w5, vb0` (R191): the count is the integer -16. -/
theorem test_word_x : decodeSlot .x 0x010025604A000000 = .ok (.xrot g0 (.w 5) (.imm 0) (.vb 0) 0) := rfl

/-- `hmma.fp32 w8, w9, w10` (R191). -/
theorem test_word_h : decodeSlot .h 0x010128292A000000 = .ok (.hmma g0 1 (.w 8) 9 10 0 0 0) := rfl

/-- The bundle of those four, which holds and issues twice, in its 36 bytes (R191). -/
theorem test_word_bundle :
    (decodeBundle (toBytes 4 0x0801003C ++ toBytes 8 0x0420210400000000 ++ toBytes 8 0x0000222123000001 ++ toBytes 8 0x010025604A000000 ++
        toBytes 8 0x010128292A000000)).map (fun b => (b.hd, b.mark, b.ops)) =
      some ({ kind := 0, hold := 1, rep := 1, pres := 0x3C }, none,
        [(.m, .ok (.ldv ⟨2, 0⟩ 1 { pth 0 with c0 := .g 4 })), (.v, .ok (.vadd g0 0 (.w 2) (.w 1) (.w 3) { vm with st := 1 })),
         (.x, .ok (.xrot g0 (.w 5) (.imm 0) (.vb 0) 0)), (.h, .ok (.hmma g0 1 (.w 8) 9 10 0 0 0))]) := rfl

/-- A header without slot words, and one with a marker (R164, R168, R169). -/
theorem test_word_fold : decodeTableWord 32 0x00020000 = some (.idle 0 2) ∧ decodeTableWord 32 0x08020000 = some (.idleHold 0 2) ∧
    (decodeBundle (toBytes 4 0x10000000 ++ toBytes 4 7)).map (·.mark) = some (some 7) := by decide +kernel

/-! One step from reset with an instruction placed (R166). -/

/-- The state some steps after that. -/
def after (n : Nat) (i : Instr) : State := (List.range n).foldl (fun s _ => match step s with | .next t => t | _ => s) (st i)

/-- The bundle issues in its cycle, and its result lands at the next. -/
theorem test_step_issues : ((after 1 addI).ctx 0).pc = 12 ∧ ((after 1 addI).ctx 0).lats.length = 1 ∧ ((after 1 addI).ctx 0).g 7 = 0 ∧
    ((after 3 addI).ctx 0).g 7 = 3 := by decide +kernel

end Sys2Proof.Tests
end

section
/-! SUPPORT. What the bellows' events share: the agenda, the queues, entries that start and end, and the entry that is served
(R309 to R313, R317). -/

namespace Sys2Proof.Machine

/-! The agenda. -/

theorem mem_schedIn (d : Nat) (i : Instr) (x : Nat × Instr) : ∀ l, x ∈ schedIn d i l ↔ x = (d, i) ∨ x ∈ l
  | [] => by simp [schedIn]
  | (t, j) :: l => by
    rw [schedIn]
    split
    · exact List.mem_cons
    · rw [List.mem_cons, List.mem_cons, mem_schedIn d i x l, or_left_comm]

@[simp] theorem State.schedOnce_mem (s : State) (n : Nat) (e : Instr) : (s.schedOnce n e).mem = s.mem := by
  unfold State.schedOnce; split <;> rfl
@[simp] theorem State.schedOnce_bel (s : State) (n : Nat) (e : Instr) : (s.schedOnce n e).bel = s.bel := by
  unfold State.schedOnce; split <;> rfl
@[simp] theorem State.schedOnce_dctx (s : State) (n : Nat) (e : Instr) : (s.schedOnce n e).dctx = s.dctx := by
  unfold State.schedOnce; split <;> rfl
@[simp] theorem State.schedOnce_hw (s : State) (n : Nat) (e : Instr) : (s.schedOnce n e).hw = s.hw := by
  unfold State.schedOnce; split <;> rfl

theorem State.queue_congr {s t : State} (h : t.bel = s.bel) (q : Nat) : t.queue q = s.queue q := by rw [State.queue, h, State.queue]
theorem State.dc_congr {s t : State} (h : t.dctx = s.dctx) (d c : Nat) : t.dc d c = s.dc d c := by rw [State.dc, h, State.dc]
theorem State.ctx_congr {s t : State} (h : t.hw = s.hw) (k : Nat) : t.ctx k = s.ctx k := by rw [State.ctx, h, State.ctx]

/-! Sparse maps. -/

theorem mem_of_mfind {α : Type} {k : Nat} {v : α} : ∀ {m : SMap α}, mfind m k = some v → (k, v) ∈ m
  | (j, w) :: m, h => by
    rw [mfind] at h
    split at h
    · rename_i hj; subst hj; cases h; exact List.mem_cons_self
    · split at h
      · cases h
      · exact List.mem_cons_of_mem _ (mem_of_mfind h)

theorem lt_of_mem_mkeysFrom {α : Type} {k : Nat} {v : α} : ∀ {m : SMap α} {a : Nat}, mkeysFrom (some a) m = true → (k, v) ∈ m → a < k
  | (j, w) :: m, a, hm, h => by
    simp only [mkeysFrom_some, Bool.and_eq_true, decide_eq_true_eq] at hm
    rcases List.mem_cons.mp h with h | h
    · cases h; exact hm.1
    · exact Nat.lt_trans hm.1 (lt_of_mem_mkeysFrom hm.2 h)

theorem mfind_of_mem {α : Type} {k : Nat} {v : α} : ∀ {m : SMap α}, mkeysFrom none m = true → (k, v) ∈ m → mfind m k = some v
  | (j, w) :: m, hm, h => by
    have hm : mkeysFrom (some j) m = true := by simpa [mkeysFrom] using hm
    rw [mfind]
    rcases List.mem_cons.mp h with h | h
    · cases h; exact if_pos rfl
    · have hlt := lt_of_mem_mkeysFrom hm h
      rw [if_neg (by omega), if_neg (by omega), mfind_of_mem (mkeys_of_some m hm) h]

theorem mfind_map {α : Type} (f : α → α) (k : Nat) : ∀ m : SMap α, mfind (m.map fun x => (x.1, f x.2)) k = (mfind m k).map f
  | [] => rfl
  | (j, v) :: m => by
    rw [List.map_cons, mfind, mfind, mfind_map f k m]
    split
    · rfl
    · split <;> rfl

theorem mkeysFrom_map {α : Type} (f : α → α) : ∀ (m : SMap α) (lo : Option Nat), mkeysFrom lo (m.map fun x => (x.1, f x.2)) = mkeysFrom lo m
  | [], _ => rfl
  | (j, v) :: m, lo => by simp only [List.map_cons, mkeysFrom, mkeysFrom_map f m]

/-- Values numbered in order and put into a map one by one are a run of entries. -/
theorem foldl_mput_zipIdx {α : Type} [DecidableEq α] (d : α) : ∀ (l : List α) (k : Nat) (m : SMap α),
    (l.zipIdx k).foldl (fun m x => mput d m x.2 x.1) m = mputs d m k l
  | [], _, _ => rfl
  | v :: l, k, m => foldl_mput_zipIdx d l (k + 1) (mput d m k v)

theorem mget_foldl_mput_zipIdx {α : Type} [DecidableEq α] (d : α) (l : List α) (n : Nat) :
    mget d (l.zipIdx.foldl (fun m x => mput d m x.2 x.1) []) n = l.getD n d := by
  rw [foldl_mput_zipIdx, mget_mputs d l [] 0 n rfl]
  split
  · rfl
  · rename_i h
    rw [mget_nil, List.getD_eq_getElem?_getD, List.getElem?_eq_none (by omega), Option.getD_none]

/-! Queues. -/

@[simp] theorem State.queue_modQueue (s : State) (q p : Nat) (f : Queue → Queue) :
    (s.modQueue q f).queue p = if p = q then f (s.queue q) else s.queue p := by
  simp only [State.queue, State.modQueue, mfind_mins]; split <;> rfl

@[simp] theorem State.modQueue_mem (s : State) (q : Nat) (f : Queue → Queue) : (s.modQueue q f).mem = s.mem := rfl

theorem State.queue_of_mfind {s : State} {q : Nat} {k : Queue} (h : mfind s.bel.qs q = some k) : s.queue q = k := by
  rw [State.queue, h]; rfl

@[simp] theorem State.startEntry_mem (s : State) (q id : Nat) : (s.startEntry q id).mem = s.mem := by simp [State.startEntry]
@[simp] theorem State.startEntry_bel (s : State) (q id : Nat) :
    (s.startEntry q id).bel = { s.bel with starts := s.bel.starts ++ [(q, id)] } := by simp [State.startEntry]
@[simp] theorem State.queue_startEntry (s : State) (q id p : Nat) : (s.startEntry q id).queue p = s.queue p := by
  simp [State.queue]

/-- An entry as it stands once STATUS and INFO of the entry of a number are known. -/
def QEnt.closed (id st info : Nat) (e : QEnt) : QEnt := if e.id = id ∧ e.fin.isNone then { e with fin := some (st, info) } else e

theorem State.finEntry_bel {s : State} {q id : Nat} {k : Queue} (h : s.bel.qs.find? (fun x => x.2.ents.any fun y => y.id == id) = some (q, k))
    (st info : Nat) : (s.finEntry id st info).bel =
      { s.bel with qs := mins s.bel.qs q { s.queue q with ents := (s.queue q).ents.map (QEnt.closed id st info) },
                   dones := s.bel.dones ++ [(q, id)] } := by
  rw [State.finEntry, h]
  exact State.schedOnce_bel _ 1 .entryComplete

end Sys2Proof.Machine

namespace Sys2Proof.Claims
open Sys2Proof.Machine

/-! Events that are due. -/

theorem due_sched_self (s : State) (n : Nat) (e : Instr) : Due (s.sched n e) e := ⟨_, (mem_schedIn ..).mpr (.inl rfl)⟩

theorem Due.sched {s : State} {e : Instr} (h : Due s e) (n : Nat) (i : Instr) : Due (s.sched n i) e :=
  h.imp fun _ hd => (mem_schedIn ..).mpr (.inr hd)

theorem due_of_hasEvent {s : State} {e : Instr} (h : s.hasEvent e = true) : Due s e := by
  obtain ⟨⟨d, i⟩, hx, hi⟩ := List.any_eq_true.mp h
  rw [← eq_of_beq hi]
  exact ⟨d, hx⟩

theorem due_schedOnce_self (s : State) (n : Nat) (e : Instr) : Due (s.schedOnce n e) e := by
  unfold State.schedOnce
  split
  · exact due_of_hasEvent ‹_›
  · exact due_sched_self s n e

theorem Due.schedOnce {s : State} {e : Instr} (h : Due s e) (n : Nat) (i : Instr) : Due (s.schedOnce n i) e := by
  unfold State.schedOnce
  split
  · exact h
  · exact h.sched n i

/-- The bellows and storage stand, and no event that is due is lost. -/
def KeepsBellows (s t : State) : Prop := t.mem = s.mem ∧ t.bel = s.bel ∧ ∀ i, Due s i → Due t i

theorem keepsBellows_sched (s : State) (n : Nat) (i : Instr) : KeepsBellows s (s.sched n i) := ⟨rfl, rfl, fun _ h => h.sched n i⟩

theorem keepsBellows_schedOnce (s : State) (n : Nat) (i : Instr) : KeepsBellows s (s.schedOnce n i) :=
  ⟨s.schedOnce_mem n i, s.schedOnce_bel n i, fun _ h => h.schedOnce n i⟩

theorem StartsNow.keepsBellows {s t : State} {q id : Nat} (h : StartsNow s q id) (ht : KeepsBellows s t) : StartsNow t q id := by
  obtain ⟨_, hb, hd⟩ := ht
  exact ⟨hb ▸ h.1, hd _ h.2⟩

theorem EndsWith.keepsBellows {s t : State} {q id st : Nat} (h : EndsWith s q id st) (ht : KeepsBellows s t) : EndsWith t q id st := by
  obtain ⟨hs, hdone, hdue, he⟩ := h
  refine ⟨hs.keepsBellows ht, ?_⟩
  obtain ⟨_, hb, hd⟩ := ht
  exact ⟨hb ▸ hdone, hd _ hdue, State.queue_congr hb q ▸ he⟩

/-! Entries that start and end. -/

theorem startsNow_startEntry (s : State) (q id : Nat) : StartsNow (s.startEntry q id) q id :=
  ⟨by simp, due_schedOnce_self _ 0 .entryStart⟩

/-- The number of an entry names its queue. -/
theorem QueuesApart.find_queue {s : State} (h : QueuesApart s) {q : Nat} {k : Queue} {e : QEnt} (hk : mfind s.bel.qs q = some k) (he : e ∈ k.ents) :
    s.bel.qs.find? (fun x => x.2.ents.any fun y => y.id == e.id) = some (q, k) := by
  obtain ⟨hkeys, hids⟩ := h
  have hmem : (q, k) ∈ s.bel.qs := mem_of_mfind hk
  cases hf : s.bel.qs.find? (fun x => x.2.ents.any fun y => y.id == e.id) with
  | none => exact absurd (List.any_eq_true.mpr ⟨e, he, beq_self_eq_true e.id⟩) (List.find?_eq_none.mp hf _ hmem)
  | some x =>
    obtain ⟨y, hy, hye⟩ := List.any_eq_true.mp (List.find?_some hf :)
    have hx := List.mem_of_find?_eq_some hf
    obtain ⟨j, k'⟩ := x
    have hq : j = q := (hids _ hx _ hmem y hy e he (eq_of_beq hye)).1
    subst hq
    rw [mfind_of_mem hkeys hx] at hk
    cases hk
    rfl

theorem due_finEntry {s : State} {q id : Nat} {k : Queue} (h : s.bel.qs.find? (fun x => x.2.ents.any fun y => y.id == id) = some (q, k))
    (st info : Nat) : Due (s.finEntry id st info) .entryComplete ∧ ∀ i, Due s i → Due (s.finEntry id st info) i := by
  rw [State.finEntry, h]
  refine ⟨due_schedOnce_self _ 1 _, fun i hi => Due.schedOnce ?_ 1 _⟩
  exact hi

theorem endsWith_finEntry {s : State} {q : Nat} {k : Queue} {e : QEnt} (ha : QueuesApart s) (hk : mfind s.bel.qs q = some k) (he : e ∈ k.ents)
    (hfin : e.fin = none) (hs : StartsNow s q e.id) (st info : Nat) : EndsWith (s.finEntry e.id st info) q e.id st := by
  obtain ⟨hstart, hdue⟩ := hs
  have hf := ha.find_queue hk he
  obtain ⟨hevent, hdues⟩ := due_finEntry hf st info
  have hbel := State.finEntry_bel hf st info
  refine ⟨⟨?_, hdues _ hdue⟩, ?_, hevent, { e with fin := some (st, info) }, ?_, rfl, rfl⟩
  · rw [hbel]; exact hstart
  · simp [hbel]
  · rw [State.queue, hbel, mfind_mins_self, Option.getD_some, State.queue_of_mfind hk]
    exact List.mem_map.mpr ⟨e, he, if_pos ⟨rfl, by rw [hfin]; rfl⟩⟩

theorem endsWith_endEntry {s : State} {q : Nat} {k : Queue} {e : QEnt} (ha : QueuesApart s) (hk : mfind s.bel.qs q = some k) (he : e ∈ k.ents)
    (hfin : e.fin = none) (st info : Nat) : EndsWith (s.endEntry q e.id st info) q e.id st :=
  endsWith_finEntry (by simpa [QueuesApart] using ha) (by simpa using hk) he hfin (startsNow_startEntry s q e.id) st info

/-! Entries that are served. -/

theorem waiting_entry {s : State} {ty q : Nat} {e : QEnt} (ha : QueuesApart s) (h : (q, e) ∈ s.waiting ty) :
    ∃ k, mfind s.bel.qs q = some k ∧ e ∈ k.ents ∧ e.fin = none := by
  simp only [State.waiting, List.mem_flatMap, List.mem_map, List.mem_filter, Bool.and_eq_true, Option.isNone_iff_eq_none] at h
  obtain ⟨⟨j, k⟩, hx, y, ⟨hy, ⟨-, hfin⟩, -⟩, heq⟩ := h
  cases heq
  exact ⟨k, mfind_of_mem ha.1 hx, hy, hfin⟩

/-- What holds after the entry served has been acted on, and still holds when the event of its type is put into the agenda again,
holds after the event. -/
theorem Serves.serve {s : State} {ty q : Nat} {e : QEnt} (h : Serves s ty q e (entryUse ty)) (hm : entryMgmt ty = false) {ev : Instr}
    {act : State → Nat → Nat → Nat → QEnt → State} {P : State → Prop} (hP : P (act (serving s q) q (s.queueDev q) (s.queue q).ctx e))
    (hs : ∀ t, P t → P (t.schedOnce 1 ev)) : P (s.serve ty ev act) := by
  obtain ⟨⟨-, hw, -, hok⟩, hf⟩ := h
  simp only [State.serve, hw, List.isEmpty_cons, List.find?_cons, hf, hm, hok]
  simp only [Bool.false_eq_true, false_and, Bool.not_true, if_false]
  split
  · exact hP
  · exact hs _ hP

end Sys2Proof.Claims
end

section
/-! SUPPORT. What a message that leaves, a timed event armed and a context reserved leave (R318, R319, R328). -/

namespace Sys2Proof.Claims
open Sys2Proof.Machine

/-! Messages (R319, R328): what is sent leaves storage and the bellows alone. -/

theorem keepsBellows_pump (s : State) (k : Nat) : KeepsBellows s (s.pump k) := by
  simp only [State.pump]
  split
  · exact keepsBellows_sched (s.setLink k _) 0 _
  · exact ⟨rfl, rfl, fun _ h => h⟩

theorem keepsBellows_onLink (s : State) (die k int hops : Nat) (p : Pkt) : KeepsBellows s (s.onLink die k int hops p) := by
  simp only [State.onLink]
  split
  · exact keepsBellows_pump (s.setLink k _) k
  · exact ⟨rfl, rfl, fun _ h => h⟩

theorem keepsBellows_forward (s : State) (die int hops : Nat) (p : Pkt) : KeepsBellows s (s.forward die int hops p) := by
  unfold State.forward
  extract_lets e
  split
  · exact ⟨rfl, rfl, fun _ h => h⟩
  · split
    · exact keepsBellows_onLink ..
    · split
      · exact keepsBellows_onLink ..
      · exact ⟨rfl, rfl, fun _ h => h⟩

theorem keepsBellows_inject (s : State) (p : Pkt) : KeepsBellows s (s.inject p) := by
  simp only [State.inject]
  split
  · exact keepsBellows_onLink s.draw ..
  · exact keepsBellows_forward s.draw ..

theorem keepsBellows_send (s : State) (p : Pkt) : KeepsBellows s (s.send p) := by
  simp only [State.send]
  split
  · split
    · exact keepsBellows_sched s 2 _
    · exact ⟨rfl, rfl, fun _ h => h⟩
  · exact keepsBellows_inject s p

theorem keepsBellows_tell (s : State) (dev c ty : Nat) (dst : Nat × Nat) (m : FluxMsg) : KeepsBellows s (s.tell dev c ty dst m) :=
  keepsBellows_send s _

/-! Timed events (R328). -/

theorem keepsBellows_armTimed (s : State) (dev c : Nat) (e : Timed) : KeepsBellows s (s.armTimed dev c e) := by
  unfold State.armTimed
  extract_lets s1 s2
  have h : KeepsBellows s s2 := keepsBellows_sched s1 _ _
  split
  · exact ⟨h.1, h.2.1, fun i hi => (h.2.2 i hi).sched _ _⟩
  · exact h

end Sys2Proof.Claims

namespace Sys2Proof.Machine
open Sys2Proof.Claims

theorem State.mem_timed_armTimed (s : State) (dev c : Nat) (e : Timed) : e ∈ ((s.armTimed dev c e).dc dev c).timed := by
  unfold State.armTimed
  extract_lets s1 s2
  have h : e ∈ (s1.dc dev c).timed := by simp [s1]
  split
  · exact h
  · exact h

/-! Contexts reserved (R318). -/

/-- A reservation of a context is noted; storage stands. -/
def State.Notes (s : State) (h : Nat) (r : Resv) (t : State) : Prop :=
  t.mem = s.mem ∧ t.bel.launch = mins s.bel.launch h r

theorem State.notes_reserve (s : State) (h dev c ent lead : Nat) (ws : List Word) (boxes : List Desc) :
    s.Notes h { ent := ent, lead := lead, dev := dev, dctx := c, ws := ws, at' := launchAt ws } (s.reserve h dev c ent lead ws boxes) := by
  unfold State.reserve
  extract_lets
  split
  · rw [State.Notes, State.schedOnce_mem, State.schedOnce_bel]
    exact ⟨rfl, rfl⟩
  · exact ⟨rfl, rfl⟩

@[simp] theorem State.reserve_mem (s : State) (h dev c ent lead : Nat) (ws : List Word) (boxes : List Desc) :
    (s.reserve h dev c ent lead ws boxes).mem = s.mem := (s.notes_reserve ..).1
@[simp] theorem State.reserve_launch (s : State) (h dev c ent lead : Nat) (ws : List Word) (boxes : List Desc) :
    (s.reserve h dev c ent lead ws boxes).bel.launch =
      mins s.bel.launch h { ent := ent, lead := lead, dev := dev, dctx := c, ws := ws, at' := launchAt ws } := (s.notes_reserve ..).2

/-- A launch without a timestamp starts at once. -/
theorem State.reserve_now (s : State) (h dev c ent lead : Nat) {ws : List Word} (boxes : List Desc) (hn : launchAt ws = none) :
    h ∈ (s.reserve h dev c ent lead ws boxes).bel.tasks ∧ Due (s.reserve h dev c ent lead ws boxes) .taskStart := by
  simp only [State.reserve, hn, if_true]
  exact ⟨by simp, due_schedOnce_self _ 0 _⟩

/-- A context reserved by an entry, which starts. -/
def State.launched (s : State) (q dev c h : Nat) (e : QEnt) (boxes : List Desc) : State :=
  ((s.reserve h dev c e.id 0 e.ws boxes).reserveFor q h e.id).startEntry q e.id

end Sys2Proof.Machine
end

section
/-! SUPPORT. Launches as entries and as messages (R313, R314, R318, R319). -/

namespace Sys2Proof.Machine
open Sys2Proof.Claims

theorem State.launch_of_error {s u u1 : State} {dev c st : Nat} {e : QEnt} {lv : Option Nat} (q : Nat) (hl : s.launchLevel dev c e.ws = (lv, u))
    (h3 : lv ≠ some 3) (hi : u.launchInfo dev c e.ws = (.error st, u1)) : s.launch q dev c e = u1.endEntry q e.id st 0 := by
  simp only [State.launch, hl, if_neg h3, hi]

theorem State.launch_now {s u u1 : State} {q dev c h : Nat} {e : QEnt} {lv : Option Nat} {i : LaunchInfo} (hl : s.launchLevel dev c e.ws = (lv, u))
    (h3 : lv ≠ some 3) (hi : u.launchInfo dev c e.ws = (.ok i, u1)) (hp : u1.placeTask dev (u1.queue q).nextDie = some h)
    (hn : launchAt e.ws = none) : s.launch q dev c e = u1.launched q dev c h e i.boxes := by
  simp only [State.launch, hl, if_neg h3, hi, hp, hn, State.launched]

theorem State.launch_timed {s u u1 : State} {q dev c h : Nat} {e : QEnt} {lv : Option Nat} {i : LaunchInfo} {x : Word}
    (hl : s.launchLevel dev c e.ws = (lv, u)) (h3 : lv ≠ some 3) (hi : u.launchInfo dev c e.ws = (.ok i, u1))
    (hp : u1.placeTask dev (u1.queue q).nextDie = some h) (hx : launchAt e.ws = some x) :
    s.launch q dev c e = (u1.launched q dev c h e i.boxes).armTimed dev c
      { Timed.new 1 x (((u1.launched q dev c h e i.boxes).dc dev c).evnum + 1) with qent := some e.id, strag := 3 } := by
  simp only [State.launch, hl, if_neg h3, hi, hp, hx, State.launched]

end Sys2Proof.Machine

namespace Sys2Proof.Claims
open Sys2Proof.Machine

/-- A context is reserved for the task of an entry that starts, and its queue remembers the die (R318). -/
def Reserved (m : Mem) (q id h : Nat) (r : Resv) (t : State) : Prop :=
  t.mem = m ∧ StartsNow t q id ∧ (t.queue q).lastDie = some (dieOf h) ∧ mfind t.bel.launch h = some r

theorem Reserved.keepsBellows {m : Mem} {q id h : Nat} {r : Resv} {s t : State} (hr : Reserved m q id h r s) (ht : KeepsBellows s t) :
    Reserved m q id h r t := by
  obtain ⟨hm, hs, hd, hl⟩ := hr
  exact ⟨ht.1.trans hm, hs.keepsBellows ht, by rw [State.queue_congr ht.2.1, hd], by rw [ht.2.1, hl]⟩

theorem reserved_launched (s : State) (q dev c h : Nat) (e : QEnt) (boxes : List Desc) :
    Reserved s.mem q e.id h { ent := e.id, lead := 0, dev := dev, dctx := c, ws := e.ws, at' := launchAt e.ws } (s.launched q dev c h e boxes) := by
  refine ⟨?_, startsNow_startEntry _ q e.id, ?_, ?_⟩
  · simp [State.launched, State.reserveFor]
  · simp [State.launched, State.reserveFor]
  · simp [State.launched, State.reserveFor, State.modQueue]

theorem launched_now (s : State) (q dev c h : Nat) {e : QEnt} (boxes : List Desc) (hn : launchAt e.ws = none) :
    h ∈ (s.launched q dev c h e boxes).bel.tasks ∧ Due (s.launched q dev c h e boxes) .taskStart := by
  obtain ⟨ht, hd⟩ := s.reserve_now h dev c e.id 0 boxes hn
  refine ⟨?_, Due.schedOnce ?_ 0 _⟩
  · rw [State.launched, State.startEntry_bel]; exact ht
  · exact hd

/-! LAUNCH and TLAUNCH as entries (R313, R314, R318). -/

section Entry

variable {s u u1 : State} {q st h : Nat} {e : QEnt} {y : Nat × Instr × Word} {lv : Option Nat} {i : LaunchInfo}

theorem exec_launches (hy : y ∈ launches) (s : State) : exec y.2.1 s = .next (s.serve y.1 y.2.1 State.launch) := by
  rcases List.mem_cons.mp hy with rfl | hy
  · rfl
  · cases List.mem_singleton.mp hy; rfl

theorem entryUse_launches (hy : y ∈ launches) : entryUse y.1 = launchUse y.2.2 ∧ entryMgmt y.1 = false := by
  rcases List.mem_cons.mp hy with rfl | hy
  · exact ⟨rfl, rfl⟩
  · cases List.mem_singleton.mp hy; exact ⟨rfl, rfl⟩

/-- What acting on the entry served leaves, and its event coming again keeps, a launch leaves. -/
theorem launch_leaves (hy : y ∈ launches) (hS : Serves s y.1 q e (launchUse y.2.2)) {P : State → Prop}
    (hP : P ((serving s q).launch q (s.queueDev q) (s.queue q).ctx e)) (hs : ∀ t, P t → P (t.schedOnce 1 y.2.1)) :
    ∃ t, exec y.2.1 s = .next t ∧ P t := by
  obtain ⟨huse, hm⟩ := entryUse_launches hy
  rw [← huse] at hS
  exact ⟨_, exec_launches hy s, hS.serve hm hP hs⟩

variable (hy : y ∈ launches) (hS : Serves s y.1 q e (launchUse y.2.2))
  (hl : (serving s q).launchLevel (s.queueDev q) (s.queue q).ctx e.ws = (lv, u)) (h3 : lv ≠ some 3)
include hy hS hl h3

/-- A launch that fails its checks ends with their status. -/
theorem launch_refused (hi : u.launchInfo (s.queueDev q) (s.queue q).ctx e.ws = (.error st, u1)) (hb : u1.bel = (serving s q).bel) :
    ∃ t, exec y.2.1 s = .next t ∧ EndsWith t q e.id st := by
  refine launch_leaves hy hS ?_ fun t ht => ht.keepsBellows (keepsBellows_schedOnce t 1 _)
  obtain ⟨⟨ha, hw, -⟩, -⟩ := hS
  obtain ⟨k, hk, he, hfin⟩ := waiting_entry ha (hw ▸ List.mem_singleton_self (q, e))
  rw [State.launch_of_error q hl h3 hi]
  have hqs : u1.bel.qs = s.bel.qs := by rw [hb]; rfl
  exact endsWith_endEntry (by rwa [QueuesApart, hqs]) (hqs ▸ hk) he hfin st 0

variable (hi : u.launchInfo (s.queueDev q) (s.queue q).ctx e.ws = (.ok i, u1)) (hb : u1.bel = (serving s q).bel)
  (hp : u1.placeTask (s.queueDev q) (s.queue q).nextDie = some h)
include hi hb hp

/-- A launch without a timestamp is due to start on the context reserved for it. -/
theorem launch_starts_at_once (hn : launchAt e.ws = none) : ∃ t, exec y.2.1 s = .next t ∧
    Reserved u1.mem q e.id h { ent := e.id, lead := 0, dev := s.queueDev q, dctx := (s.queue q).ctx, ws := e.ws, at' := launchAt e.ws } t ∧
    h ∈ t.bel.tasks ∧ Due t .taskStart := by
  refine launch_leaves hy hS ?_ ?_
  · rw [State.launch_now hl h3 hi (by rwa [State.queue_congr hb]) hn]
    exact ⟨reserved_launched .., launched_now _ _ _ _ _ _ hn⟩
  · rintro t ⟨hr, ht, hd⟩
    have hk := keepsBellows_schedOnce t 1 y.2.1
    exact ⟨hr.keepsBellows hk, hk.2.1 ▸ ht, hk.2.2 _ hd⟩

/-- A launch with a timestamp has its start armed. -/
theorem launch_is_armed {x : Word} (hx : launchAt e.ws = some x) : ∃ t, exec y.2.1 s = .next t ∧
    Reserved u1.mem q e.id h { ent := e.id, lead := 0, dev := s.queueDev q, dctx := (s.queue q).ctx, ws := e.ws, at' := launchAt e.ws } t ∧
    ∃ z ∈ (t.dc (s.queueDev q) (s.queue q).ctx).timed, z.kind = 1 ∧ z.t = x ∧ z.qent = some e.id := by
  refine launch_leaves hy hS ?_ ?_
  · rw [State.launch_timed hl h3 hi (by rwa [State.queue_congr hb]) hx]
    exact ⟨(reserved_launched ..).keepsBellows (keepsBellows_armTimed ..), _, State.mem_timed_armTimed .., rfl, rfl, rfl⟩
  · rintro t ⟨hr, hz⟩
    exact ⟨hr.keepsBellows (keepsBellows_schedOnce t 1 _), State.dc_congr (State.schedOnce_dctx t 1 _) _ _ ▸ hz⟩

end Entry

/-! Launch messages (R319). -/

section Message

variable {s u : State} {p : Pkt} {go ent k pr st : Nat} {f : Bool} {ws : List Word} {i : LaunchInfo}
  (hup : s.peerUp p.src = true) (hlive : (s.dc p.dsub p.ctx).live = true)
include hup hlive

theorem exec_launchMessage_refused (hf : p.flux = .launch 0 ent k pr f ws) (hi : s.launchInfo p.dsub p.ctx ws = (.error st, u)) :
    exec (.launchMessage p) s = .next (u.tell p.dsub p.ctx 257 (p.src, p.ssub) (.report ent 0 st 0)) := by
  change execLaunchMessage p s = _
  simp [execLaunchMessage, State.takenIn, hup, hf, hlive, hi]

theorem exec_launchMessage_passed (hf : p.flux = .launch 0 ent k pr f ws) (hi : s.launchInfo p.dsub p.ctx ws = (.ok i, u)) :
    exec (.launchMessage p) s = .next (u.tell p.dsub p.ctx 257 (p.src, p.ssub) (.report ent 0 0 0)) := by
  change execLaunchMessage p s = _
  simp [execLaunchMessage, State.takenIn, hup, hf, hlive, hi]

theorem exec_launchMessage_reserves {h : Nat} (hf : p.flux = .launch go ent k pr f ws) (hgo : go ≠ 0) (hother : p.src ≠ s.net.fpeer)
    (hres : s.resident p.dsub = some p.ctx) (hasked : (s.partOf p.dsub).asked = false) (hi : s.launchInfo p.dsub p.ctx ws = (.ok i, u))
    (hp : s.placeTask p.dsub (s.peerDie p k f) = some h) :
    exec (.launchMessage p) s = .next (((u.reserve h p.dsub p.ctx ent (memberKey p.src p.ssub + 1) ws i.boxes).usedDie p k h).tell
      p.dsub p.ctx 257 (p.src, p.ssub) (.report ent 2 0 0)) := by
  change execLaunchMessage p s = _
  simp [execLaunchMessage, State.takenIn, hup, hf, hlive, hgo, hother, hres, hasked, hi, hp]

end Message

end Sys2Proof.Claims
end

section
/-! SUPPORT. Reports of members on a launch (R319). -/

namespace Sys2Proof.Machine
open Sys2Proof.Claims

/-- An entry with a member's report kept in the entry of a number. -/
def QEnt.reported (ent key kind status : Nat) (ccy : Word) (e : QEnt) : QEnt :=
  if e.id ≠ ent then e
  else if kind = 0 then { e with checks := mins e.checks key status }
  else if kind = 2 then { e with checks := mins e.checks key 256 }
  else { e with ends := mins e.ends key (status, ccy) }

/-- A queue with a member's report kept in the entry of a number. -/
def Queue.reported (ent key kind status : Nat) (ccy : Word) (k : Queue) : Queue :=
  { k with ents := k.ents.map (QEnt.reported ent key kind status ccy) }

theorem State.entryReport_qs (s : State) (ent key kind status : Nat) (ccy : Word) :
    (s.entryReport ent key kind status ccy).bel.qs = s.bel.qs.map fun x => (x.1, Queue.reported ent key kind status ccy x.2) := rfl

theorem State.mfind_entryReport {s : State} {q : Nat} {k : Queue} (hk : mfind s.bel.qs q = some k) (ent key kind status : Nat) (ccy : Word) :
    mfind (s.entryReport ent key kind status ccy).bel.qs q = some (k.reported ent key kind status ccy) := by
  rw [State.entryReport_qs, mfind_map, hk, Option.map_some]

@[simp] theorem QEnt.reported_id (ent key kind status : Nat) (ccy : Word) (e : QEnt) : (e.reported ent key kind status ccy).id = e.id := by
  unfold QEnt.reported
  split
  · rfl
  · split
    · rfl
    · split <;> rfl

theorem QEnt.reported_checks (e : QEnt) (key status : Nat) (ccy : Word) :
    e.reported e.id key 0 status ccy = { e with checks := mins e.checks key status } := by
  simp [QEnt.reported]

/-- An entry of a launch whose only member refuses it ends with the member's status. -/
theorem State.reviewLaunch_of_refusal {s : State} {q st : Nat} {e : QEnt} {m : Nat × Nat} (hs : e.started = false) (hfin : e.fin = none)
    (hn : (q, e.id) ∉ s.bel.starts) (hm : (s.dc (s.queueDev q) (s.queue q).ctx).members = [m]) (hc : e.checks = [(memberKey m.1 m.2, st)])
    (h0 : st ≠ 0) (h2 : st ≠ 256) : s.reviewLaunch q e = s.endEntry q e.id st 0 := by
  simp [State.reviewLaunch, hs, hfin, hn, hm, hc, h0, h2, mfind]

end Sys2Proof.Machine

namespace Sys2Proof.Claims
open Sys2Proof.Machine

theorem QueuesApart.entryReport {s : State} (h : QueuesApart s) (ent key kind status : Nat) (ccy : Word) :
    QueuesApart (s.entryReport ent key kind status ccy) := by
  obtain ⟨hkeys, hids⟩ := h
  rw [QueuesApart, State.entryReport_qs, mkeysFrom_map]
  refine ⟨hkeys, fun x' hx' y' hy' e' he' f' hf' hid => ?_⟩
  obtain ⟨x, hx, rfl⟩ := List.mem_map.mp hx'
  obtain ⟨y, hy, rfl⟩ := List.mem_map.mp hy'
  obtain ⟨e, he, rfl⟩ := List.mem_map.mp he'
  obtain ⟨f, hf, rfl⟩ := List.mem_map.mp hf'
  obtain ⟨hq, rfl⟩ := hids x hx y hy e he f hf (by simpa using hid)
  exact ⟨hq, rfl⟩

/-- The number of an entry names it. -/
theorem QueuesApart.find_entry {s : State} (h : QueuesApart s) {q : Nat} {k : Queue} {e : QEnt} (hk : mfind s.bel.qs q = some k) (he : e ∈ k.ents) :
    s.bel.qs.findSome? (fun x => (x.2.ents.find? fun y => y.id == e.id).map fun y => (x.1, y)) = some (q, e) := by
  have hmem : (q, k) ∈ s.bel.qs := mem_of_mfind hk
  cases hf : s.bel.qs.findSome? (fun x => (x.2.ents.find? fun y => y.id == e.id).map fun y => (x.1, y)) with
  | none =>
    have hnone := Option.map_eq_none_iff.mp (List.findSome?_eq_none_iff.mp hf _ hmem)
    exact absurd (beq_self_eq_true e.id) (List.find?_eq_none.mp hnone e he)
  | some z =>
    obtain ⟨x, hx, hz⟩ := List.exists_of_findSome?_eq_some hf
    obtain ⟨y, hy, rfl⟩ := Option.map_eq_some_iff.mp hz
    obtain ⟨hq, hye⟩ := h.2 x hx _ hmem y (List.mem_of_find?_eq_some hy) e he (eq_of_beq (List.find?_some hy :))
    rw [hq, hye]

/-- A member's report of the end of its task is kept, and the entries are looked at. -/
theorem exec_memberReport_end {s : State} {p : Pkt} {ent st : Nat} {ccy : Word} (hup : s.peerUp p.src = true) (hf : p.flux = .report ent 1 st ccy) :
    exec (.memberReport p) s = .next ((s.entryReport ent (memberKey p.src p.ssub) 1 st ccy).schedOnce 0 .entryComplete) := by
  change execMemberReport p s = _
  simp [execMemberReport, State.takenIn, hup, hf]

/-- A member's report of its checks is kept, and what has come to the entry is reviewed. -/
theorem exec_memberReport_checks {s : State} {p : Pkt} {q st : Nat} {ccy : Word} {k : Queue} {e : QEnt} (hup : s.peerUp p.src = true)
    (ha : QueuesApart s) (hk : mfind s.bel.qs q = some k) (he : e ∈ k.ents) (hf : p.flux = .report e.id 0 st ccy) :
    exec (.memberReport p) s = .next ((s.entryReport e.id (memberKey p.src p.ssub) 0 st ccy).reviewLaunch q
      { e with checks := mins e.checks (memberKey p.src p.ssub) st }) := by
  have hfind := (ha.entryReport e.id (memberKey p.src p.ssub) 0 st ccy).find_entry (State.mfind_entryReport hk ..) (List.mem_map_of_mem he)
  rw [QEnt.reported_id, QEnt.reported_checks] at hfind
  change execMemberReport p s = _
  simp [execMemberReport, State.takenIn, hup, hf, hfind]

theorem endsWith_reviewLaunch {s : State} {q st : Nat} {k : Queue} {e : QEnt} {m : Nat × Nat} (ha : QueuesApart s)
    (hk : mfind s.bel.qs q = some k) (he : e ∈ k.ents) (hs : e.started = false) (hfin : e.fin = none) (hn : (q, e.id) ∉ s.bel.starts)
    (hm : (s.dc (s.queueDev q) k.ctx).members = [m]) (hc : e.checks = [(memberKey m.1 m.2, st)]) (h0 : st ≠ 0) (h2 : st ≠ 256) :
    EndsWith (s.reviewLaunch q e) q e.id st := by
  rw [State.reviewLaunch_of_refusal hs hfin hn (by rwa [State.queue_of_mfind hk]) hc h0 h2]
  exact endsWith_endEntry ha hk he hfin st 0

/-- The refusal of the only member ends the entry with its status. -/
theorem memberReport_refusal_ends {s : State} {p : Pkt} {q st : Nat} {ccy : Word} {k : Queue} {e : QEnt} (hup : s.peerUp p.src = true)
    (ha : QueuesApart s) (hk : mfind s.bel.qs q = some k) (he : e ∈ k.ents) (hs : e.started = false) (hfin : e.fin = none) (hc : e.checks = [])
    (h0 : st ≠ 0) (h2 : st ≠ 256) (hn : (q, e.id) ∉ s.bel.starts) (hm : (s.dc (s.queueDev q) k.ctx).members = [(p.src, p.ssub)])
    (hf : p.flux = .report e.id 0 st ccy) : ∃ t, exec (.memberReport p) s = .next t ∧ EndsWith t q e.id st := by
  refine ⟨_, exec_memberReport_checks hup ha hk he hf, ?_⟩
  exact endsWith_reviewLaunch (ha.entryReport ..) (State.mfind_entryReport hk ..) (List.mem_map.mpr ⟨e, he, e.reported_checks ..⟩)
    hs hfin hn hm (by rw [hc]; rfl) h0 h2

end Sys2Proof.Claims
end

section
/-! SUPPORT. The start of the task of a launch (R12, R315, R316). -/

namespace Sys2Proof.Machine
open Sys2Proof.Claims

/-- The task that a reserved context starts with. -/
def State.firstTask (s : State) (r : Resv) (i : LaunchInfo) : Task :=
  { dev := r.dev, dctx := r.dctx, lvl := i.lvl, cbase := i.cbase, csize := i.csize, key := (s.dc r.dev r.dctx).key, image := r.ws.getD 1 0,
    parent := none, queue := some r.ent, lead := r.lead, gang := none, chan := i.chan, occ := startOcc i.tws }

/-- The context that it starts on. -/
def State.firstCtx (s : State) (r : Resv) (i : LaunchInfo) : Ctx :=
  startCtx s.clk.wall (s.firstTask r i) i.tws (i.boxes.zipIdx.foldl (fun m x => mput Desc.none m x.2 x.1) []) (startReg [] 2 (r.ws.getD 4 0))
    (r.ws.getD 6 0) 0

/-- The task of a reserved context starts once its boxes are zeroed. -/
theorem State.startTask_of_ok {s u s1 : State} {h : Nat} {r : Resv} {i : LaunchInfo} {ws : List (List (Place × List Byte × Option Tag))}
    (hi : s.launchInfo r.dev r.dctx r.ws = (.ok i, u)) (hz : (zeroed i.boxes).map (u.zeroWrites r.dev r.dctx) = ws.map some)
    (hm : u.mirroredAll ws.flatten = (true, s1)) :
    s.startTask h r = (((s1.writeParts ws.flatten).dropResv h).modDc r.dev r.dctx fun d => d.startEnds i.chan).setCtx h
      ((s1.writeParts ws.flatten).firstCtx r i) := by
  have hall : (ws.map some).any Option.isNone = false := by simp
  have hid : (ws.map some).filterMap id = ws := by simp
  simp only [State.startTask, hi, hz, hall, hid, hm, Bool.false_eq_true, if_false, Bool.not_true]
  rfl

theorem State.firstCtx_views (s : State) (r : Resv) (i : LaunchInfo) : (s.firstCtx r i).f.vd = startViews i.tws := by
  simp only [State.firstCtx, startCtx]

theorem State.firstCtx_box (s : State) (r : Resv) (i : LaunchInfo) (n : Nat) : (s.firstCtx r i).box n = i.boxes.getD n Desc.none :=
  mget_foldl_mput_zipIdx ..

end Sys2Proof.Machine

namespace Sys2Proof.Claims
open Sys2Proof.Machine

theorem exec_taskStart_of_none {s : State} (h : s.bel.tasks = []) : exec .taskStart s = .next s := by
  change execTaskStart s = _
  simp [execTaskStart, h]

/-- The one task due to start, on a resident context that is not halted, starts; the event comes again while tasks are due. -/
theorem exec_taskStart_of_one {s : State} {h : Nat} {r : Resv} (ht : s.bel.tasks = [h]) (hr : mfind s.bel.launch h = some r)
    (hres : s.resident r.dev = some r.dctx) (hhalt : (s.partOf r.dev).halt = false) :
    exec .taskStart s = .next (if (s.startTask h r).bel.tasks.isEmpty then s.startTask h r else (s.startTask h r).schedOnce 1 .taskStart) := by
  change execTaskStart s = _
  simp [execTaskStart, ht, hr, hres, hhalt]

/-- It starts on the context reserved for it, its boxes zeroed. -/
theorem taskStart_of_one {s u s1 : State} {h : Nat} {r : Resv} {i : LaunchInfo} {ws : List (List (Place × List Byte × Option Tag))}
    (ht : s.bel.tasks = [h]) (hr : mfind s.bel.launch h = some r) (hres : s.resident r.dev = some r.dctx) (hhalt : (s.partOf r.dev).halt = false)
    (hi : s.launchInfo r.dev r.dctx r.ws = (.ok i, u)) (hz : (zeroed i.boxes).map (u.zeroWrites r.dev r.dctx) = ws.map some)
    (hm : u.mirroredAll ws.flatten = (true, s1)) :
    ∃ t, exec .taskStart s = .next t ∧ t.mem = (s1.writeParts ws.flatten).mem ∧ t.ctx h = (s1.writeParts ws.flatten).firstCtx r i := by
  refine ⟨_, exec_taskStart_of_one ht hr hres hhalt, ?_⟩
  have hmem : (s.startTask h r).mem = (s1.writeParts ws.flatten).mem := by rw [State.startTask_of_ok hi hz hm]; rfl
  have hctx : (s.startTask h r).ctx h = (s1.writeParts ws.flatten).firstCtx r i := by
    rw [State.startTask_of_ok hi hz hm, State.ctx_setCtx, if_pos rfl]
  split
  · exact ⟨hmem, hctx⟩
  · exact ⟨(State.schedOnce_mem ..).trans hmem, (State.ctx_congr (State.schedOnce_hw ..) h).trans hctx⟩

end Sys2Proof.Claims
end

section
/-! Launches (R12, R300, R313 to R316, R318, R319). -/

open Sys2Proof Sys2Proof.Machine Sys2Proof.Claims

/-- Settles O50: the launch as an entry, which is refused, starts at once or is armed; its message to a member, to check or to reserve;
the reports of a member; and the start of its task. -/
theorem launchesStartTheirTasks : Obligations.LaunchesStartTheirTasks := by
  unfold Obligations.LaunchesStartTheirTasks
  intro s q e r dev c
  refine ⟨?entry, ?checks, ?reserves, ?ended, ?refusal, exec_taskStart_of_none, ?start⟩
  case entry =>
    intro y hy u lv hS hl h3
    refine ⟨fun st u1 hi hb => launch_refused hy hS hl h3 hi hb, fun i u1 h hi hb hp => ?_⟩
    cases hat : launchAt e.ws with
    | none =>
      obtain ⟨t, ht, ⟨hmem, hstarts, hdie, hresv⟩, hnow⟩ := launch_starts_at_once hy hS hl h3 hi hb hp hat
      exact ⟨t, ht, hmem, hstarts, hdie, hat ▸ hresv, fun _ => hnow, nofun⟩
    | some x =>
      obtain ⟨t, ht, ⟨hmem, hstarts, hdie, hresv⟩, harmed⟩ := launch_is_armed hy hS hl h3 hi hb hp hat
      refine ⟨t, ht, hmem, hstarts, hdie, hat ▸ hresv, nofun, ?_⟩
      rintro _ ⟨⟩
      exact harmed
  case checks =>
    intro p ent k pr f ws hup hlive hf
    exact ⟨fun st u hi => exec_launchMessage_refused hup hlive hf hi, fun i u hi => exec_launchMessage_passed hup hlive hf hi⟩
  case reserves =>
    intro p go ent k pr f ws i u h hup hlive hf hgo hother hres hasked hi hp
    refine ⟨_, exec_launchMessage_reserves hup hlive hf hgo hother hres hasked hi hp, ?_⟩
    obtain ⟨hmem, hbel, -⟩ := keepsBellows_tell
      ((u.reserve h p.dsub p.ctx ent (memberKey p.src p.ssub + 1) ws i.boxes).usedDie p k h) p.dsub p.ctx 257 (p.src, p.ssub) (.report ent 2 0 0)
    refine ⟨hmem.trans (State.reserve_mem ..), ?_⟩
    rw [hbel, State.usedDie, State.reserve_launch, mfind_mins_self]
  case ended => exact fun p ent st ccy hup hf => exec_memberReport_end hup hf
  case refusal =>
    rintro p _ st ccy k hup ha hk he rfl hs hfin hc h0 h2 hn hm hf
    exact memberReport_refusal_ends hup ha hk he hs hfin hc h0 h2 hn hm hf
  case start =>
    intro h v i u ws s1 ht hr hres hhalt hi hz hm
    obtain ⟨t, hexec, hmem, hctx⟩ := taskStart_of_one ht hr hres hhalt hi hz hm
    refine ⟨t, (s1.writeParts ws.flatten).firstTask v i, hexec, hmem, ?_⟩
    rw [hctx]
    exact ⟨rfl, rfl, rfl, rfl, rfl, State.firstCtx_views _ v i, fun n _ _ => State.firstCtx_box _ v i n, rfl, rfl, rfl, rfl, rfl, rfl, rfl, rfl⟩

end

section
/-! SUPPORT. Results of the swage: what a raw and a tagged result leave, once a body has come to them (R267, R269, R273). -/

namespace Sys2Proof.Machine
open Sys2Proof.Claims

theorem latchM_latched {s : State} {h : Nat} (hl : LatchFree s h) (sl : Slot) (dist : Nat) (ws : List Wr) (code : Nat) (tile : Bool) :
    latchM h sl dist ws code tile s = .ok ((), latched s h sl dist ws code tile) := latchM_ok hl

theorem swageM_taken {s : State} {h : Nat} (hv : (s.core (coreOf h)).vfree ≤ s.clk.wall) (rows : Nat) :
    swageM h rows s = .ok ((), swageTaken s h rows) := by
  unfold swageM
  rw [M.bind_ok (getM_apply s), if_neg (by omega)]
  rfl

/-- A free swage and a free latch take the parts of a result. -/
theorem swage_latched {s : State} {h : Nat} (hv : (s.core (coreOf h)).vfree ≤ s.clk.wall) (hl : LatchFree s h) (rows dist : Nat) (ws : List Wr)
    (code : Nat) : (do swageM h rows; latchM h .v dist ws code) s = .ok ((), latched (swageTaken s h rows) h .v dist ws code false) := by
  have hfree : LatchFree (swageTaken s h rows) h := hl
  rw [M.bind_ok (swageM_taken hv rows)]
  exact latchM_latched hfree ..

theorem rawLanes_eq_lanesOf (x : Grid) (d : Dst) (f : Nat → Nat → Nat × Nat) : rawLanes x d f = lanesOf x d f := by
  funext r
  refine List.map_congr_left fun k _ => ?_
  by_cases ha : r < x.rows ∧ k < x.cols <;> by_cases he : x.en r k = true <;> simp [ha, he]

/-- An operation whose body comes to a raw result. -/
theorem rawResult_of_slotOp {op : Instr} {g : Guard} {body : Nat → M Unit} {s s1 : State} {i : Iss} {d : Opnd} {dst : Dst} {x : Grid} {lat : Nat}
    {f : Nat → Nat → Nat × Nat} (hop : exec op s = slotOp .v g body s) (hi : Issues s i g) (hb : body i.h s = putRaw i.h d dst x lat f s1) :
    RawResult op s s1 i d dst x lat f := by
  obtain ⟨hiss, hguard⟩ := hi
  refine ⟨fun h0 => hop.trans (slotOp_next (u := ()) hiss hguard ?_), fun ws s2 h0 hw hv hl => hop.trans (slotOp_next (u := ()) hiss hguard ?_)⟩
  · rw [hb, putRaw, if_pos h0, M.pure_apply]
  · rw [hb, putRaw, if_neg h0, rawLanes_eq_lanesOf, M.bind_ok hw]
    exact swage_latched hv hl ..

/-- An operation whose body comes to a tagged result through a view. -/
theorem taggedResult_of_slotOp {op : Instr} {g : Guard} {body : Nat → M Unit} {s s1 : State} {i : Iss} {d : Opnd} {dst : Dst} {v : View} {x : Grid}
    {blk : Nat → Nat → Block} (hop : exec op s = slotOp .v g body s) (hi : Issues s i g) (hview : dst.view = some v)
    (hb : body i.h s = putTagged i.h d dst x 6 blk s1) : TaggedResult op s s1 i d dst v x blk := by
  obtain ⟨hiss, hguard⟩ := hi
  refine ⟨fun h0 => hop.trans (slotOp_next (u := ()) hiss hguard ?_), fun h0 hv hl => hop.trans (slotOp_next (u := ()) hiss hguard ?_)⟩
  · simp only [hb, putTagged, hview, if_pos h0, M.pure_apply]
  · simp only [hb, putTagged, hview, if_neg h0]
    exact swage_latched hv hl ..

end Sys2Proof.Machine
end

section
/-! SUPPORT. Conversions and row reductions (R267, R268, R272 to R275). -/

namespace Sys2Proof.Claims
open Sys2Proof.Machine

theorem exec_vcvt (g : Guard) (rm : BitVec 2) (d b : Opnd) (csel : BitVec 3) (m : VMask) (s : State) :
    exec (.vcvt g rm d b csel m) s = execVcvt g rm d b csel m s := rfl
theorem exec_vpack (g : Guard) (rm : BitVec 2) (d b : Opnd) (csel : BitVec 3) (m : VMask) (s : State) :
    exec (.vpack g rm d b csel m) s = execVpack g rm d b csel m s := rfl
theorem exec_vsum (g : Guard) (rm : BitVec 2) (d b : Opnd) (m : VMask) (s : State) :
    exec (.vsum g rm d b m) s = vReduce (sumRow rm.toNat) g d b m s := rfl
theorem exec_vmaxr (g : Guard) (d b : Opnd) (m : VMask) (s : State) : exec (.vmaxr g d b m) s = vReduce maxRow g d b m s := rfl

/-- A check that concerns some operands alone. -/
theorem not_or_of_imp {a b : Bool} (h : a = true → b = true) : (!a || b) = true := by
  cases a
  · rfl
  · exact h rfl

section Conversions

variable {g : Guard} {d b : Opnd} {csel : BitVec 3} {m : VMask} {s s1 : State} {i : Iss} {dst : Dst} {q : Meta} {x : Grid} {y : Src}
  (hd : dstM i.h .v d (flagAt m.st 0) s = .ok (dst, s)) (hq : metaM i.h .v b (flagAt m.st 1) 1 s = .ok (q, s))
  (hx : gridM i.h m dst.rows dst.cols s = .ok (x, s)) (hcols : q.strict = true → x.cols ≤ q.cols)
  (hview : fmtTagged dst.fmt = true → dst.view.isSome = true) (hcsel : cselOk dst.fmt csel.toNat = true)
  (hitem : itemsM i.h [b] s = .ok ((), s)) (hy : rowSrc i.h .v b (flagAt m.st 1) 1 (q.fmt.getD 0) s = .ok (y, s1))
include hd hq hx hcols hview hcsel hitem hy

/-- With the checks passed and the source read, `vcvt` comes to its result, tagged or raw. -/
theorem vcvt_comes_to_result (hfits : dstFits i.h d x.cols s = .ok ((), s)) (hok : cvtOk (q.fmt.getD 0) dst.fmt = true)
    (htags : tagsOk y x.rows x.cols = true) (rm : BitVec 2) :
    ∃ body, exec (.vcvt g rm d b csel m) s = slotOp .v g body s ∧ body i.h s =
      (if fmtTagged dst.fmt then
        putTagged i.h d dst x 6 (cvtBlock x dst.fmt (mkTag 127 ((cselCode csel.toNat).getD 0)) fun r k =>
          nEncode ((cselCode csel.toNat).getD 0) rm.toNat (srcVal y r k))
      else putRaw i.h d dst x 6 (cvtRaw rm.toNat dst.fmt y)) s1 := by
  refine ⟨_, exec_vcvt g rm d b csel m s, ?_⟩
  rw [M.bind_ok hd, M.bind_ok hq, M.bind_ok hx, M.bind_ok (needM_true (not_or_of_imp fun h => decide_eq_true (hcols h)) ..),
    M.bind_ok (needM_true (not_or_of_imp hview) ..), M.bind_ok hfits, M.bind_ok (needM_true hcsel ..), M.bind_ok (needM_true hok ..),
    M.bind_ok hitem, M.bind_ok hy, M.bind_ok (needM_true htags ..)]

/-- With the checks passed and the source read, `vpack` comes to its tagged result. -/
theorem vpack_comes_to_result (hfloat : fmtFloat (q.fmt.getD 0) = true) (htag : fmtTagged dst.fmt = true) (rm : BitVec 2) :
    ∃ body, exec (.vpack g rm d b csel m) s = slotOp .v g body s ∧
      body i.h s = putTagged i.h d dst x 6 (packOf x dst.fmt ((cselCode csel.toNat).getD 0) rm.toNat y) s1 := by
  refine ⟨_, exec_vpack g rm d b csel m s, ?_⟩
  rw [M.bind_ok hd, M.bind_ok hq, M.bind_ok hx, M.bind_ok (needM_true (not_or_of_imp fun h => decide_eq_true (hcols h)) ..),
    M.bind_ok (needM_true (not_or_of_imp hview) ..), M.bind_ok (needM_true hcsel ..),
    M.bind_ok (needM_true (Bool.and_eq_true_iff.mpr ⟨hfloat, htag⟩) ..), M.bind_ok hitem, M.bind_ok hy]

end Conversions

/-! Reductions (R51, R275). -/

/-- The sum of the lanes of a row (R51, R275): a float's in ascending order, an integer's in exact arithmetic, wrapped. -/
def rowSum (rm F : Nat) (l : List Nat) : Nat × Nat :=
  if fmtFloat F then (match l with | [] => (0, 0) | a :: l => sumGo (ffmt F) rm l a 0) else (wrapTo (fmtBits F) (l.map (intVal F)).sum, 0)

theorem sumRow_eq_rowSum (rm F : Nat) (l : List Nat) : sumRow rm F l = rowSum rm F l := by
  by_cases hF : fmtFloat F = true
  · cases l <;> simp [sumRow, rowSum, hF]
  · simp [sumRow, rowSum, hF, List.sum_eq_foldl]

/-- The result of a row reduction, as the model puts it (R267, R275). -/
def putReduction (h : Nat) (d : Opnd) (dst : Dst) (x : Grid) (F : Nat) (res : Nat → Nat × Nat) : M Unit :=
  if x.rows = 0 then pure ()
  else do
    let ws ← rowsWrs h d { dst with fmt := F } x.rows 1 (fun r => if r < x.rows then [.val (res r).1] else []) Wr.vbAt Wr.vb fun _ => []
    swageM h x.rows
    latchM h .v (latRed F + x.rows - 1) (ws ++ flagWrs ((List.range x.rows).foldl (fun a r => flOr a (res r).2) 0)) d.code.toNat

/-- A row reduction leaves the result of each active row in its column 0, and its flags (R267, R269, R275). -/
def ReductionResult (op : Instr) (s s1 : State) (i : Iss) (d : Opnd) (dst : Dst) (x : Grid) (F : Nat) (res : Nat → Nat × Nat) : Prop :=
  (x.rows = 0 → exec op s = .next s1) ∧
  ∀ ws s2, x.rows ≠ 0 →
    rowsWrs i.h d { dst with fmt := F } x.rows 1 (fun r => if r < x.rows then [.val (res r).1] else []) Wr.vbAt Wr.vb (fun _ => []) s1 =
      .ok (ws, s2) →
    (s2.core (coreOf i.h)).vfree ≤ s2.clk.wall → LatchFree s2 i.h →
    exec op s = .next (latched (swageTaken s2 i.h x.rows) i.h .v (latRed F + x.rows - 1)
      (ws ++ flagWrs ((List.range x.rows).foldl (fun a r => flOr a (res r).2) 0)) d.code.toNat false)

/-- An operation whose body comes to the result of a reduction. -/
theorem reductionResult_of_slotOp {op : Instr} {g : Guard} {body : Nat → M Unit} {s s1 : State} {i : Iss} {d : Opnd} {dst : Dst} {x : Grid}
    {F : Nat} {res : Nat → Nat × Nat} (hop : exec op s = slotOp .v g body s) (hi : Issues s i g)
    (hb : body i.h s = putReduction i.h d dst x F res s1) : ReductionResult op s s1 i d dst x F res := by
  obtain ⟨hiss, hguard⟩ := hi
  refine ⟨fun h0 => hop.trans (slotOp_next (u := ()) hiss hguard ?_), fun ws s2 h0 hw hv hl => hop.trans (slotOp_next (u := ()) hiss hguard ?_)⟩
  · rw [hb, putReduction, if_pos h0, M.pure_apply]
  · rw [hb, putReduction, if_neg h0, M.bind_ok hw]
    exact swage_latched hv hl ..

/-- With the checks passed and the source read, a reduction of the enabled lanes of each active row comes to its result. -/
theorem reductionResult_vReduce {op : Instr} {red : Nat → List Nat → Nat × Nat} {res : List Nat → Nat × Nat} {g : Guard} {d b : Opnd}
    {m : VMask} {s s1 : State} {i : Iss} {dst : Dst} {q : Meta} {x : Grid} {y : Src} (hop : exec op s = vReduce red g d b m s)
    (hred : ∀ l, red (q.fmt.getD dst.fmt) l = res l) (hi : Issues s i g) (hd : dstM i.h .v d (flagAt m.st 0) s = .ok (dst, s))
    (hq : metaM i.h .v b (flagAt m.st 1) 1 s = .ok (q, s)) (hx : gridM i.h m dst.rows q.cols s = .ok (x, s)) (hwp : ∀ n, d ≠ .wp n)
    (hfmt : (∃ n, d = .g n) ∨ dst.fmt = q.fmt.getD dst.fmt) (hfits : dstFits i.h d 1 s = .ok ((), s))
    (hraw : fmtRaw (q.fmt.getD dst.fmt) = true) (hitem : itemsM i.h [b] s = .ok ((), s))
    (hy : rowSrc i.h .v b (flagAt m.st 1) 1 (q.fmt.getD dst.fmt) s = .ok (y, s1)) :
    ReductionResult op s s1 i d dst x (q.fmt.getD dst.fmt) fun r => res (((List.range x.cols).filter (x.en r)).map fun k => y.at r k) := by
  obtain rfl : red (q.fmt.getD dst.fmt) = res := funext hred
  refine reductionResult_of_slotOp hop hi ?_
  rw [M.bind_ok hd, M.bind_ok hq, M.bind_ok hx, M.bind_ok (needM_true ?dst ..), M.bind_ok hfits, M.bind_ok (needM_true hraw ..),
    M.bind_ok hitem, M.bind_ok hy]
  · rfl
  case dst =>
    split
    · exact absurd rfl (hwp _)
    · rfl
    · next hg => exact beq_iff_eq.mpr (hfmt.resolve_left fun ⟨n, hn⟩ => hg n hn)

theorem vectorConversions : VectorConversions := by
  intro g rm d b csel m s s1 i dst q x y hi hd hq hx hcols hview hfits hcsel hitem hy
  refine ⟨fun hok htags => ?cvt, fun v hfloat htag hv => ?pack⟩
  case cvt =>
    obtain ⟨body, hop, hb⟩ := vcvt_comes_to_result (g := g) hd hq hx hcols hview hcsel hitem hy hfits hok htags rm
    exact ⟨fun hraw => rawResult_of_slotOp hop hi (hb.trans (congrFun (if_neg (by simp [hraw])) s1)),
      fun v htag hv => taggedResult_of_slotOp hop hi hv (hb.trans (congrFun (if_pos htag) s1))⟩
  case pack =>
    obtain ⟨body, hop, hb⟩ := vpack_comes_to_result (g := g) hd hq hx hcols hview hcsel hitem hy hfloat htag rm
    exact taggedResult_of_slotOp hop hi hv hb

theorem vectorReductions : VectorReductions := by
  intro g rm d b m s s1 i dst q x y hi hd hq hx F hwp hfmt hfits hraw hitem hy
  constructor
  · exact reductionResult_vReduce (res := rowSum rm.toNat F) (exec_vsum g rm d b m s) (sumRow_eq_rowSum rm.toNat F) hi hd hq hx hwp hfmt hfits
      hraw hitem hy
  · exact reductionResult_vReduce (res := maxRow F) (exec_vmaxr g d b m s) (fun _ => rfl) hi hd hq hx hwp hfmt hfits hraw hitem hy

end Sys2Proof.Claims
end

section
/-! Conversions and row reductions of the V slot (R43 to R45, R51, R267, R268, R272 to R275). -/

open Sys2Proof Sys2Proof.Machine Sys2Proof.Claims

/-- Settles O33: each conversion comes to one raw or tagged result, and a row reduction to the result of each row's enabled lanes. -/
theorem vectorConversionsAndReductions : Obligations.VectorConversionsAndReductions := ⟨vectorConversions, vectorReductions⟩

end

section
/-! SUPPORT. The hammer's multiply operations: the tile they leave and their two latches (R48 to R50, R285 to R288). -/

namespace Sys2Proof.Machine
open Sys2Proof.Claims

/-- An element of the tile that an operation on views leaves, and its status, with C read in a context `kc` (R48, R49, R287). -/
def tileElem (narrow : Bool) (x : Tile) (k kc : Ctx) (va vb vc : View) (i j : Nat) : Nat × Nat :=
  tileRes x narrow (rowsOfView k va) (fun r q => k.elem vb r q) (fun j => k.rtag (vb.base + vb.stride * j)) (fun i j => kc.elem vc i j) i j

/-- The elements of a tile row by row, which start from the pending results where C is among the pending accumulators (R50). -/
def tileTable (narrow : Bool) (x : Tile) (k : Ctx) (va vb vc : View) : List (List (Nat × Nat)) :=
  let kc := if k.accums.contains vc.name then k.chained else k
  (List.range x.cr).map fun i => (List.range x.cc).map fun j => tileElem narrow x k kc va vb vc i j

/-- The writes of a tile through its view. -/
def tileWrs (vc : View) (tab : List (List (Nat × Nat))) : List Wr :=
  tab.zipIdx.flatMap fun (l, i) => viewWrs vc i (l.map fun e => Lane.val e.1)

/-- The status of a tile (R288). -/
def tileStatus (x : Tile) (tab : List (List (Nat × Nat))) : Nat :=
  tab.foldl (fun z r => r.foldl (fun z e => z ||| tileOf (ffmt x.cf) e.1 ||| e.2) z) 0

/-- The latch of a tile's result (R286). -/
def tileLatch (tok occ code : Nat) (ws : List Wr) : Latch :=
  { tok := tok, slot := Slot.h.num, code := code, dist := occ + 8, here := true, occ := true, tile := false, wrs := ws }

/-- The latch of a tile's status, which lands after the pending statuses of its register in `k` (R288). -/
def statusLatch (k : Ctx) (tok occ n : Nat) (st : Word) (acc : Bool) : Latch :=
  { tok := tok, slot := Slot.h.num, code := 0, dist := max (occ + 12) (k.statusDist n), here := true, occ := false, tile := true,
    wrs := [.ts n st acc] }

/-- The array of a core taken for an occupancy (R159). -/
def State.takeHammer (s : State) (h occ : Nat) : State := { s with ham := mput 0 s.ham (coreOf h / 2) (s.clk.wall + occ) }

/-- A context with one latch more, behind the others. -/
def Ctx.withLatch (c : Ctx) (l : Latch) : Ctx := { c with lats := c.lats ++ [l] }

/-- A context with an operation of the tile class counted, and its two latches behind the others. -/
def Ctx.multiplied (c : Ctx) (l m : Latch) : Ctx := { c with wc := { c.wc with tl := c.wc.tl + 1 }, lats := c.lats ++ [l] ++ [m] }

/-- The state that a multiply operation leaves: two latches more, and the array taken. -/
def State.hammered (s : State) (h occ : Nat) (l m : Latch) : State :=
  (s.bump.bump.modCtx h fun c => c.multiplied l m).takeHammer h occ

theorem wr_of_mem_viewWrs {v : View} {row : Nat} {lanes : List Lane} {w : Wr} (h : w ∈ viewWrs v row lanes) :
    (∃ a bs, w = .bytes a bs) ∨ ∃ gr t, w = .tag gr t := by
  rcases List.mem_append.mp h with h | h
  · obtain ⟨⟨k, bs⟩, -, rfl⟩ := List.mem_map.mp h
    exact .inl ⟨_, _, rfl⟩
  · obtain ⟨g, -, rfl⟩ := List.mem_map.mp h
    exact .inr ⟨_, _, rfl⟩

/-- A tile's result writes no status. -/
theorem no_status_of_tileWrs {vc : View} {tab : List (List (Nat × Nat))} {w : Wr} (hw : w ∈ tileWrs vc tab ++ [.accum vc.name]) (n : Nat)
    (v : Word) (a : Bool) : w ≠ .ts n v a := by
  rintro rfl
  rcases List.mem_append.mp hw with h | h
  · obtain ⟨⟨l, i⟩, -, h⟩ := List.mem_flatMap.mp h
    rcases wr_of_mem_viewWrs h with ⟨_, _, h⟩ | ⟨_, _, h⟩ <;> cases h
  · cases List.mem_singleton.mp h

/-- A latch that writes no status does not delay one. -/
theorem Ctx.statusDist_withLatch (k : Ctx) {l : Latch} (hl : ∀ w ∈ l.wrs, ∀ n v a, w ≠ .ts n v a) (n : Nat) :
    (k.withLatch l).statusDist n = k.statusDist n := by
  unfold Ctx.statusDist Ctx.withLatch
  rw [List.filter_append, List.filter_cons_of_neg ?_, List.filter_nil, List.append_nil]
  intro h
  obtain ⟨w, hw, h⟩ := List.any_eq_true.mp h
  cases w with
  | ts j v a => exact hl _ hw j v a rfl
  | _ => cases h

theorem flatMap_zipIdx_range {α β : Type} (f : Nat → α) (g : α × Nat → List β) (n : Nat) :
    ((List.range n).map f).zipIdx.flatMap g = (List.range n).flatMap fun i => g (f i, i) := by
  have hzip : ((List.range n).map f).zipIdx = (List.range n).map fun i => (f i, i) :=
    List.ext_getElem (by simp) fun i _ _ => by simp
  rw [hzip, List.flatMap_map]

theorem State.modCtx_congr {s : State} {h : Nat} {f g : Ctx → Ctx} (hfg : f (s.ctx h) = g (s.ctx h)) : s.modCtx h f = s.modCtx h g := by
  rw [State.modCtx, hfg, State.modCtx]

/-- The last part of a multiply operation: its two latches, and the array taken. -/
theorem hammer_latched {s : State} {h : Nat} (hl : LatchFree s h) {ws : List Wr} (hws : ∀ w ∈ ws, ∀ n v a, w ≠ .ts n v a) (occ code n : Nat)
    (st : Word) (acc : Bool) :
    (do
      let _ ← latchAs h .h (occ + 8) ws code false true
      let t ← getM
      updM State.bump
      modM h fun k => { k with wc := { k.wc with tl := k.wc.tl + 1 }, lats := k.lats ++ [statusLatch k t.clk.tick occ n st acc] }
      updM fun s => s.takeHammer h occ : M Unit) s =
    .ok ((), s.hammered h occ (tileLatch s.clk.tick occ code ws) (statusLatch (s.ctx h) (s.clk.tick + 1) occ n st acc)) := by
  rw [M.bind_ok (latchAs_ok hl), M.bind_ok (getM_apply _), M.bind_ok (updM_apply ..), M.bind_ok (modM_apply ..), updM_apply, State.bump_modCtx,
    State.modCtx_modCtx, State.hammered]
  refine congrArg (fun t : State => Except.ok ((), t.takeHammer h occ)) (State.modCtx_congr ?_)
  have hstatus : statusLatch ((s.ctx h).withLatch (tileLatch s.clk.tick occ code ws)) (s.clk.tick + 1) occ n st acc =
      statusLatch (s.ctx h) (s.clk.tick + 1) occ n st acc := by
    rw [statusLatch, Ctx.statusDist_withLatch _ hws, statusLatch]
  rw [← hstatus]
  rfl

/-- A view skips no row. -/
theorem filter_rowsOfView (k : Ctx) (v : View) (l : List Nat) : (l.filter fun r => ((rowsOfView k v).row r).isSome) = l :=
  List.filter_eq_self.mpr fun _ _ => rfl

theorem exec_hnop_next {s : State} {i : Iss} {g : Guard} (hi : Issues s i g) : exec (.hnop g) s = .next s := by
  obtain ⟨hiss, hguard⟩ := hi
  change execHnop g s = _
  exact slotOp_next (u := ()) hiss hguard (M.pure_apply ..)

/-- With the checks passed and the array, the class and a latch free, a multiply operation on views goes through. -/
theorem hMul_next {narrow : Bool} {x : Tile} {g : Guard} {n b c : BitVec 5} {acc : BitVec 1} {ts : BitVec 3} {sf : BitVec 4} {s : State} {i : Iss}
    {va vb vc : View} (hi : Issues s i g)
    (hva : viewM i.h .h n (flagAt sf 0) 0 s = .ok (va, s)) (hta : va.isTile x.ar x.ac x.af = true)
    (hvb : viewM i.h .h b (flagAt sf 1) 1 s = .ok (vb, s)) (htb : vb.isTile x.br x.bc x.af = true)
    (hvc : viewM i.h .h c (flagAt sf 2) 2 s = .ok (vc, s)) (htc : vc.isTile x.cr x.cc x.cf = true)
    (haccum : (s.ctx i.h).accumOk vc = true)
    (htags : narrow = true → narrowTagsOk x.af ((List.range x.ar).map (fun r => (s.ctx i.h).rtag (va.base + va.stride * r)) ++
      (List.range x.br).map (fun r => (s.ctx i.h).rtag (vb.base + vb.stride * r))) = true)
    (hham : s.hammerFree i.h x.occ = true) (htl : (s.ctx i.h).wc.tl < 63) (hl : LatchFree s i.h) :
    let tab := tileTable narrow x (s.ctx i.h) va vb vc
    hMul narrow x g (.w n) b c acc ts sf s = .next (s.hammered i.h x.occ
      (tileLatch s.clk.tick x.occ (32 + c.toNat) (tileWrs vc tab ++ [.accum vc.name]))
      (statusLatch (s.ctx i.h) (s.clk.tick + 1) x.occ ts.toNat (BitVec.ofNat 64 (tileStatus x tab)) (acc == 1))) := by
  intro tab
  obtain ⟨hiss, hguard⟩ := hi
  refine slotOp_next (u := ()) hiss hguard ?_
  have hA : (do
      let v ← viewM i.h .h n (flagAt sf 0) 0
      needM (v.isTile x.ar x.ac x.af) 3 0
      pure (rowsOfView (s.ctx i.h) v) : M RowsA) s = .ok (rowsOfView (s.ctx i.h) va, s) := by
    rw [M.bind_ok hva, M.bind_ok (needM_true hta ..), M.pure_apply]
  rw [M.bind_ok (ctxM_apply ..), M.bind_ok hA, M.bind_ok hvb, M.bind_ok (needM_true htb ..), M.bind_ok hvc, M.bind_ok (needM_true htc ..),
    M.bind_ok (needM_true haccum ..), M.bind_ok (needM_true ?tags ..), M.bind_ok (getM_apply s), if_neg (by simp [hham]),
    if_neg (by simp only [classMax]; omega)]
  · exact hammer_latched hl (fun _ hw => no_status_of_tileWrs hw) ..
  case tags =>
    cases narrow with
    | false => rfl
    | true =>
      change narrowTagsOk x.af (((List.range x.ar).filter fun r => ((rowsOfView (s.ctx i.h) va).row r).isSome).map _ ++ _) = true
      rw [filter_rowsOfView]
      exact htags rfl

@[simp] theorem State.hammered_mem (s : State) (h occ : Nat) (l m : Latch) : (s.hammered h occ l m).mem = s.mem := rfl

@[simp] theorem State.ctx_hammered (s : State) (h occ : Nat) (l m : Latch) : (s.hammered h occ l m).ctx h = (s.ctx h).multiplied l m := by
  change (s.bump.bump.modCtx h fun c => c.multiplied l m).ctx h = _
  rw [State.ctx_modCtx, if_pos rfl, State.ctx_bump, State.ctx_bump]

theorem State.ham_hammered {s : State} (hs : mkeysFrom none s.ham = true) (h occ : Nat) (l m : Latch) :
    mget 0 (s.hammered h occ l m).ham (coreOf h / 2) = s.clk.wall + occ :=
  (mget_mput 0 s.ham _ _ _ hs).trans (if_pos rfl)

theorem State.hammered_f (s : State) (h occ : Nat) (l m : Latch) : ((s.hammered h occ l m).ctx h).f = (s.ctx h).f := by
  rw [State.ctx_hammered, Ctx.multiplied]

theorem State.hammered_tl (s : State) (h occ : Nat) (l m : Latch) : ((s.hammered h occ l m).ctx h).wc.tl = (s.ctx h).wc.tl + 1 := by
  rw [State.ctx_hammered, Ctx.multiplied]

theorem State.hammered_lats (s : State) (h occ : Nat) (l m : Latch) :
    ((s.hammered h occ l m).ctx h).lats = (s.ctx h).lats ++ [l, m] := by
  rw [State.ctx_hammered]
  exact (List.append_cons ..).symm

/-- With no accumulator pending, a tile starts from C as it stands. -/
theorem tileWrs_of_no_accums {k : Ctx} (hk : k.accums = []) (narrow : Bool) (x : Tile) (va vb vc : View) :
    tileWrs vc (tileTable narrow x k va vb vc) =
      (List.range x.cr).flatMap fun r => viewWrs vc r ((List.range x.cc).map fun j => .val (tileElem narrow x k k va vb vc r j).1) := by
  simp [tileWrs, tileTable, flatMap_zipIdx_range, hk, Function.comp_def]

/-- A multiply operation of either kind, by its class (R285). -/
theorem exec_multiply (narrow : Bool) (g : Guard) (cls : BitVec 2) (a : Opnd) (b c : BitVec 5) (acc : BitVec 1) (ts : BitVec 3) (sf : BitVec 4)
    (s : State) : exec (if narrow then .hmmn g cls a b c acc ts sf else .hmma g cls a b c acc ts sf) s =
      hMul narrow (tileShape narrow cls.toNat) g a b c acc ts sf s := by
  cases narrow <;> rfl

end Sys2Proof.Machine
end

section
/-! SUPPORT. The gather unit: the rows it fetches, and what its issue leaves (R290, R291). -/

namespace Sys2Proof.Machine
open Sys2Proof.Claims

/-- The indexes of a gather: none for a row that is skipped. -/
def gatherIdx (k : Ctx) (w : View) (m : Nat) : List (Option Nat) :=
  (List.range m).map fun i => let x := k.elem w 0 i; if x = 2 ^ fmtBits w.fmt - 1 then none else some x

/-- The latch that a gather fills. -/
def gatherLatch (tok dist : Nat) : Latch :=
  { tok := tok, slot := Slot.h.num, code := 0x4D, dist := dist, here := false, occ := true, tile := true, wrs := [] }

/-- The state with a gather's latch behind the others, and the operation counted. -/
def State.gatherIssued (s : State) (h : Nat) (l : Latch) : State :=
  s.bump.modCtx h fun c => { c with lats := c.lats ++ [l], wc := { c.wc with tl := c.wc.tl + 1 }, q := { c.q with seq := c.q.seq + 1 } }

/-- The command that fetches a gather's rows. -/
def gatherCmd (s : State) (k : Ctx) (h tok : Nat) (b : Desc) (idx : List (Option Nat)) (fl : EFlags) (t : Task) : Cmd :=
  { kind := .gather h tok b.fmt, rows := gatherRows s h b idx, got := [], flag := none, wait := 0, mem := 0, place := (0, 0),
    acq := k.cmdAcq (flAcq fl), rel := flRel fl, susp := none, deny := false, dev := t.dev, dctx := t.dctx }

/-- The state with a command under the next number, which is looked at after a cycle. -/
def State.fetching (s : State) (h : Nat) (cmd : Cmd) : State :=
  { s.bump with cmds := mins s.cmds s.clk.tick cmd }.sched 1 (.memoryAccessPerform h s.clk.tick 0)

theorem forM_ok {α : Type} {f : α → M Unit} {s : State} : ∀ {l : List α}, (∀ a ∈ l, f a s = .ok ((), s)) → l.forM f s = .ok ((), s)
  | [], _ => rfl
  | a :: _, h => (M.bind_ok (h a List.mem_cons_self)).trans (forM_ok fun b hb => h b (List.mem_cons_of_mem a hb))

/-- With the checks passed, and the class and a latch free, a gather starts the fetch of its rows. -/
theorem exec_hgat_next {g : Guard} {v : BitVec 5} {rsc : BitVec 3} {rel : BitVec 1} {asc : BitVec 3} {acq : BitVec 1} {bx sf : BitVec 4} {s : State}
    {i : Iss} {w : View} {m kk : Nat} {t : Task} (hi : Issues s i g)
    (hfl : flagsOk { rsc := rsc, rel := rel, asc := asc, acq := acq } = true) (hw : viewM i.h .h v (flagAt sf 0) 0 s = .ok (w, s))
    (hfmt : w.fmt = 9 ∨ w.fmt = 10) (hdims : gatherDims ((s.ctx i.h).box bx.toNat).fmt = some (m, kk))
    (hlvl : ((s.ctx i.h).box bx.toNat).level ≤ 1) (hm : m ≤ w.cols) (ht : (s.ctx i.h).task = some t)
    (hb : ∀ n < m, (s.ctx i.h).elem w 0 n ≠ 2 ^ fmtBits w.fmt - 1 →
      boundsAll s (s.ctx i.h) ((s.ctx i.h).box bx.toNat) { slot := bx.toNat, crd := [0, (s.ctx i.h).elem w 0 n, 0, 0], mesh := none } kk 1 false =
        .ok ())
    (htl : (s.ctx i.h).wc.tl < 63) (hl : LatchFree s i.h) :
    let b := (s.ctx i.h).box bx.toNat
    let u := s.gatherIssued i.h (gatherLatch s.clk.tick (gatherLat b.level m))
    exec (.hgat g v rsc rel asc acq bx sf) s = .next (u.fetching i.h
      (gatherCmd u (s.ctx i.h) i.h s.clk.tick b (gatherIdx (s.ctx i.h) w m) { rsc := rsc, rel := rel, asc := asc, acq := acq } t)) := by
  intro b u
  obtain ⟨hiss, hguard⟩ := hi
  change execHgat g v rsc rel asc acq bx sf s = _
  refine slotOp_next (u := ()) hiss hguard ?_
  rw [M.bind_ok (needM_true hfl ..), M.bind_ok hw, M.bind_ok (needM_true (by simpa using hfmt) ..), M.bind_ok (ctxM_apply ..)]
  simp only [hdims, ht]
  rw [M.bind_ok (needM_true (decide_eq_true hlvl) ..), M.bind_ok (needM_true (decide_eq_true hm) ..), M.bind_ok (getM_apply s),
    M.bind_ok (forM_ok ?bounds), if_neg (by simp only [classMax]; omega), M.bind_ok (latchAs_ok hl), M.bind_ok (modM_apply ..),
    M.bind_ok (getM_apply _), M.bind_ok (updM_apply ..), M.bind_ok (updM_apply ..), updM_apply]
  · simp only [State.bump_modCtx, State.modCtx_modCtx]
    rfl
  case bounds =>
    intro a ha
    obtain ⟨n, hn, rfl⟩ := List.mem_map.mp ha
    split
    · rfl
    · next hrow => exact (congrArg (fun x => liftM' x s) (hb n (List.mem_range.mp hn) hrow)).trans (liftM'_ok () s)

theorem State.ctx_gatherIssued (s : State) (h : Nat) (l : Latch) : (s.gatherIssued h l).ctx h =
    { s.ctx h with lats := (s.ctx h).lats ++ [l], wc := { (s.ctx h).wc with tl := (s.ctx h).wc.tl + 1 },
                   q := { (s.ctx h).q with seq := (s.ctx h).q.seq + 1 } } := by
  rw [State.gatherIssued, State.ctx_modCtx, if_pos rfl, State.ctx_bump]

theorem State.gatherIssued_f (s : State) (h : Nat) (l : Latch) : ((s.gatherIssued h l).ctx h).f = (s.ctx h).f := by
  rw [State.ctx_gatherIssued]

theorem State.gatherIssued_tl (s : State) (h : Nat) (l : Latch) : ((s.gatherIssued h l).ctx h).wc.tl = (s.ctx h).wc.tl + 1 := by
  rw [State.ctx_gatherIssued]

theorem State.gatherIssued_lats (s : State) (h : Nat) (l : Latch) : ((s.gatherIssued h l).ctx h).lats = (s.ctx h).lats ++ [l] := by
  rw [State.ctx_gatherIssued]

theorem State.mfind_fetching (s : State) (h : Nat) (cmd : Cmd) : mfind (s.fetching h cmd).cmds s.clk.tick = some cmd := mfind_mins_self ..

theorem State.mem_agenda_fetching (s : State) (h : Nat) (cmd : Cmd) :
    (s.clk.wall + 1, .memoryAccessPerform h s.clk.tick 0) ∈ (s.fetching h cmd).agenda :=
  (mem_schedIn ..).mpr (.inl rfl)

theorem gatherCmd_rows_length (s : State) (k : Ctx) (h tok : Nat) (b : Desc) (w : View) (m : Nat) (fl : EFlags) (t : Task) :
    (gatherCmd s k h tok b (gatherIdx k w m) fl t).rows.length = m := by
  simp [gatherCmd, gatherRows, gatherIdx]

end Sys2Proof.Machine
end

section
/-! The hammer's operations (R48 to R50, R159, R207, R285 to R292). -/

open Sys2Proof Sys2Proof.Machine Sys2Proof.Claims

/-- Settles O36: a multiply operation leaves its tile and its status in two latches behind the others, and a gather the command that fetches
its rows. -/
theorem hammerOperations : Obligations.HammerOperations := by
  unfold Obligations.HammerOperations
  intro g cls sf s i hi
  refine ⟨exec_hnop_next hi, ?multiply, ?gather⟩
  case multiply =>
    intro narrow n b c acc ts va vb vc k z hva hta hvb htb hvc htc haccum htags hham htl hl
    have hnext := (exec_multiply narrow ..).trans
      (hMul_next (acc := acc) (ts := ts) hi hva hta hvb htb hvc htc haccum htags hham htl hl)
    refine ⟨_, tileWrs vc (tileTable narrow z k va vb vc), _, _, _, hnext, State.hammered_mem .., State.hammered_f .., State.hammered_tl ..,
      fun hs => State.ham_hammered hs .., State.hammered_lats .., rfl, rfl, rfl, rfl, rfl, rfl, rfl, ?_, ?_⟩
    all_goals
      rintro rfl hk
      exact tileWrs_of_no_accums hk ..
  case gather =>
    intro v rsc rel asc acq bx w m kk t k b hfl hw hfmt hdims hlvl hm ht hb htl hl
    exact ⟨_, _, _, exec_hgat_next hi hfl hw hfmt hdims hlvl hm ht hb htl hl, rfl, State.gatherIssued_f .., State.gatherIssued_tl ..,
      State.gatherIssued_lats .., rfl, rfl, rfl, State.mfind_fetching .., gatherCmd_rows_length .., State.mem_agenda_fetching ..⟩

end
